-- ==== Sys2Proof/Word.lean ====
section
/-! DEFINITION. The word types of the Kamol and their plainest views (R10, R42, R91). -/

namespace Sys2Proof

/-- A byte of memory. -/
abbrev Byte := BitVec 8

/-- A 32-bit register of one lane (R24). -/
abbrev Word := BitVec 32

/-- A 64-bit value: a g register, an address, a register pair (R42). -/
abbrev DWord := BitVec 64

/-- A lane mask: bit i stands for lane i (R11). -/
abbrev Mask := BitVec 32

/-- The number held in bits hi:lo of a value (R10). -/
abbrev bits (hi lo : Nat) (x : BitVec n) : Nat := (x.extractLsb hi lo).toNat

/-- Bit i of a value. -/
abbrev bit (i : Nat) (x : BitVec n) : Bool := x.getLsbD i

/-- Lane i belongs to the mask (R11). -/
abbrev Mask.has (m : Mask) (i : Nat) : Bool := m.getLsbD i

end Sys2Proof
end

