-- ==== Sys2Proof/Config.lean ====
section
/-! DEFINITION. The free values: constants with no body, which stand for every value the spec leaves open, and
the board values an implementation fixes. -/

namespace Sys2Proof.Config

/-- A fresh open bit: a short read's choice of old or new (R58), a choice among allowed values (DESIGN CHOICE, log 5). -/
opaque freeBit : Nat → Bool
/-- A fresh open 32-bit value (DESIGN CHOICE, log 5). -/
opaque freeWord : Nat → BitVec 32
/-- A fresh open number, to be taken modulo the number of allowed choices (DESIGN CHOICE, log 5). -/
opaque freeNat : Nat → Nat
/-- The value a special function gives inside the bound of R151: by opcode, operand and flush setting, so one
device answers the same every time (R151; DESIGN CHOICE, log 8). -/
opaque special : Nat → BitVec 32 → Bool → BitVec 32
/-- Whether an image passes the check of R395: image number and bytes (DESIGN CHOICE, log 21). -/
opaque imageValid : Nat → List (BitVec 8) → Bool
/-- The SLH-DSA-SHA2-128s signature over an attestation report (R396; DESIGN CHOICE, log 21). -/
opaque signature : List (BitVec 8) → Nat → BitVec 8
/-- The SHA-256 digest of an image of R395, number and bytes, byte by byte (R396; DESIGN CHOICE, log 21). -/
opaque digest : Nat → List (BitVec 8) → Nat → BitVec 8
/-- The fused serial, 16 bytes (R397; DESIGN CHOICE, log 21). -/
opaque serial : Nat → BitVec 8
/-- The security version of an image, number and bytes (R395, R396; DESIGN CHOICE, log 21). -/
opaque securityVersion : Nat → List (BitVec 8) → BitVec 32
/-- What the management controller lays in DRAM at cold initialisation, address and byte, and the translation root of each
context, so that code can start there (R395, R400; DESIGN CHOICE, log 101). -/
opaque bootMemory : List (Nat × BitVec 8)
opaque bootRoot : Nat → BitVec 64
/-- The supervisor launch queue of a context: its block's address, and a number each for scope, capacity and slot array
(R392, R400; DESIGN CHOICE, log 101). -/
opaque supervisorQueue : Nat → BitVec 64
opaque supervisorScope : Nat → Nat
opaque supervisorCapacity : Nat → Nat
opaque supervisorSlots : Nat → Nat
/-- The manifest that starts the context supervisor (R395; DESIGN CHOICE, log 101). -/
opaque supervisorManifest : List (BitVec 8)
/-- The set that a 128-byte line lies in, of an L1 and of its slice, to be taken modulo the number of sets; and the
line that a full set gives up, modulo the number that may go (DESIGN CHOICE, log 10). -/
opaque l1Set : Nat → Nat
opaque sliceSet : Nat → Nat
opaque victim : Nat → Nat
/-- Spare rows of a bank that repair may use (R335; DESIGN CHOICE, log 33). -/
opaque spareRows : Nat

end Sys2Proof.Config
end

