-- ==== Sys2Proof/Machine/Numbers.lean ====
section
/-! DEFINITION. The number formats of R87 to R98: values, exact sums and products, one rounding, flags. -/

namespace Sys2Proof.Machine

/-- Flags in the layout of R99: NV, DZ, OF, UF, NX from bit 0. -/
abbrev Flags := BitVec 5
abbrev flNV : Flags := 1
abbrev flDZ : Flags := 2
abbrev flOF : Flags := 4
abbrev flUF : Flags := 8
abbrev flNX : Flags := 16

/-- Rounding modes by code (R51): 0 rne, 1 rz, 2 ru, 3 rd. -/
abbrev Mode := Nat

/-- A floating format (R87). `maxF`: the largest finite encoding; `nan`, `poison`: the canonical and poison
NaN encodings (R89), where there are any. -/
structure Fmt where
  bits : Nat
  ebits : Nat
  mbits : Nat
  bias : Nat
  inf : Bool
  maxF : Nat
  nan : Option Nat
  poison : Option Nat

/-- The eight floating formats by type code (R50, R87, R89). -/
def fmtOf (ty : Nat) : Fmt :=
  match ty with
  | 9 => ⟨16, 5, 10, 15, true, 0x7BFF, some 0x7E00, some 0x7E0B⟩
  | 10 => ⟨16, 8, 7, 127, true, 0x7F7F, some 0x7FC0, some 0x7FCB⟩
  | 11 => ⟨8, 4, 3, 7, false, 0x7E, some 0x7F, none⟩
  | 12 => ⟨8, 5, 2, 15, true, 0x7B, some 0x7E, none⟩
  | 13 => ⟨6, 2, 3, 1, false, 0x1F, none, none⟩
  | 14 => ⟨6, 3, 2, 3, false, 0x1F, none, none⟩
  | 15 => ⟨4, 2, 1, 1, false, 0x7, none, none⟩
  | _ => ⟨32, 8, 23, 127, true, 0x7F7F_FFFF, some 0x7FC0_0000, some 0x7FC0_0BAD⟩

abbrev f32 : Fmt := fmtOf 8
abbrev f16 : Fmt := fmtOf 9

/-- A value: a NaN with whether it raises invalid, whether it is poison and its sign; an infinity; or
(−1)^neg × m × 2^e, a little more in magnitude when `more` is set (a quotient's or root's remainder). -/
inductive FVal where
  | nan (nv poison neg : Bool)
  | inf (neg : Bool)
  | fin (neg : Bool) (m : Nat) (e : Int) (more : Bool)
deriving DecidableEq, Repr

/-- The value of an encoding (R88 to R90); `flush` reads a subnormal as zero of its sign (R94). -/
def FVal.read (f : Fmt) (flush : Bool) (x : Nat) : FVal :=
  let mag := x % 2 ^ (f.bits - 1)
  let neg := x / 2 ^ (f.bits - 1) % 2 = 1
  let e := mag / 2 ^ f.mbits
  let m := mag % 2 ^ f.mbits
  if f.inf && e = 2 ^ f.ebits - 1 then
    if m = 0 then .inf neg
    else .nan (m < 2 ^ (f.mbits - 1)) (f.poison = some mag) neg
  else if !f.inf && f.nan = some mag then .nan false false neg
  else if e = 0 then
    .fin neg (if flush then 0 else m) (1 - (f.bias : Int) - f.mbits) false
  else .fin neg (m + 2 ^ f.mbits) ((e : Int) - f.bias - f.mbits) false

/-- An integer as a value. -/
def FVal.ofInt (x : Int) : FVal := .fin (x < 0) x.natAbs 0 false

/-- m × 2^e (and a little more) rounded to a multiple of 2^q: the multiple and whether it differs (R92). -/
def roundAt (mode : Mode) (neg : Bool) (m : Nat) (e : Int) (more : Bool) (q : Int) : Nat × Bool :=
  if q ≤ e then (m * 2 ^ (e - q).toNat, more)
  else
    let k := (q - e).toNat
    let n := m / 2 ^ k
    let r := m % 2 ^ k
    let half := 2 ^ (k - 1)
    let inexact := r ≠ 0 || more
    let up : Bool :=
      match mode with
      | 0 => (half < r) || (r = half && (more || n % 2 = 1))
      | 1 => false
      | 2 => inexact && !neg
      | _ => inexact && neg
    (if up then n + 1 else n, inexact)

/-- A sign and a magnitude encoding together. -/
def withSign (f : Fmt) (neg : Bool) (mag : Nat) : Nat := if neg then mag + 2 ^ (f.bits - 1) else mag

/-- What replaces an overflowing result (R93). DEDUCED, log 56. -/
def overflowEnc (f : Fmt) (mode : Mode) (sat neg : Bool) : Nat :=
  let toMax : Bool := sat || f.nan.isNone ||
    (match mode with | 0 => false | 1 => true | 2 => neg | _ => !neg)
  if toMax then withSign f neg f.maxF
  else if f.inf then withSign f neg (f.maxF + 1)
  else f.nan.getD 0

/-- The NaN an operation answers (R89, R90); +0 in a format without NaNs, which raises invalid (R96). -/
def nanEnc (f : Fmt) (poison : Bool) : Nat :=
  if poison then (f.poison <|> f.nan).getD 0 else f.nan.getD 0

/-- A value rounded once into a format, with the flags of R92 to R94. -/
def FVal.round (f : Fmt) (mode : Mode) (flush sat : Bool) (v : FVal) : Nat × Flags :=
  match v with
  | .nan nv poison _ =>
    (nanEnc f poison, if nv || (f.nan.isNone && !poison) then flNV else 0)
  | .inf neg =>
    if f.inf then (withSign f neg (f.maxF + 1), 0)
    else (overflowEnc f 0 sat neg, flNV)
  | .fin neg m e more =>
    if m = 0 && !more then (withSign f neg 0, 0)
    else
      let lead : Int := (Nat.log2 m : Int) + e
      let q1 := lead - f.mbits
      let n1 := (roundAt mode neg m e more q1).1
      let qmin : Int := 1 - (f.bias : Int) - f.mbits
      let enc1 : Int := (q1 - qmin) * 2 ^ f.mbits + n1
      if (f.maxF : Int) < enc1 then (overflowEnc f mode sat neg, flOF ||| flNX)
      else
        let tiny : Bool := enc1 < 2 ^ f.mbits
        let q := max q1 qmin
        let (n, inexact) := roundAt mode neg m e more q
        if tiny && flush then (withSign f neg 0, flUF ||| flNX)
        else
          let enc : Int := (q - qmin) * 2 ^ f.mbits + n
          (withSign f neg enc.toNat,
            if inexact then (if tiny then flUF ||| flNX else flNX) else 0)

/-- Sign inverted. -/
def FVal.negate : FVal → FVal
  | .nan nv p s => .nan nv p !s
  | .inf s => .inf !s
  | .fin s m e r => .fin (!s) m e r

/-- Two NaN-or-other operands: the NaN they make, if any (R89, R90, R146). It has no sign, so
that an E4M3 NaN of a product is 0x7F (R95, R156, R204). DESIGN CHOICE, log 80. -/
def nanOf (a b : FVal) : Option FVal :=
  match a, b with
  | .nan n p _, .nan n' p' _ => some (.nan (n || n') (p || p') false)
  | .nan n p _, _ => some (.nan n p false)
  | _, .nan n p _ => some (.nan n p false)
  | _, _ => none

/-- The exact product; zero times infinity is an invalid NaN (R147). -/
def FVal.mul (a b : FVal) : FVal :=
  match nanOf a b with
  | some n => n
  | none =>
    match a, b with
    | .inf s, .inf t => .inf (s != t)
    | .inf s, .fin t m _ _ => if m = 0 then .nan true false false else .inf (s != t)
    | .fin s m _ _, .inf t => if m = 0 then .nan true false false else .inf (s != t)
    | .fin s m e _, .fin t m' e' _ => .fin (s != t) (m * m') (e + e') false
    | _, _ => .nan false false false

/-- A signed integer over 2^e. -/
def signed (neg : Bool) (m : Nat) : Int := if neg then -(m : Int) else m

/-- The exact sum; opposite infinities are an invalid NaN (R147, R158). The sign of a zero sum follows R92:
operands of like sign keep it, otherwise + but − under rd. -/
def FVal.add (mode : Mode) (a b : FVal) : FVal :=
  match nanOf a b with
  | some n => n
  | none =>
    match a, b with
    | .inf s, .inf t => if s = t then .inf s else .nan true false false
    | .inf s, _ => .inf s
    | _, .inf t => .inf t
    | .fin s m e _, .fin t m' e' _ =>
      let q := min e e'
      let x := signed s (m * 2 ^ (e - q).toNat) + signed t (m' * 2 ^ (e' - q).toNat)
      if x = 0 then .fin (if s = t then s else mode = 3) 0 q false
      else .fin (x < 0) x.natAbs q false
    | _, _ => .nan false false false

/-- The exact sum of a list; a sum of nothing is +0. -/
def FVal.sum (mode : Mode) : List FVal → FVal
  | [] => .fin false 0 0 false
  | [a] => a
  | a :: rest => FVal.add mode a (FVal.sum mode rest)

/-- The quotient with at least 30 significant bits and its remainder noted (R147). -/
def FVal.div (a b : FVal) : FVal × Flags :=
  match nanOf a b with
  | some n => (n, 0)
  | none =>
    match a, b with
    | .inf _, .inf _ => (.nan true false false, 0)
    | .inf s, .fin t _ _ _ => (.inf (s != t), 0)
    | .fin s _ _ _, .inf t => (.fin (s != t) 0 0 false, 0)
    | .fin s m e _, .fin t m' e' _ =>
      if m' = 0 then
        if m = 0 then (.nan true false false, 0) else (.inf (s != t), flDZ)
      else
        let k := 64 + Nat.log2 (m' + 1)
        let n := m * 2 ^ k
        (.fin (s != t) (n / m') (e - e' - k) (n % m' ≠ 0), 0)
    | _, _ => (.nan false false false, 0)

/-- Integer square root by bits from a weight down. -/
def isqrtAux : Nat → Nat → Nat → Nat
  | 0, _, r => r
  | k + 1, x, r => let c := r + 2 ^ k; isqrtAux k x (if c * c ≤ x then c else r)

/-- The integer square root of a number below 2^256. -/
def isqrt (x : Nat) : Nat := isqrtAux 128 x 0

/-- The square root with its remainder noted (R151, R152). -/
def FVal.sqrt (a : FVal) : FVal :=
  match a with
  | .nan n p s => .nan n p s
  | .inf false => .inf false
  | .inf true => .nan true false false
  | .fin s m e _ =>
    if m = 0 then .fin s 0 0 false
    else if s then .nan true false false
    else
      let k := 100 + (e % 2).toNat
      let n := m * 2 ^ k
      let r := isqrt n
      .fin false r ((e - k) / 2) (r * r ≠ n)

/-- An order of two values that are not NaN: a < b, −0 below +0 only when `zeros` is set (R148, R149). -/
def FVal.lt (zeros : Bool) (a b : FVal) : Bool :=
  match a, b with
  | .inf s, .inf t => s && !t
  | .inf s, _ => s
  | _, .inf t => !t
  | .fin s m e _, .fin t m' e' _ =>
    let q := min e e'
    let x := signed s (m * 2 ^ (e - q).toNat)
    let y := signed t (m' * 2 ^ (e' - q).toNat)
    x < y || (zeros && m = 0 && m' = 0 && s && !t)
  | _, _ => false

/-- Equality of two values that are not NaN; −0 equals +0. -/
def FVal.eqv (a b : FVal) : Bool :=
  match a, b with
  | .inf s, .inf t => s = t
  | .fin .., .fin .. => !FVal.lt false a b && !FVal.lt false b a
  | _, _ => false

def FVal.isNan : FVal → Bool
  | .nan .. => true
  | _ => false

/-- A NaN that raises invalid. -/
def FVal.isSig : FVal → Bool
  | .nan nv _ _ => nv
  | _ => false

def FVal.isPoison : FVal → Bool
  | .nan _ p _ => p
  | _ => false

/-- A value rounded to an integer by a mode, with whether it changes (R98, R153). -/
def roundInt (mode : Mode) (neg : Bool) (m : Nat) (e : Int) : Int × Bool :=
  let (n, x) := roundAt mode neg m e false 0
  (signed neg n, x)

/-- Conversion to an integer type of w bits (R98): the bits and flags. -/
def toIntTy (mode : Mode) (w : Nat) (isSigned : Bool) (v : FVal) : Nat × Flags :=
  let lo : Int := if isSigned then -(2 ^ (w - 1) : Nat) else 0
  let hi : Int := if isSigned then (2 ^ (w - 1) : Nat) - 1 else (2 ^ w : Nat) - 1
  let out (x : Int) : Nat := (x % (2 ^ w : Nat)).toNat
  match v with
  | .nan _ poison _ => (0, if poison then 0 else flNV)
  | .inf s => (out (if s then lo else hi), flNV)
  | .fin s m e _ =>
    let (x, inexact) := roundInt mode s m e
    if x < lo then (out lo, flNV) else if hi < x then (out hi, flNV)
    else (out x, if inexact then flNX else 0)

/-- Conversion into E8M0 (R97). -/
def toE8M0 (mode : Mode) (sat : Bool) (v : FVal) : Nat × Flags :=
  match v with
  | .nan _ poison _ => (0xFF, if poison then 0 else flNV)
  | .inf _ => (if sat then 0xFE else 0xFF, flNV)
  | .fin _ m e _ =>
    if m = 0 then (0xFF, flNV)
    else
      let k := Nat.log2 m
      let lo : Int := (k : Int) + e
      let exact : Bool := m = 2 ^ k
      let ex : Int :=
        if exact then lo
        else match mode with
          | 0 => if 2 * m < 3 * 2 ^ k then lo else if 3 * 2 ^ k < 2 * m then lo + 1
                 else if (lo + 127) % 2 = 0 then lo else lo + 1
          | 2 => lo + 1
          | _ => lo
      if 127 < ex then (if sat then 0xFE else 0xFF, flOF ||| flNX)
      else if ex < -127 then (0, flUF ||| flNX)
      else ((ex + 127).toNat, if exact then 0 else flNX)

/-- The value of an E8M0 encoding; 0xFF reads as a quiet NaN (R88, R97). -/
def ofE8M0 (x : Nat) : FVal :=
  if x % 256 = 0xFF then .nan false false false else .fin false 1 ((x % 256 : Nat) - 127) false

/-- A value of one floating format converted into another (R95, R96): NaN signs kept in E4M3 only, a NaN
into a format without NaNs gives +0 with invalid. -/
def convertFloat (dst : Fmt) (mode : Mode) (flush sat : Bool) (v : FVal) : Nat × Flags :=
  match v with
  | .nan nv poison neg =>
    if dst.nan.isNone then (0, if poison then 0 else flNV)
    else
      let enc := nanEnc dst poison
      let signed := dst.bits = 8 && !dst.inf && neg && !poison
      (if signed then withSign dst true enc else enc, if nv then flNV else 0)
  | .inf neg =>
    if dst.inf then (withSign dst neg (dst.maxF + 1), 0)
    else (overflowEnc dst 0 sat neg, flNV)
  | v => v.round dst mode flush sat

/-- The value of a bit pattern of f32. -/
def rd32 (flush : Bool) (x : BitVec 32) : FVal := FVal.read f32 flush x.toNat

/-- A value rounded to f32. -/
def rnd32 (mode : Mode) (flush : Bool) (v : FVal) : BitVec 32 × Flags :=
  let (b, f) := v.round f32 mode flush false
  (BitVec.ofNat 32 b, f)

/-- The poison word of R90. -/
abbrev poisonWord : BitVec 32 := 0x7FC0_0BAD

end Sys2Proof.Machine
end

