-- ==== Sys2Proof/Syntax.lean ====
section
/-! DEFINITION. The instructions and events of the Kamol: one constructor of `Instr` for each row of
spec/opcode_table.json, over the operand fields of spec/02_instruction_formats.md. -/

namespace Sys2Proof

/-- Operand classes 0 to 7 (R41). -/
inductive Cls where
  | v | o | l | g | p | port | imm | lit
deriving DecidableEq, Repr, Inhabited

/-- Kinds of lane-permutation pattern; 6 and 7 are reserved (R48). -/
inductive Pat where
  | ident | rot | bcast | bfly | mir | fold | res6 | res7
deriving DecidableEq, Repr, Inhabited

/-- A 20-bit source field (R40). -/
structure Src where
  cls : Cls
  idx : BitVec 8
  pat : Pat
  param : BitVec 5
  neg : Bool
deriving DecidableEq, Repr, Inhabited

/-- A 12-bit destination field (R38, extended word 1). -/
structure Dst where
  cls : Cls
  idx : BitVec 8
  sat : Bool
deriving DecidableEq, Repr, Inhabited

/-- The fields of an extended instruction but its opcode (R38, R39, R52, R53).
`c` is the C field: a third source, memory control or a source type; `lit` is present in length 11. -/
structure Ext where
  stall : BitVec 4
  gp : BitVec 5
  gn : Bool
  mod : BitVec 10
  a : Src
  d : Dst
  b : Src
  c : BitVec 12
  lit : Option (BitVec 64)
deriving DecidableEq, Repr, Inhabited

/-- The fields of a base word but its opcode (R35); `lit` is present in length 10 (R37). -/
structure Base where
  b : BitVec 6
  a : BitVec 6
  d : BitVec 6
  g : BitVec 3
  s : BitVec 2
  lit : Option (BitVec 64)
deriving DecidableEq, Repr, Inhabited

/-- Type codes 0 to 16 (R50). -/
inductive Ty where
  | i8 | i16 | i32 | i64 | n8 | n16 | n32 | n64 | f32 | f16 | bf16 | e4m3 | e5m2 | e2m3 | e3m2 | e2m1 | i4
deriving DecidableEq, Repr, Inhabited

/-- A waybill as it arrives: its 32-byte header's fields and its payload (R358). `rsvd` is true when a
reserved bit is set. -/
structure Waybill where
  src : BitVec 16
  dst : BitVec 16
  ctx : BitVec 3
  typ : BitVec 8
  ver : BitVec 8
  seq : BitVec 64
  ack : BitVec 64
  sack : BitVec 32
  ao : Bool
  rsvd : Bool
  payload : List (BitVec 8)
deriving DecidableEq, Repr, Inhabited

/-- An inbound RoCEv2 request (R354 to R356, R391): its queue pair and packet sequence number, the context and key it names,
the virtual address, the length of a READ and the bytes of a WRITE or SEND. -/
structure Rdma where
  qp : Nat
  psn : BitVec 24
  ctx : Nat
  key : BitVec 32
  va : BitVec 64
  len : Nat
  data : List (BitVec 8)
deriving DecidableEq, Repr, Inhabited

/-- Every row of the opcode table. The first 145 are the extended operations of R79, the next 53 the
base forms of R82; the others are the device's events, which no instruction word names (but for
UNASSIGNED_OPCODE, what the decoder answers for the unassigned words of R80 and R84). -/
inductive Instr where
  /-- IADD (R116). -/
  | iadd (x : Ext)
  /-- IADD3 (R116). -/
  | iadd3 (x : Ext)
  /-- ISUB (R116). -/
  | isub (x : Ext)
  /-- IMUL (R116). -/
  | imul (x : Ext)
  /-- IMULH (R116). -/
  | imulh (x : Ext)
  /-- IMAD (R116). -/
  | imad (x : Ext)
  /-- IDIV (R116). -/
  | idiv (x : Ext)
  /-- IREM (R116). -/
  | irem (x : Ext)
  /-- IMIN (R116). -/
  | imin (x : Ext)
  /-- IMAX (R116). -/
  | imax (x : Ext)
  /-- IABS (R116). -/
  | iabs (x : Ext)
  /-- INEG (R116). -/
  | ineg (x : Ext)
  /-- IDOT4 (R116). -/
  | idot4 (x : Ext)
  /-- LEA (R116). -/
  | lea (x : Ext)
  /-- AND (R119). -/
  | and (x : Ext)
  /-- OR (R119). -/
  | or (x : Ext)
  /-- XOR (R119). -/
  | xor (x : Ext)
  /-- ANDN (R119). -/
  | andn (x : Ext)
  /-- NOT (R119). -/
  | not (x : Ext)
  /-- SHL (R119). -/
  | shl (x : Ext)
  /-- SHR (R119). -/
  | shr (x : Ext)
  /-- SAR (R119). -/
  | sar (x : Ext)
  /-- ROTL (R119). -/
  | rotl (x : Ext)
  /-- POPC (R119). -/
  | popc (x : Ext)
  /-- CLZ (R119). -/
  | clz (x : Ext)
  /-- CTZ (R119). -/
  | ctz (x : Ext)
  /-- BREV (R119). -/
  | brev (x : Ext)
  /-- BFX (R120). -/
  | bfx (x : Ext)
  /-- BFI (R120). -/
  | bfi (x : Ext)
  /-- ICMP (R121). -/
  | icmp (x : Ext)
  /-- ISEL (R122). -/
  | isel (x : Ext)
  /-- MOV (R123). -/
  | mov (x : Ext)
  /-- MOVL (R123). -/
  | movl (x : Ext)
  /-- PAND (R124). -/
  | pand (x : Ext)
  /-- POR (R124). -/
  | por (x : Ext)
  /-- PXOR (R124). -/
  | pxor (x : Ext)
  /-- PNOT (R124). -/
  | pnot (x : Ext)
  /-- PMOV (R124). -/
  | pmov (x : Ext)
  /-- VOTE (R125). -/
  | vote (x : Ext)
  /-- SHFL (R126). -/
  | shfl (x : Ext)
  /-- REDUX (R127). -/
  | redux (x : Ext)
  /-- SCAN (R127). -/
  | scan (x : Ext)
  /-- XCHG (R128). -/
  | xchg (x : Ext)
  /-- BRA (R131). -/
  | bra (x : Ext)
  /-- BRD (R134). -/
  | brd (x : Ext)
  /-- JOIN (R135). -/
  | join (x : Ext)
  /-- LOOP (R136). -/
  | loop (x : Ext)
  /-- BRK (R136). -/
  | brk (x : Ext)
  /-- CALL (R139). -/
  | call (x : Ext)
  /-- RET (R140). -/
  | ret (x : Ext)
  /-- JMPI (R132). -/
  | jmpi (x : Ext)
  /-- EXIT (R138). -/
  | exit (x : Ext)
  /-- NOP (R142). -/
  | nop (x : Ext)
  /-- YIELD (R142). -/
  | yield (x : Ext)
  /-- FADD (R147). -/
  | fadd (x : Ext)
  /-- FSUB (R147). -/
  | fsub (x : Ext)
  /-- FMUL (R147). -/
  | fmul (x : Ext)
  /-- FFMA (R147). -/
  | ffma (x : Ext)
  /-- FMIN (R148). -/
  | fmin (x : Ext)
  /-- FMAX (R148). -/
  | fmax (x : Ext)
  /-- FCMP (R149). -/
  | fcmp (x : Ext)
  /-- FCLASS (R150). -/
  | fclass (x : Ext)
  /-- FDIV (R147). -/
  | fdiv (x : Ext)
  /-- FRCP (R151). -/
  | frcp (x : Ext)
  /-- FRSQ (R151). -/
  | frsq (x : Ext)
  /-- FSQRT (R151). -/
  | fsqrt (x : Ext)
  /-- FEX2 (R151). -/
  | fex2 (x : Ext)
  /-- FLG2 (R151). -/
  | flg2 (x : Ext)
  /-- FSIN (R151). -/
  | fsin (x : Ext)
  /-- FCOS (R151). -/
  | fcos (x : Ext)
  /-- FRND (R153). -/
  | frnd (x : Ext)
  /-- CVT (R154). -/
  | cvt (x : Ext)
  /-- CVTSC (R156). -/
  | cvtsc (x : Ext)
  /-- HADD2 (R157). -/
  | hadd2 (x : Ext)
  /-- HMUL2 (R157). -/
  | hmul2 (x : Ext)
  /-- HFMA2 (R157). -/
  | hfma2 (x : Ext)
  /-- HDOT2 (R158). -/
  | hdot2 (x : Ext)
  /-- QDOT4 (R159). -/
  | qdot4 (x : Ext)
  /-- LD (R165). -/
  | ld (x : Ext)
  /-- ST (R166). -/
  | st (x : Ext)
  /-- LDFE (R167). -/
  | ldfe (x : Ext)
  /-- STFE (R167). -/
  | stfe (x : Ext)
  /-- SBIND (R168). -/
  | sbind (x : Ext)
  /-- SCLOSE (R170). -/
  | sclose (x : Ext)
  /-- ATOM (R172). -/
  | atom (x : Ext)
  /-- RED (R172). -/
  | red (x : Ext)
  /-- FENCE (R177). -/
  | fence (x : Ext)
  /-- FENCEX (R178). -/
  | fencex (x : Ext)
  /-- FENCEA (R179). -/
  | fencea (x : Ext)
  /-- CPY (R185). -/
  | cpy (x : Ext)
  /-- CPYT (R186). -/
  | cpyt (x : Ext)
  /-- CPYG (R187). -/
  | cpyg (x : Ext)
  /-- CPYR (R188). -/
  | cpyr (x : Ext)
  /-- TLD (R194). -/
  | tld (x : Ext)
  /-- TST (R194). -/
  | tst (x : Ext)
  /-- TMOV (R194). -/
  | tmov (x : Ext)
  /-- MZERO (R194). -/
  | mzero (x : Ext)
  /-- MMA (R199). -/
  | mma (x : Ext)
  /-- MLOOP (R202). -/
  | mloop (x : Ext)
  /-- MLDA (R203). -/
  | mlda (x : Ext)
  /-- MSTA (R203). -/
  | msta (x : Ext)
  /-- MCVT (R204). -/
  | mcvt (x : Ext)
  /-- BFENCE (R210). -/
  | bfence (x : Ext)
  /-- BWAIT (R211). -/
  | bwait (x : Ext)
  /-- BPOLL (R211). -/
  | bpoll (x : Ext)
  /-- QINIT (R213). -/
  | qinit (x : Ext)
  /-- QENQ (R215). -/
  | qenq (x : Ext)
  /-- QDEQ (R216). -/
  | qdeq (x : Ext)
  /-- QSTAT (R218). -/
  | qstat (x : Ext)
  /-- MUSTER_INIT (R221). -/
  | musterInit (x : Ext)
  /-- MUSTER_ARRIVE (R221). -/
  | musterArrive (x : Ext)
  /-- MUSTER_WAIT (R221). -/
  | musterWait (x : Ext)
  /-- MUSTER_POLL (R221). -/
  | musterPoll (x : Ext)
  /-- CLAIM (R222). -/
  | claim (x : Ext)
  /-- GIVE (R222). -/
  | give (x : Ext)
  /-- RELAY (R224). -/
  | relay (x : Ext)
  /-- CANCEL (R227). -/
  | cancel (x : Ext)
  /-- CNTRD (R227). -/
  | cntrd (x : Ext)
  /-- BAR (R228). -/
  | bar (x : Ext)
  /-- NMDOT (R240). -/
  | nmdot (x : Ext)
  /-- NMDIST (R240). -/
  | nmdist (x : Ext)
  /-- NMLUT (R242). -/
  | nmlut (x : Ext)
  /-- NMRED (R243). -/
  | nmred (x : Ext)
  /-- NMFILL (R244). -/
  | nmfill (x : Ext)
  /-- SEARCH (R245). -/
  | search (x : Ext)
  /-- SCANCEL (R249). -/
  | scancel (x : Ext)
  /-- WNODE (R251). -/
  | wnode (x : Ext)
  /-- WNBR (R251). -/
  | wnbr (x : Ext)
  /-- WDIST (R251). -/
  | wdist (x : Ext)
  /-- WHEAP (R251). -/
  | wheap (x : Ext)
  /-- WKTH (R251). -/
  | wkth (x : Ext)
  /-- WVISIT (R251). -/
  | wvisit (x : Ext)
  /-- WHOP (R251). -/
  | whop (x : Ext)
  /-- WSPAWN (R251). -/
  | wspawn (x : Ext)
  /-- WEND (R251). -/
  | wend (x : Ext)
  /-- TRAP (R229). -/
  | trap (x : Ext)
  /-- RTT (R230). -/
  | rtt (x : Ext)
  /-- TMASK (R230). -/
  | tmask (x : Ext)
  /-- TUNMASK (R230). -/
  | tunmask (x : Ext)
  /-- SRD (R231). -/
  | srd (x : Ext)
  /-- SWR (R231). -/
  | swr (x : Ext)
  /-- BKPT (R229). -/
  | bkpt (x : Ext)
  /-- PFRD (R232). -/
  | pfrd (x : Ext)
  /-- TIME (R232). -/
  | time (x : Ext)
  /-- SLEEP (R232). -/
  | sleep (x : Ext)
  /-- IADD_I32_REG (R116). -/
  | iaddI32Reg (w : Base)
  /-- IADD_I32_IMM (R116). -/
  | iaddI32Imm (w : Base)
  /-- ISUB_I32_REG (R116). -/
  | isubI32Reg (w : Base)
  /-- ISUB_I32_IMM (R116). -/
  | isubI32Imm (w : Base)
  /-- IMUL_I32_REG (R116). -/
  | imulI32Reg (w : Base)
  /-- IMUL_I32_IMM (R116). -/
  | imulI32Imm (w : Base)
  /-- IMAD_I32_BASE (R116). -/
  | imadI32Base (w : Base)
  /-- IMULH_I32_BASE (R116). -/
  | imulhI32Base (w : Base)
  /-- IMULH_N32_BASE (R116). -/
  | imulhN32Base (w : Base)
  /-- IMIN_I32_BASE (R116). -/
  | iminI32Base (w : Base)
  /-- IMAX_I32_BASE (R116). -/
  | imaxI32Base (w : Base)
  /-- IMIN_N32_BASE (R116). -/
  | iminN32Base (w : Base)
  /-- IMAX_N32_BASE (R116). -/
  | imaxN32Base (w : Base)
  /-- IABS_I32_BASE (R116). -/
  | iabsI32Base (w : Base)
  /-- INEG_I32_BASE (R116). -/
  | inegI32Base (w : Base)
  /-- IADD_I64_BASE (R116). -/
  | iaddI64Base (w : Base)
  /-- AND_N32_REG (R119). -/
  | andN32Reg (w : Base)
  /-- AND_N32_IMM (R119). -/
  | andN32Imm (w : Base)
  /-- OR_N32_REG (R119). -/
  | orN32Reg (w : Base)
  /-- OR_N32_IMM (R119). -/
  | orN32Imm (w : Base)
  /-- XOR_N32_REG (R119). -/
  | xorN32Reg (w : Base)
  /-- XOR_N32_IMM (R119). -/
  | xorN32Imm (w : Base)
  /-- ANDN_N32_BASE (R119). -/
  | andnN32Base (w : Base)
  /-- NOT_N32_BASE (R119). -/
  | notN32Base (w : Base)
  /-- SHL_N32_REG (R119). -/
  | shlN32Reg (w : Base)
  /-- SHL_N32_IMM (R119). -/
  | shlN32Imm (w : Base)
  /-- SHR_N32_REG (R119). -/
  | shrN32Reg (w : Base)
  /-- SHR_N32_IMM (R119). -/
  | shrN32Imm (w : Base)
  /-- SAR_I32_REG (R119). -/
  | sarI32Reg (w : Base)
  /-- SAR_I32_IMM (R119). -/
  | sarI32Imm (w : Base)
  /-- ROTL_N32_IMM (R119). -/
  | rotlN32Imm (w : Base)
  /-- POPC_N32_BASE (R119). -/
  | popcN32Base (w : Base)
  /-- MOV_N32_BASE (R123). -/
  | movN32Base (w : Base)
  /-- MOV_N64_BASE (R123). -/
  | movN64Base (w : Base)
  /-- FADD_F32_REG (R147). -/
  | faddF32Reg (w : Base)
  /-- FADD_F32_IMM (R147). -/
  | faddF32Imm (w : Base)
  /-- FSUB_F32_BASE (R147). -/
  | fsubF32Base (w : Base)
  /-- FMUL_F32_REG (R147). -/
  | fmulF32Reg (w : Base)
  /-- FMUL_F32_IMM (R147). -/
  | fmulF32Imm (w : Base)
  /-- FFMA_F32_BASE (R147). -/
  | ffmaF32Base (w : Base)
  /-- FMIN_F32_BASE (R148). -/
  | fminF32Base (w : Base)
  /-- FMAX_F32_BASE (R148). -/
  | fmaxF32Base (w : Base)
  /-- HADD2_F16_BASE (R157). -/
  | hadd2F16Base (w : Base)
  /-- HMUL2_F16_BASE (R157). -/
  | hmul2F16Base (w : Base)
  /-- HFMA2_F16_BASE (R157). -/
  | hfma2F16Base (w : Base)
  /-- HADD2_BF16_BASE (R157). -/
  | hadd2Bf16Base (w : Base)
  /-- HFMA2_BF16_BASE (R157). -/
  | hfma2Bf16Base (w : Base)
  /-- LD_N32_BASE (R165). -/
  | ldN32Base (w : Base)
  /-- ST_N32_BASE (R166). -/
  | stN32Base (w : Base)
  /-- LD_N64_BASE (R165). -/
  | ldN64Base (w : Base)
  /-- ST_N64_BASE (R166). -/
  | stN64Base (w : Base)
  /-- EXIT_BASE (R138). -/
  | exitBase (w : Base)
  /-- NOP_BASE (R142). -/
  | nopBase (w : Base)
  /-- UNASSIGNED_OPCODE (R80). -/
  | unassignedOpcode (word : BitVec 32)
  /-- ASYNC_WRITE_ARRIVAL (R270). -/
  | asyncWriteArrival (gid k : Nat)
  /-- SPILL_ENGINE_FILL (R259). -/
  | spillEngineFill (gid : Nat)
  /-- THROTTLE_ROTATION (R273). -/
  | throttleRotation (gid : Nat)
  /-- XCHG_REQUEST_ARRIVAL (R128). -/
  | xchgRequestArrival (k : Nat)
  /-- FABRIC_GRANT (R297). -/
  | fabricGrant (port : Nat)
  /-- PACKET_PROMOTION (R298). -/
  | packetPromotion (port input chan : Nat)
  /-- CONGESTION_INTERVAL (R300). -/
  | congestionInterval (cluster : Nat)
  /-- QENQ_PUBLISH (R215). -/
  | qenqPublish (k : Nat)
  /-- QUEUE_WAITER_SERVED (R217). -/
  | queueWaiterServed (blk : Nat) (enq : Bool)
  /-- QUEUE_POLL_RETRY (R217). -/
  | queuePollRetry (gid sid : Nat)
  /-- MUSTER_ARRIVAL_COMMAND (R220). -/
  | musterArrivalCommand (k : Nat)
  /-- CLAIM_SERVED (R222). -/
  | claimServed (slot : Nat)
  /-- SLEEP_END (R232). -/
  | sleepEnd (gid sid : Nat)
  /-- COPY_COMPLETION (R181). -/
  | copyCompletion (core k : Nat)
  /-- COPY_FE_ROW_WRITE (R307). -/
  | copyFeRowWrite (core k : Nat)
  /-- MATRIX_INSTRUCTION_START (R304). -/
  | matrixInstructionStart (core : Nat)
  /-- MLOOP_STEP (R202). -/
  | mloopStep (core : Nat)
  /-- MATRIX_INSTRUCTION_COMPLETE (R189). -/
  | matrixInstructionComplete (core : Nat)
  /-- NM_COMMAND_FORWARD (R235). -/
  | nmCommandForward (core k : Nat)
  /-- NM_COMMAND_COMPLETE (R233). -/
  | nmCommandComplete (core k : Nat)
  /-- SEARCH_ADMISSION (R247). -/
  | searchAdmission (k : Nat)
  /-- SEARCH_END (R248). -/
  | searchEnd (k : Nat)
  /-- WALKER_HOP_ARRIVAL (R252). -/
  | walkerHopArrival (k : Nat)
  /-- WALKER_SPAWN_START (R251). -/
  | walkerSpawnStart (k : Nat)
  /-- HEAP_OFFER (R252). -/
  | heapOffer (k : Nat)
  /-- VISITED_REQUEST (R251). -/
  | visitedRequest (k : Nat)
  /-- WALKER_REPLY_ARRIVAL (R346). -/
  | walkerReplyArrival (k : Nat)
  /-- MANIFEST_INTAKE (R316). -/
  | manifestIntake (ctx queue : Nat)
  /-- WORKGROUP_PLACEMENT (R319). -/
  | workgroupPlacement (core : Nat)
  /-- GROUP_RETIREMENT (R322). -/
  | groupRetirement (gid : Nat)
  /-- LAUNCH_COMPLETION (R322). -/
  | launchCompletion (launch : Nat)
  /-- RELAY_COMMIT (R225). -/
  | relayCommit (wg : Nat)
  /-- CANCEL_GRACE_EXPIRY (R323). -/
  | cancelGraceExpiry (ctx level : Nat) (id : BitVec 32)
  /-- PREEMPTION_REQUEST (R327). -/
  | preemptionRequest (ctx : Nat)
  /-- DRAIN_EXPIRY (R329). -/
  | drainExpiry (wg : Nat)
  /-- PREEMPTION_DEADLINE (R329). -/
  | preemptionDeadline (ctx : Nat)
  /-- FLUSH_AND_RESTART (R329). -/
  | flushAndRestart (wg : Nat)
  /-- WORKGROUP_SAVE (R330). -/
  | workgroupSave (wg : Nat)
  /-- WORKGROUP_RESTORE (R330). -/
  | workgroupRestore (core : Nat)
  /-- CONTEXT_HALT (R375). -/
  | contextHalt (ctx : Nat) (cause : BitVec 8) (faddr : BitVec 64) (engine : Nat)
  /-- ENGINE_HALT_STOP (R376). -/
  | engineHaltStop (ctx engine : Nat)
  /-- SHOOTDOWN_PORT_WRITE (R339). -/
  | shootdownPortWrite (ctx : Nat) (va : BitVec 64)
  /-- SHOOTDOWN_COMPLETE (R339). -/
  | shootdownComplete (ctx k : Nat)
  /-- POOL_PORT_WRITE (R341). -/
  | poolPortWrite (ctx : Nat) (pa : BitVec 64)
  /-- MIGRATION_WINDOW_END (R341). -/
  | migrationWindowEnd (ctx : Nat)
  /-- PAGE_PROMOTION (R342). -/
  | pagePromotion (slice : Nat)
  /-- ROW_REPAIR (R335). -/
  | rowRepair (stack pc bank row : Nat)
  /-- SCRUB (R367). -/
  | scrub (sector : Nat)
  /-- CONTEXT_RELEASE (R376). -/
  | contextRelease (writer ctx : Nat)
  /-- DEBUG_HALT_REQUEST (R379). -/
  | debugHaltRequest (ctx : Nat)
  /-- DEBUG_STEP (R379). -/
  | debugStep (ctx : Nat)
  /-- DEBUG_RESUME (R379). -/
  | debugResume (ctx : Nat)
  /-- CAMPREQ (R387). -/
  | campreq (writer : Nat)
  /-- POWER_CONTROL_READ (R385). -/
  | powerControlRead (reader : Nat)
  /-- PARTITION_TABLE_WRITE (R393). -/
  | partitionTableWrite (writer cluster : Nat) (v : BitVec 8)
  /-- FABRIC_WEIGHT_WRITE (R299). -/
  | fabricWeightWrite (ctx : Nat) (v : BitVec 32)
  /-- SCHEDULING_REGISTER_WRITE (R324). -/
  | schedulingRegisterWrite (ctx : Nat) (v : BitVec 64)
  /-- MIGRATION_CONTROL_WRITE (R341). -/
  | migrationControlWrite (ctx : Nat) (v : BitVec 64)
  /-- QP_BINDING_WRITE (R356). -/
  | qpBindingWrite (ctx qp : Nat) (lo hi : BitVec 64)
  /-- CONTROL_SPACE_WRITE (R27). -/
  | controlSpaceWrite (writer addr size : Nat) (v : BitVec 64)
  /-- ENQ_WAYBILL (R361). -/
  | enqWaybill (w : Waybill)
  /-- GET_WAYBILL (R362). -/
  | getWaybill (w : Waybill)
  /-- GETDATA_WAYBILL (R362). -/
  | getdataWaybill (w : Waybill)
  /-- PUT_WAYBILL (R362). -/
  | putWaybill (w : Waybill)
  /-- PUTACK_WAYBILL (R362). -/
  | putackWaybill (w : Waybill)
  /-- TOPKSUM_WAYBILL (R364). -/
  | topksumWaybill (w : Waybill)
  /-- ACK_ONLY_WAYBILL (R360). -/
  | ackOnlyWaybill (w : Waybill)
  /-- WAYBILL_DISCARD (R359). -/
  | waybillDiscard (w : Waybill)
  /-- RETRANSMISSION_TIMEOUT (R360). -/
  | retransmissionTimeout (stream : Nat)
  /-- ACK_DELAY_EXPIRY (R360). -/
  | ackDelayExpiry (stream : Nat)
  /-- RDMA_WRITE (R355). -/
  | rdmaWrite (r : Rdma)
  /-- RDMA_READ (R355). -/
  | rdmaRead (r : Rdma)
  /-- RDMA_SEND (R356). -/
  | rdmaSend (r : Rdma)
  /-- ROCE_INVALID_REQUEST (R354). -/
  | roceInvalidRequest (qp : Nat)
  /-- FRAME_DISCARD (R352). -/
  | frameDiscard (port : Nat)
  /-- MGMT_ATTEST (R396). -/
  | mgmtAttest (w : Waybill)
  /-- MGMT_READ_STATUS (R397). -/
  | mgmtReadStatus (w : Waybill)
  /-- MGMT_WRITE_LTOL (R397). -/
  | mgmtWriteLtol (w : Waybill)
  /-- MGMT_ENTER_CAMP (R387). -/
  | mgmtEnterCamp (w : Waybill)
  /-- MGMT_ENQUEUE (R397). -/
  | mgmtEnqueue (w : Waybill)
  /-- MGMT_UNKNOWN_COMMAND (R396). -/
  | mgmtUnknownCommand (w : Waybill)
  /-- SIDEBAND_READ_STATUS (R399). -/
  | sidebandReadStatus
  /-- SIDEBAND_END_CAMP (R389). -/
  | sidebandEndCamp (data : BitVec 8)
  /-- SIDEBAND_ENTER_CAMP (R387). -/
  | sidebandEnterCamp (data : BitVec 8)
  /-- SIDEBAND_SELECT_IMAGE (R399). -/
  | sidebandSelectImage (image : BitVec 8)
  /-- SIDEBAND_WRITE_STAGING (R399). -/
  | sidebandWriteStaging (offset : BitVec 32) (data : List (BitVec 8))
  /-- SIDEBAND_VERIFY_IMAGE (R399). -/
  | sidebandVerifyImage (data : BitVec 8)
  /-- SIDEBAND_READ_RECOVERY (R399). -/
  | sidebandReadRecovery
  /-- SIDEBAND_NACK (R399). -/
  | sidebandNack
  /-- POWER_FAIL_WARNING (R387). -/
  | powerFailWarning
  /-- CAMP_EXIT (R389). -/
  | campExit
  /-- COLD_INITIALISATION (R395). -/
  | coldInitialisation
  /-- POWER_MEASUREMENT (R31). -/
  | powerMeasurement (milliwatts : Nat)
  /-- IDLE_ENTRY (R384). -/
  | idleEntry
  /-- IDLE_EXIT (R384). -/
  | idleExit
  /-- POWER_FAIL_WARNING_FALL (R389). -/
  | powerFailWarningFall
  /-- PORT_LINK_UP (R391). -/
  | portLinkUp (port : Nat)
deriving DecidableEq, Repr

end Sys2Proof
end

