-- ==== Sys2Proof/WellFormed.lean ====
section
/-! DEFINITION. Legal encodings: the shape each entry gives its fields, the sub-codes of trap 0x01 that
an encoding alone decides (R60, R61, R83, R85), and `Instr.wf`. What only the state decides (WINSIZE,
TILEM, ACCM, an unbound port, the issuer, sub-code 9) is tested at issue in Machine/Ops.lean. -/

namespace Sys2Proof

/-- The least of the sub-codes in a list that are not 0, and 0 when there is none (R60: the lowest
sub-code is reported). -/
def lowestSub : List Nat → Nat
  | [] => 0
  | c :: cs =>
    let r := lowestSub cs
    if c = 0 then r else if r = 0 then c else min c r

/-- What an entry permits in a source field. No class at all: a zero field. -/
structure SrcRule where
  cls : List Cls := []
  wide : Bool := false
  neg : Bool := true
  /-- class 0 names tiles or accumulators, this many (R190); 0 otherwise. -/
  tiles : Nat := 0
  /-- index step of a control group (R190, R238). -/
  step : Nat := 1
  /-- greatest index of a control group. -/
  last : Nat := 255
deriving DecidableEq, Repr

/-- What an entry permits in the destination field. No class at all: a zero field. -/
structure DstRule where
  cls : List Cls := []
  wide : Bool := false
  sat : Bool := false
  tiles : Nat := 0
  step : Nat := 1
  /-- the field names a port for SBIND or SCLOSE, whatever its direction (R168). -/
  anyPort : Bool := false
  /-- an all-zero field is also permitted. -/
  orZero : Bool := false
deriving DecidableEq, Repr

/-- What an entry permits in the C field (R52). -/
inductive CRule where
  | zero
  | third (r : SrcRule)
  | mem (stream scope policy : Bool) (spaces : List Nat)
  | srcType
deriving DecidableEq, Repr

/-- What an entry permits in every field. `mod`: its MOD values are defined; `b0`: B may also be zero. -/
structure Shape where
  mod : Bool
  d : DstRule := {}
  a : SrcRule := {}
  b : SrcRule := {}
  bZero : Bool := false
  c : CRule := .zero
  p0 : Bool := false
  walkerOnly : Bool := false
deriving DecidableEq, Repr

namespace Ext

/-- Type code, MOD 9:5 (R50). -/
abbrev ty (x : Ext) : Nat := bits 9 5 x.mod
/-- Rounding or ordering code, MOD 4:3 (R51, R52). -/
abbrev m43 (x : Ext) : Nat := bits 4 3 x.mod
/-- Op bits MOD 2:0. -/
abbrev m20 (x : Ext) : Nat := bits 2 0 x.mod
/-- Op bits MOD 1:0. -/
abbrev m10 (x : Ext) : Nat := bits 1 0 x.mod
/-- The ftz bit, MOD 2 (R51). -/
abbrev ftz (x : Ext) : Bool := bit 2 x.mod
/-- Memory control, R53: stream. -/
abbrev stream (x : Ext) : Nat := bits 11 8 x.c
/-- Memory control, R53: scope. -/
abbrev scope (x : Ext) : Nat := bits 7 6 x.c
/-- Memory control, R53: policy. -/
abbrev policy (x : Ext) : Nat := bits 5 4 x.c
/-- Memory control, R53: space. -/
abbrev space (x : Ext) : Nat := bits 3 2 x.c
/-- The C field's source type of CVT and CVTSC (R154). -/
abbrev srcTy (x : Ext) : Nat := bits 11 7 x.c

end Ext

/-- Class number to class (R41). -/
def Cls.ofBits (n : Nat) : Cls :=
  match n with
  | 0 => .v | 1 => .o | 2 => .l | 3 => .g | 4 => .p | 5 => .port | 6 => .imm | _ => .lit

/-- Class to class number (R41). -/
def Cls.toBits : Cls → Nat
  | .v => 0 | .o => 1 | .l => 2 | .g => 3 | .p => 4 | .port => 5 | .imm => 6 | .lit => 7

/-- The C field read as a third source: no pattern, identity (R52). -/
def Ext.cSrc (x : Ext) : Src :=
  { cls := Cls.ofBits (bits 11 9 x.c), idx := x.c.extractLsb 8 1, pat := .ident, param := 0,
    neg := bit 0 x.c }

/-- An all-zero source field. -/
def Src.zero : Src := { cls := .v, idx := 0, pat := .ident, param := 0, neg := false }
/-- An all-zero destination field. -/
def Dst.zero : Dst := { cls := .v, idx := 0, sat := false }

/-- Every class that can be read per lane at 32 bits (R41). -/
def anySrc : List Cls := [.v, .o, .l, .g, .p, .port, .imm, .lit]
/-- Uniform classes (R208). -/
def uniSrc : List Cls := [.g, .imm, .lit]
/-- Every class that can be written (R41). -/
def anyDst : List Cls := [.v, .o, .g, .p, .port]

/-- Type codes of the eight integer types (R50). -/
def isIntTy (t : Nat) : Bool := t < 8
/-- Type codes of the eight floating types (R154). -/
def isFloatTy (t : Nat) : Bool := 8 ≤ t && t < 16
/-- i64 and n64. -/
def isWideTy (t : Nat) : Bool := t = 3 || t = 7
/-- i32, n32, i64, n64 (R113). -/
def isIsaInt (t : Nat) : Bool := t = 2 || t = 3 || t = 6 || t = 7

/-- Bits of a type code (R50, R87). -/
def tyBits (t : Nat) : Nat :=
  match t with
  | 0 => 8 | 1 => 16 | 2 => 32 | 3 => 64 | 4 => 8 | 5 => 16 | 6 => 32 | 7 => 64
  | 8 => 32 | 9 => 16 | 10 => 16 | 11 => 8 | 12 => 8 | 13 => 6 | 14 => 6 | 15 => 4 | _ => 4

/-- Elements of a type in one register; 1 from 32 bits up (R155). -/
def tyElems (t : Nat) : Nat :=
  match tyBits t with
  | 16 => 2 | 8 => 4 | 6 => 4 | 4 => 8 | _ => 1

/-- A per-lane source; uniform when the destination is a g register (R45). -/
def laneSrc (x : Ext) (wide : Bool) : SrcRule :=
  { cls := if x.d.cls = .g then uniSrc else anySrc, wide := wide }
/-- The same without the immediate (R43). -/
def laneSrcNoImm (x : Ext) (wide : Bool) : SrcRule :=
  { cls := if x.d.cls = .g then [.g, .lit] else [.v, .o, .l, .g, .p, .port, .lit], wide := wide }
def uniRule : SrcRule := { cls := uniSrc }
/-- A 64-bit address, class 3 or 7 (R160, R208). -/
def addr64 : SrcRule := { cls := [.g, .lit], wide := true, neg := false }
/-- A scratchpad address, class 3, 6 or 7 (R160, R190). -/
def addrSp : SrcRule := { cls := uniSrc, neg := false }
/-- An address whose width the space fixes (R54, R160). -/
def addrIn (space : Nat) : SrcRule := if space = 1 then addrSp else addr64
/-- The base of a per-lane access (R160). -/
def laneBase (x : Ext) : SrcRule :=
  { cls := if x.d.cls = .g then [.g] else [.v, .o, .g], wide := x.space ≠ 1, neg := false }
def offRule : SrcRule := { cls := [.imm, .lit], neg := false }
def tileRule : SrcRule := { cls := [.v], neg := false, tiles := 8 }
def dst (wide sat : Bool) : DstRule := { cls := anyDst, wide := wide, sat := sat }
def predRule : SrcRule := { cls := [.p] }

/-- Special-register numbers (R231). -/
def isSreg (n : Nat) : Bool :=
  n ≤ 6 || (8 ≤ n && n ≤ 0x14) || (0x18 ≤ n && n ≤ 0x1A) || (0x20 ≤ n && n ≤ 0x28) || n = 0x30
/-- Special registers of 64 bits (R231). -/
def sregWide (n : Nat) : Bool :=
  (0x0C ≤ n && n ≤ 0x0F) || n = 0x21 || n = 0x23 || n = 0x24 || (0x26 ≤ n && n ≤ 0x28)
/-- Special registers that MOV may name (R123). -/
def isMovSreg (n : Nat) : Bool :=
  n ≤ 4 || (8 ≤ n && n ≤ 0x0F) || n = 0x13 || n = 0x19

/-- Element kinds 0 to 10 of MMA and MLOOP and the scale modes each allows (R193, R195). -/
def mmaModOk (mod : BitVec 10) : Bool :=
  let kind := bits 4 0 mod
  let sc := bits 9 8 mod
  kind ≤ 10 && sc ≠ 3 && (sc = 0 || kind = 0 || (2 ≤ kind && kind ≤ 5))

/-- Bits of an MMA element kind (R195). -/
def mmaBits (kind : Nat) : Nat := if kind ≤ 1 then 4 else if kind ≤ 6 then 8 else 16

/-- The CVT pairings, rounding, ftz, .sat and op bits of R154 and R155. -/
def cvtModOk (x : Ext) : Bool :=
  let s := x.srcTy
  let t := x.ty
  x.m10 ≤ 1 && s < 16 && t < 16 &&
  (x.m10 = 0 || tyBits t < 32) &&
  (if isFloatTy s then (isFloatTy t || !x.d.sat)
   else if isFloatTy t then (t = 8 || t = 9 || t = 10)
   else x.m43 = 0 && !x.ftz)

/-- The slot limit of CVT (R155): the elements of each narrow side that the slot applies to; a slot that applies to
none is unlimited when some side is narrow, and 0 when none is. -/
def cvtSlots (x : Ext) : Nat :=
  let a := tyElems x.srcTy
  let d := tyElems x.ty
  if a = 1 then (if x.m10 = 1 || d = 1 then d else 256)
  else if x.m10 = 1 then min a d else a

/-- The types and ops of CVTSC (R156). -/
def cvtscModOk (x : Ext) : Bool :=
  let s := x.srcTy
  let t := x.ty
  if x.m10 = 2 then (s = 8 || s = 9 || s = 10) && t = 4 && !x.ftz
  else x.m10 ≤ 1 && isFloatTy s && isFloatTy t

/-- Shapes of classes 0 and 1 (R116, R119). -/
def shapeInt (op : Nat) (x : Ext) : Option Shape :=
  let w := isWideTy x.ty
  let t := isIsaInt x.ty
  let z := bits 4 0 x.mod = 0
  let two (sat : Bool) : Shape :=
    { mod := t && z, d := dst w sat, a := laneSrc x w, b := laneSrc x w }
  let three (sat : Bool) : Shape := { two sat with c := .third (laneSrc x w) }
  let one (sat : Bool) : Shape := { mod := t && z, d := dst w sat, a := laneSrc x w }
  match op with
  | 0 => some (two true)
  | 1 => some (three true)
  | 2 => some (two true)
  | 3 => some (two false)
  | 4 => some (two false)
  | 5 => some (three true)
  | 6 => some (two false)
  | 7 => some (two false)
  | 8 => some (two false)
  | 9 => some (two false)
  | 10 => some (one true)
  | 11 => some (one true)
  | 12 => some { mod := (x.ty = 0 || x.ty = 4) && bits 4 1 x.mod = 0, d := dst false true,
                 a := laneSrc x false, b := laneSrc x false, c := .third (laneSrc x false) }
  | 13 => some { mod := w && !bit 4 x.mod, d := dst true false,
                 a := laneSrc x true, b := laneSrc x false }
  | _ => none

def shapeLogic (op : Nat) (x : Ext) : Option Shape :=
  let w := isWideTy x.ty
  let ok := isIsaInt x.ty && bits 4 0 x.mod = 0
  let two : Shape := { mod := ok, d := dst w false, a := laneSrc x w, b := laneSrc x w }
  let shift : Shape := { two with b := laneSrc x false }
  let one : Shape := { mod := ok, d := dst w false, a := laneSrc x w }
  let count : Shape := { mod := ok, d := dst false false, a := laneSrc x w }
  match op with
  | 0 => some two
  | 1 => some two
  | 2 => some two
  | 3 => some two
  | 4 => some one
  | 5 => some shift
  | 6 => some shift
  | 7 => some shift
  | 8 => some shift
  | 9 => some count
  | 10 => some count
  | 11 => some count
  | 12 => some one
  | 13 => some shift
  | 14 => some { two with c := .third (laneSrc x false) }
  | _ => none

/-- Shapes of class 2 (R121 to R124). The special-register form of MOV is read in `Ext.sub`. -/
def shapeMove (op : Nat) (x : Ext) : Option Shape :=
  let w := isWideTy x.ty
  let t := isIsaInt x.ty
  let z := bits 4 0 x.mod = 0
  let pred (b : Bool) : Shape :=
    { mod := x.mod = 0, d := { cls := [.p] }, a := predRule, b := if b then predRule else {} }
  match op with
  | 0 => some { mod := t && bits 4 3 x.mod = 0 && x.m20 ≤ 5, d := dst false false,
                a := laneSrc x w, b := laneSrc x w }
  | 1 => some { mod := t && z, d := dst w false, a := laneSrc x w, b := laneSrc x w,
                c := .third (laneSrc x false) }
  | 2 => some { mod := t && bits 4 1 x.mod = 0, d := dst w false,
                a := { cls := if x.d.cls = .g then [.v, .o, .g, .imm, .lit] else anySrc,
                       wide := w } }
  | 3 => some { mod := t && z, d := dst w false, a := { cls := [.lit], wide := w } }
  | 4 => some (pred true)
  | 5 => some (pred true)
  | 6 => some (pred true)
  | 7 => some (pred false)
  | 8 => some { mod := bits 9 2 x.mod = 0 && x.m10 ≤ 2,
                d := { cls := if x.m10 = 1 then [.v, .g] else [.p] },
                a := if x.m10 = 2 then { cls := anySrc } else predRule }
  | _ => none

/-- Shapes of class 3 (R125 to R128). -/
def shapeLane (op : Nat) (x : Ext) : Option Shape :=
  let w := isWideTy x.ty
  let t := isIsaInt x.ty
  match op with
  | 0 => some { mod := bits 9 2 x.mod = 0,
                d := { cls := if x.m10 = 3 then [.v, .g] else [.p, .g] }, a := predRule }
  | 1 => some { mod := t && bits 4 2 x.mod = 0, d := dst w false,
                a := laneSrc x w, b := laneSrc x false }
  | 2 => some { mod := t && bits 4 3 x.mod = 0 && x.m20 ≤ 5, d := { cls := [.v, .g], wide := w },
                a := { cls := anySrc, wide := w } }
  | 3 => some { mod := t && !bit 4 x.mod && x.m20 ≤ 5, d := { cls := [.v], wide := w },
                a := { cls := anySrc, wide := w } }
  | 4 => some { mod := (x.ty = 6 || x.ty = 7) && bits 4 0 x.mod = 0, d := dst w false,
                a := laneSrc x w, b := uniRule }
  | _ => none

/-- Shapes of class 4 (R130, R142). -/
def shapeControl (op : Nat) (x : Ext) : Option Shape :=
  let z : Bool := x.mod = 0
  match op with
  | 0 => some { mod := z, b := offRule }
  | 1 => some { mod := x.mod ≠ 0, a := predRule, b := offRule, p0 := true }
  | 2 => some { mod := z, p0 := true }
  | 3 => some { mod := z, b := offRule, p0 := true }
  | 4 => some { mod := z }
  | 5 => some { mod := 1 ≤ x.mod.toNat && x.mod.toNat ≤ 128, d := { cls := [.v] }, b := offRule,
                p0 := true }
  | 6 => some { mod := z, p0 := true }
  | 7 => some { mod := z, a := addr64 }
  | 8 => some { mod := z }
  | 9 => some { mod := z }
  | 10 => some { mod := z }
  | _ => none

/-- Shapes of class 5 (R147 to R150). -/
def shapeFloat (op : Nat) (x : Ext) : Option Shape :=
  let f : Bool := x.ty = 8
  let rne : Bool := x.m43 = 0
  let s := laneSrc x false
  let arith : Shape := { mod := f && x.m10 = 0, d := dst false false, a := s, b := s }
  match op with
  | 0 => some arith
  | 1 => some arith
  | 2 => some arith
  | 3 => some { arith with c := .third s }
  | 4 => some { arith with mod := f && rne && x.m10 = 0 }
  | 5 => some { arith with mod := f && rne && x.m10 = 0 }
  | 6 => some { arith with mod := f && rne }
  | 7 => some { mod := f && rne && !x.ftz && x.m10 ≤ 1, d := dst false false, a := s,
                b := if x.m10 = 1 then s else {} }
  | 8 => some arith
  | _ => none

/-- Shapes of class 6 (R151 to R156). CVTSC .mul8 takes an immediate in B, and B's negate bit inverts its bits (R44, R156).
DESIGN CHOICE, log 84. -/
def shapeSpecial (op : Nat) (x : Ext) : Option Shape :=
  let f : Bool := x.ty = 8
  let s := laneSrc x false
  let fn (anyRnd : Bool) : Shape :=
    { mod := f && x.m10 = 0 && (anyRnd || x.m43 = 0), d := dst false false, a := s }
  let narrowF (t : Nat) : Bool := 11 ≤ t && t < 16
  let cvA : SrcRule :=
    if narrowF x.srcTy then laneSrcNoImm x false else laneSrc x (isWideTy x.srcTy)
  match op with
  | 0 => some (fn false)
  | 1 => some (fn false)
  | 2 => some (fn true)
  | 3 => some (fn false)
  | 4 => some (fn false)
  | 5 => some (fn false)
  | 6 => some (fn false)
  | 7 => some { mod := f && x.m10 ≤ 1, d := dst false false, a := s }
  | 8 => some { mod := cvtModOk x, d := dst (isWideTy x.ty) true, a := cvA, b := { cls := [.imm] },
                c := .srcType }
  | 9 => some { mod := cvtscModOk x, d := dst false true, a := cvA,
                b := if x.m10 = 2 then {} else s, c := .srcType }
  | _ => none

/-- Shapes of class 7 (R157 to R159). -/
def shapePacked (op : Nat) (x : Ext) : Option Shape :=
  let h : Bool := (x.ty = 9 || x.ty = 10) && x.m10 = 0
  let s := laneSrc x false
  let two : Shape := { mod := h, d := dst false false, a := s, b := s }
  match op with
  | 0 => some two
  | 1 => some two
  | 2 => some { two with c := .third s }
  | 3 => some { two with c := .third s }
  | 4 => some { mod := (x.ty = 11 || x.ty = 12) && !bit 1 x.mod, d := dst false false,
                a := laneSrcNoImm x false, b := laneSrcNoImm x false, c := .third s }
  | _ => none

/-- In space sp scope, policy and ordering of a per-lane access are zero (R54, R164, R171). -/
def spPlain (x : Ext) : Bool := x.space ≠ 1 || (x.scope = 0 && x.policy = 0 && x.m43 = 0)

/-- Shapes of class 8 (R164 to R170). STFE takes a D of class 3 with a base that differs by lane (R167). DESIGN CHOICE, log 91. -/
def shapeAccess (op : Nat) (x : Ext) : Option Shape :=
  let w := isWideTy x.ty
  let mc : CRule := .mem true true true [0, 1, 2]
  let sp : CRule := .mem true false false [1]
  match op with
  | 0 => some { mod := x.ty < 8 && x.m20 = 0 && x.m43 ≤ 1 && spPlain x,
                d := { cls := [.v, .o, .g], wide := w }, a := laneBase x, b := offRule, c := mc }
  | 1 => some { mod := x.ty < 8 && x.m20 = 0 && (x.m43 = 0 || x.m43 = 2) && spPlain x,
                d := { cls := [.v, .o, .g], wide := w }, a := laneBase x, b := offRule, c := mc }
  | 2 => some { mod := x.mod = 0x0C0, d := { cls := [.v, .o] },
                a := { cls := [.v, .o, .g], neg := false }, b := offRule, c := sp }
  | 3 => some { mod := x.ty = 6 && bits 4 2 x.mod = 0 && x.m10 ≤ 2,
                d := if x.m10 = 2 then {} else { cls := [.v, .o, .g] },
                a := { cls := [.v, .o, .g], neg := false }, b := offRule, c := sp }
  | 4 => some { mod := x.mod = 0, d := { cls := [.port], anyPort := true },
                a := addrSp, b := uniRule }
  | 5 => some { mod := x.mod = 0, d := { cls := [.port], anyPort := true } }
  | _ => none

/-- Shapes of class 9 (R171, R177 to R179). -/
def shapeAtomic (op : Nat) (x : Ext) : Option Shape :=
  let w := isWideTy x.ty
  let mc : CRule := .mem true true true [0, 1, 2]
  let base : SrcRule := { cls := [.v, .o, .g], wide := x.space ≠ 1, neg := false }
  let val : SrcRule := { cls := [.v, .o, .g, .imm, .lit], wide := w }
  let fOk (o : Nat) : Bool := x.ty = 8 && (o = 0 || o = 6 || o = 7)
  match op with
  | 0 => some { mod := (isIsaInt x.ty || fOk x.m20) && spPlain x,
                d := { cls := [.v, .o], wide := w }, a := base, b := val, c := mc }
  | 1 => some { mod := (isIsaInt x.ty || fOk x.m20) && x.m20 ≤ 5 && (x.m43 = 0 || x.m43 = 2)
                  && spPlain x,
                a := base, b := val, c := mc }
  | 2 => some { mod := x.ty = 0 && x.m43 ≠ 0 && bits 2 1 x.mod = 0,
                c := .mem true true false [0] }
  | 3 => some { mod := x.mod = 0, b := uniRule }
  | 4 => some { mod := x.mod = 0, a := addr64, b := uniRule, c := .mem false false false [0, 2] }
  | _ => none

/-- Shapes of class A (R180); in space sp scope and policy are 00 (R54). DEDUCED, log 34. -/
def shapeCopy (op : Nat) (x : Ext) : Option Shape :=
  let hi := bits 9 8 x.mod
  let mc (l : List Nat) : CRule := .mem true true true l
  let len (step : Nat) : DstRule := { cls := [.g], step := step }
  let plain : Bool := x.space ≠ 1 || (x.scope = 0 && x.policy = 0)
  match op with
  | 0 => some { mod := plain && hi ≠ 3 && bits 5 0 x.mod = 0 && (!bit 6 x.mod || x.space = 1),
                d := len 1, a := addrIn x.space, b := addrIn hi, c := mc [0, 1, 2] }
  | 1 => some { mod := (x.ty = 0 || (9 ≤ x.ty && x.ty ≤ 16)) && x.m43 ≠ 3 && x.m10 = 0,
                d := len 4, a := addrSp, b := addr64, c := mc [0, 2] }
  | 2 => some { mod := plain && hi ≤ 1 && bits 5 1 x.mod = 0 &&
                  (!bit 6 x.mod || (if bit 0 x.mod then hi = 1 else x.space = 1)),
                d := len 1, a := addrIn x.space, b := addr64, c := mc [0, 1, 2] }
  | 3 => some { mod := plain && hi = 0 && bits 6 1 x.mod = 0,
                d := len 2, a := addrIn x.space, b := addr64, c := mc [0, 1] }
  | _ => none

/-- Shapes of class B (R193). -/
def shapeMatrix (op : Nat) (x : Ext) : Option Shape :=
  let tile : DstRule := { cls := [.v], tiles := 8 }
  let acc : DstRule := { cls := [.v], tiles := 4 }
  let fe : Bool := bits 9 1 x.mod = 0
  let ctl (n : Nat) : CRule := .third { cls := [.g], neg := false, step := n }
  match op with
  | 0 => some { mod := x.mod = 0, d := tile, a := addrSp }
  | 1 => some { mod := fe, d := tile, a := addrSp }
  | 2 => some { mod := fe, d := tile, a := tileRule }
  | 3 => some { mod := !bit 9 x.mod && bits 7 0 x.mod ≠ 0 && (bit 8 x.mod || bits 7 4 x.mod = 0) }
  | 4 => some { mod := mmaModOk x.mod, d := acc, a := tileRule, b := addrSp, c := ctl 2 }
  | 5 => some { mod := mmaModOk x.mod, d := acc, a := addrSp, b := addrSp, c := ctl 4 }
  | 6 => some { mod := x.mod = 0, d := acc, a := addrSp }
  | 7 => some { mod := fe, d := acc, a := addrSp }
  | 8 => some { mod := bits 4 2 x.mod = 0 &&
                  (x.ty = 0 || (8 ≤ x.ty && x.ty ≤ 12) || x.ty = 15),
                d := { acc with sat := true }, a := addrSp, b := uniRule }
  | _ => none

/-- Shapes of class C (R208). -/
def shapeCoord (op : Nat) (x : Ext) : Option Shape :=
  let z : Bool := x.mod = 0
  let eng : Bool := bits 9 2 x.mod = 0
  let lvl : Bool := x.mod.toNat ≤ 2
  let gd : DstRule := { cls := [.g] }
  let gp : DstRule := { cls := [.g, .p] }
  let tr : Bool := bits 9 1 x.mod = 0
  let qd : DstRule := if bit 0 x.mod then gp else {}
  match op with
  | 0 => some { mod := bits 9 3 x.mod = 0, d := gd, a := if bit 2 x.mod then addr64 else {},
                c := .mem false (bit 2 x.mod) false [0] }
  | 1 => some { mod := eng, b := uniRule }
  | 2 => some { mod := eng, d := gp, b := uniRule }
  | 3 => some { mod := bits 9 8 x.mod ≠ 3 && 1 ≤ bits 7 3 x.mod && bits 7 3 x.mod ≤ 16 &&
                  !bit 0 x.mod,
                a := addr64, b := addr64, c := .mem true true false [0] }
  | 4 => some { mod := tr, d := qd, a := addr64, b := addrIn x.space, c := .mem true true true [0, 1] }
  | 5 => some { mod := tr, d := qd, a := addr64, b := addrIn x.space, c := .mem true true true [0, 1] }
  | 6 => some { mod := z, d := gd, a := addr64 }
  | 7 => some { mod := z, a := addr64, b := uniRule, c := .mem false true false [0] }
  | 8 => some { mod := z, a := addr64, b := uniRule, c := .mem true false false [0] }
  | 9 => some { mod := z, d := { gd with orZero := true }, a := addr64, b := uniRule,
                c := .mem true false false [0] }
  | 10 => some { mod := z, d := gd, a := addr64 }
  | 11 => some { mod := tr, d := gp, b := uniRule }
  | 12 => some { mod := z, b := uniRule }
  | 13 => some { mod := z, a := addr64, b := { cls := [.g, .lit], wide := true } }
  | 14 => some { mod := lvl, b := uniRule }
  | 15 => some { mod := lvl, d := gd, b := uniRule }
  | 16 => some { mod := z }
  | _ => none

/-- Shapes of class D (R238). -/
def shapeNear (op : Nat) (x : Ext) : Option Shape :=
  let bl : CRule := .mem true true true [2]
  let q : Bool := x.m43 ≠ 3 && (x.ty = 0 || x.ty = 11 || x.ty = 9)
  let quad : SrcRule := { cls := [.g], neg := false, step := 4 }
  let gd : DstRule := { cls := [.g] }
  match op with
  | 0 => some { mod := q && x.m10 = 0, d := { cls := [.v, .port] }, a := addr64, b := quad, c := bl }
  | 1 => some { mod := q && !bit 0 x.mod, d := { cls := [.v, .port] }, a := addr64, b := quad,
                c := bl }
  | 2 => some { mod := x.ty = 0 && (x.m43 = 1 || x.m43 = 2) && x.m20 = 0, d := gd, a := addr64,
                b := { cls := [.g], neg := false, last := 61 }, c := bl }
  | 3 => some { mod := (x.ty = 2 || x.ty = 6 || x.ty = 8) && bits 4 2 x.mod = 0 && x.m10 ≤ 2,
                d := gd, a := addr64, b := uniRule, c := bl }
  | 4 => some { mod := x.mod = 0, d := gd, a := addr64, b := uniRule, c := bl }
  | 5 => some { mod := x.mod = 0, d := gd, a := addr64, c := .mem true true false [0] }
  | 6 => some { mod := x.mod = 0, b := uniRule }
  | _ => none

/-- Shapes of class E (R251). A node id is a value; the address of a list entry or vector allows no negation (R44). -/
def shapeWalker (op : Nat) (x : Ext) : Option Shape :=
  let w : SrcRule := { cls := [.v, .imm, .lit] }
  let addr : SrcRule := { w with neg := false }
  let wd : DstRule := { cls := [.v] }
  let z : Bool := x.mod = 0
  let pk : Bool := bits 9 3 x.mod = 0
  match op with
  | 0 => some { mod := z, d := wd, a := w, walkerOnly := true }
  | 1 => some { mod := z, d := wd, a := addr, b := w, walkerOnly := true }
  | 2 => some { mod := z, d := wd, a := addr, walkerOnly := true }
  | 3 => some { mod := pk, d := wd, a := w, b := w, walkerOnly := true }
  | 4 => some { mod := z, d := wd, walkerOnly := true }
  | 5 => some { mod := z, d := { cls := [.p] }, a := w, walkerOnly := true }
  | 6 => some { mod := z, a := w, walkerOnly := true }
  | 7 => some { mod := pk, a := w, b := offRule, c := .third w, walkerOnly := true }
  | 8 => some { mod := z, walkerOnly := true }
  | _ => none

/-- Shapes of class F (R208, R231). -/
def shapeSystem (op : Nat) (x : Ext) : Option Shape :=
  let z : Bool := x.mod = 0
  let r := bits 7 0 x.mod
  let hi : Bool := bits 9 8 x.mod = 0
  match op with
  | 0 => some { mod := bits 9 6 x.mod = 0, b := uniRule, bZero := true }
  | 1 => some { mod := bits 9 1 x.mod = 0 }
  | 2 => some { mod := z, b := uniRule }
  | 3 => some { mod := z, b := uniRule }
  | 4 => some { mod := hi && isSreg r, d := { cls := [.v, .o, .g], wide := sregWide r } }
  | 5 => some { mod := hi && isSreg r,
                a := { cls := [.v, .o, .g, .imm, .lit], wide := sregWide r } }
  | 6 => some { mod := hi }
  | 7 => some { mod := z, d := { cls := [.g] }, b := uniRule }
  | 8 => some { mod := z, d := { cls := [.g, .v], wide := true } }
  | 9 => some { mod := z, b := uniRule }
  | _ => none

/-- The shape of an extended opcode, XOP = 64 × class + op (R79); none for the unassigned slots. -/
def shape (xop : Nat) (x : Ext) : Option Shape :=
  let op := xop % 64
  match xop / 64 with
  | 0 => shapeInt op x
  | 1 => shapeLogic op x
  | 2 => shapeMove op x
  | 3 => shapeLane op x
  | 4 => shapeControl op x
  | 5 => shapeFloat op x
  | 6 => shapeSpecial op x
  | 7 => shapePacked op x
  | 8 => shapeAccess op x
  | 9 => shapeAtomic op x
  | 10 => shapeCopy op x
  | 11 => shapeMatrix op x
  | 12 => shapeCoord op x
  | 13 => shapeNear op x
  | 14 => shapeWalker op x
  | 15 => shapeSystem op x
  | _ => none

/-- Greatest index a class allows in core or walker code (R41, R61). -/
def Cls.maxIdx (walker : Bool) : Cls → Nat
  | .v => if walker then 15 else 255
  | .o => 3
  | .l => 1
  | .g => 63
  | .p => if walker then 7 else 31
  | .port => 4
  | .imm => 255
  | .lit => 0

/-- Classes walker code may name (R61). -/
def Cls.inWalker : Cls → Bool
  | .v | .p | .imm | .lit => true
  | .o | .l | .g | .port => false

/-- Greatest parameter of a pattern kind (R48). -/
def Pat.maxParam : Pat → Nat
  | .rot | .bcast | .bfly => 31
  | .fold => 4
  | .ident | .mir | .res6 | .res7 => 0

/-- A pattern kind that is defined, its parameter in range (R48). -/
def Src.patOk (s : Src) : Bool :=
  s.pat ≠ .res6 && s.pat ≠ .res7 && s.param.toNat ≤ s.pat.maxParam

/-- The sub-code a source field breaks under a rule, or 0 (R41, R42, R44, R46, R48, R49). DEDUCED, log 57. -/
def srcSub (walker hasLit : Bool) (r : SrcRule) (s : Src) : Nat :=
  if r.cls.isEmpty then (if s = Src.zero then 0 else 6)
  else
    let wide := r.wide && !walker
    let i := s.idx.toNat
    let perLane : Bool := s.cls = .v || s.cls = .o || s.cls = .l || s.cls = .p
    if !r.cls.contains s.cls || (s.cls = .lit && !hasLit) || (walker && !s.cls.inWalker) ||
       (r.wide && (s.cls = .l || s.cls = .p)) || (s.cls = .port && (i = 2 || i = 3)) then 3
    else if (s.cls = .v && r.tiles ≠ 0 && r.tiles ≤ i) ||
       (s.cls ≠ .lit && s.cls.maxIdx walker < i) ||
       (wide && (s.cls = .v || s.cls = .o) && i % 2 = 1) ||
       (s.cls = .g && (i % r.step ≠ 0 || r.last < i)) then 4
    else if !s.patOk || (s.pat ≠ .ident && (!perLane || r.tiles ≠ 0 || walker)) then 5
    else if s.cls = .lit && i ≠ 0 then 6
    else if s.neg && (!r.neg || s.cls = .imm || s.cls = .lit || s.cls = .port) then 8
    else 0

/-- The sub-code the destination field breaks under a rule, or 0 (R41, R42, R45, R46). DEDUCED, log 25. -/
def dstSub (walker : Bool) (xop : Nat) (r : DstRule) (d : Dst) : Nat :=
  if r.cls.isEmpty || (r.orZero && d = Dst.zero) then (if d = Dst.zero then 0 else 6)
  else
    let wide := r.wide && !walker
    let i := d.idx.toNat
    if !r.cls.contains d.cls || (walker && !d.cls.inWalker) || (r.wide && d.cls = .p) ||
       (d.cls = .port && !r.anyPort && i ≤ 1) ||
       (d.cls = .port && xop / 64 = 13 && i ≤ 3) then 3
    else if (d.cls = .v && r.tiles ≠ 0 && r.tiles ≤ i) || (d.cls.maxIdx walker < i) ||
       (r.anyPort && 3 < i) || (wide && (d.cls = .v || d.cls = .o) && i % 2 = 1) ||
       (d.cls = .g && i % r.step ≠ 0) then 4
    else if d.sat && !r.sat then 6
    else 0

/-- The sub-code a memory-control field breaks, or 0 (R53). -/
def memSub (stream scope policy : Bool) (spaces : List Nat) (x : Ext) : Nat :=
  if x.scope = 3 || x.space = 3 || (!stream && x.stream ≠ 0) || (!scope && x.scope ≠ 0) ||
     (!policy && x.policy ≠ 0) || !spaces.contains x.space then 2
  else if bits 1 0 x.c ≠ 0 then 6
  else 0

/-- The sub-code the C field breaks under a rule, or 0 (R52). -/
def cSub (walker hasLit : Bool) (r : CRule) (x : Ext) : Nat :=
  match r with
  | .zero => if x.c = 0 then 0 else 6
  | .third r => srcSub walker hasLit r x.cSrc
  | .mem st sc po sp => memSub st sc po sp x
  | .srcType => if bits 6 0 x.c = 0 then 0 else 6

/-- A class-7 source is named somewhere (R41). -/
def Ext.namesLit (x : Ext) (sh : Shape) : Bool :=
  (!sh.a.cls.isEmpty && x.a.cls = .lit) || (!sh.b.cls.isEmpty && x.b.cls = .lit) ||
  (match sh.c with | .third _ => decide (x.cSrc.cls = .lit) | _ => false)

/-- The special-register form of MOV: its A field (R123). -/
def movSregSub (walker : Bool) (x : Ext) : Nat :=
  if walker || !isMovSreg x.a.idx.toNat then 2
  else if x.a.cls ≠ .v then 3
  else if x.a.pat ≠ .ident || x.a.param ≠ 0 then 5
  else if x.a.neg then 8 else 0

/-- Checks particular to one entry: the slot of CVT (R155), an .ins into an out port (R46), WNODE above
w13 (R250). -/
def oddSub (xop : Nat) (x : Ext) : Nat :=
  if xop = 0x188 then
    lowestSub [if x.b.idx.toNat < cvtSlots x then 0 else 4,
      if x.m10 = 1 ∧ x.d.cls = .port ∧ x.d.idx < 4 then 3 else 0]
  else if xop = 0x380 then (if x.d.idx.toNat ≤ 13 then 0 else 4)
  else 0

/-- The lowest sub-code of trap 0x01 that the encoding of an extended instruction decides, or 0
(R60, R85). `walker` reads it as walker code (R61), where any value other than 0 is a walker fault. -/
def Ext.sub (walker : Bool) (xop : Nat) (x : Ext) : Nat :=
  match shape xop x with
  | none => 1
  | some sh =>
    let hasLit := x.lit.isSome
    let movS : Bool := xop = 0x082 && bit 0 x.mod
    lowestSub [
      if sh.mod && !(x.gn && x.gp = 0) && !(sh.p0 && (x.gn || x.gp ≠ 0)) then 0 else 2,
      if walker && 7 < x.gp.toNat then 4 else 0,
      dstSub walker xop sh.d x.d,
      if movS then movSregSub walker x else srcSub walker hasLit sh.a x.a,
      if sh.bZero && x.b = Src.zero then 0 else srcSub walker hasLit sh.b x.b,
      cSub walker hasLit sh.c x,
      oddSub xop x,
      if hasLit && !(x.namesLit sh) then 8 else 0]

/-- How a base form reads its fields (R82). -/
inductive Form where
  | reg | imm | unary | ternary | mem | none
deriving DecidableEq, Repr

/-- A 6-bit immediate sign-extended to 8 bits (R36). -/
def imm6 (b : BitVec 6) : BitVec 8 := b.signExtend 8

/-- A class-0 field with identity pattern and no negation. -/
def Src.reg (i : BitVec 6) : Src :=
  { cls := .v, idx := i.setWidth 8, pat := .ident, param := 0, neg := false }

/-- The extended instruction a base instruction stands for, less its opcode (R36, R37). -/
def Base.expand (f : Form) (mod : BitVec 10) (w : Base) : Ext :=
  let immB : Src := { cls := .imm, idx := imm6 w.b, pat := .ident, param := 0, neg := false }
  let litB : Src := { cls := .lit, idx := 0, pat := .ident, param := 0, neg := false }
  let none? : Bool := f = .none
  { stall := w.s.setWidth 4, gp := w.g.setWidth 5, gn := false, mod := mod,
    a := if none? then Src.zero else Src.reg w.a,
    d := if none? then Dst.zero else { cls := .v, idx := w.d.setWidth 8, sat := false },
    b := match f with
      | .unary | .none => Src.zero
      | .reg | .ternary => if w.lit.isSome then litB else Src.reg w.b
      | .imm | .mem => if w.lit.isSome then litB else immB,
    c := if f = .ternary then (w.d.setWidth 12) <<< 1 else 0,
    lit := w.lit }

/-- The sub-code of trap 0x01 a base word's own fields decide (R37, R83): an operand B for the literal,
a zero B in length 10, zero fields the form does not read. -/
def Base.ownSub (f : Form) (w : Base) : Nat :=
  let long := w.lit.isSome
  lowestSub [
    if long && (f = .unary || f = .none) then 3 else 0,
    if (long || f = .unary || f = .none) && w.b ≠ 0 then 6 else 0,
    if f = .none && (w.a ≠ 0 || w.d ≠ 0) then 6 else 0]

/-- The lowest sub-code of a base instruction, its alias's included (R36, R83). -/
def Base.sub (walker : Bool) (f : Form) (xop : Nat) (mod : BitVec 10) (w : Base) : Nat :=
  lowestSub [w.ownSub f, Ext.sub walker xop (w.expand f mod)]

end Sys2Proof
end

