-- ==== Sys2Proof/Decode.lean ====
section
/-! DEFINITION. The decoder, total on any bytes, the encoder written from the same tables (R33 to R40,
R79, R82), and the decoding of an opcode-table word. -/

namespace Sys2Proof

/-- Class 0: the constructors in op order (R79). -/
def opsInt : List (Ext → Instr) :=
  [.iadd, .iadd3, .isub, .imul, .imulh, .imad, .idiv, .irem, .imin, .imax, .iabs, .ineg, .idot4, .lea]

/-- Class 1: the constructors in op order (R79). -/
def opsLogic : List (Ext → Instr) :=
  [.and, .or, .xor, .andn, .not, .shl, .shr, .sar, .rotl, .popc, .clz, .ctz, .brev, .bfx, .bfi]

/-- Class 2: the constructors in op order (R79). -/
def opsMove : List (Ext → Instr) :=
  [.icmp, .isel, .mov, .movl, .pand, .por, .pxor, .pnot, .pmov]

/-- Class 3: the constructors in op order (R79). -/
def opsLane : List (Ext → Instr) :=
  [.vote, .shfl, .redux, .scan, .xchg]

/-- Class 4: the constructors in op order (R79). -/
def opsControl : List (Ext → Instr) :=
  [.bra, .brd, .join, .loop, .brk, .call, .ret, .jmpi, .exit, .nop, .yield]

/-- Class 5: the constructors in op order (R79). -/
def opsFloat : List (Ext → Instr) :=
  [.fadd, .fsub, .fmul, .ffma, .fmin, .fmax, .fcmp, .fclass, .fdiv]

/-- Class 6: the constructors in op order (R79). -/
def opsSpecial : List (Ext → Instr) :=
  [.frcp, .frsq, .fsqrt, .fex2, .flg2, .fsin, .fcos, .frnd, .cvt, .cvtsc]

/-- Class 7: the constructors in op order (R79). -/
def opsPacked : List (Ext → Instr) :=
  [.hadd2, .hmul2, .hfma2, .hdot2, .qdot4]

/-- Class 8: the constructors in op order (R79). -/
def opsAccess : List (Ext → Instr) :=
  [.ld, .st, .ldfe, .stfe, .sbind, .sclose]

/-- Class 9: the constructors in op order (R79). -/
def opsAtomic : List (Ext → Instr) :=
  [.atom, .red, .fence, .fencex, .fencea]

/-- Class A: the constructors in op order (R79). -/
def opsCopy : List (Ext → Instr) :=
  [.cpy, .cpyt, .cpyg, .cpyr]

/-- Class B: the constructors in op order (R79). -/
def opsMatrix : List (Ext → Instr) :=
  [.tld, .tst, .tmov, .mzero, .mma, .mloop, .mlda, .msta, .mcvt]

/-- Class C: the constructors in op order (R79). -/
def opsCoord : List (Ext → Instr) :=
  [.bfence, .bwait, .bpoll, .qinit, .qenq, .qdeq, .qstat, .musterInit, .musterArrive, .musterWait, .musterPoll, .claim, .give, .relay, .cancel, .cntrd, .bar]

/-- Class D: the constructors in op order (R79). -/
def opsNear : List (Ext → Instr) :=
  [.nmdot, .nmdist, .nmlut, .nmred, .nmfill, .search, .scancel]

/-- Class E: the constructors in op order (R79). -/
def opsWalker : List (Ext → Instr) :=
  [.wnode, .wnbr, .wdist, .wheap, .wkth, .wvisit, .whop, .wspawn, .wend]

/-- Class F: the constructors in op order (R79). -/
def opsSystem : List (Ext → Instr) :=
  [.trap, .rtt, .tmask, .tunmask, .srd, .swr, .bkpt, .pfrd, .time, .sleep]

/-- The constructor of an extended opcode, XOP = 64 × class + op; none for the 879 unassigned slots
(R79, R80). -/
def extCtor (xop : Nat) : Option (Ext → Instr) :=
  let op := xop % 64
  match xop / 64 with
  | 0 => opsInt[op]?
  | 1 => opsLogic[op]?
  | 2 => opsMove[op]?
  | 3 => opsLane[op]?
  | 4 => opsControl[op]?
  | 5 => opsFloat[op]?
  | 6 => opsSpecial[op]?
  | 7 => opsPacked[op]?
  | 8 => opsAccess[op]?
  | 9 => opsAtomic[op]?
  | 10 => opsCopy[op]?
  | 11 => opsMatrix[op]?
  | 12 => opsCoord[op]?
  | 13 => opsNear[op]?
  | 14 => opsWalker[op]?
  | 15 => opsSystem[op]?
  | _ => none

/-- A row of R82: base opcode, constructor, form, extended opcode, MOD value. -/
structure BaseRow where
  bop : Nat
  form : Form
  xop : Nat
  mod : BitVec 10
deriving DecidableEq, Repr

/-- The base opcodes of R82, in order, with form, XOP and MOD. -/
def baseRows0 : List BaseRow := [
  ⟨0, .reg, 0x000, 0x040⟩,
  ⟨1, .imm, 0x000, 0x040⟩,
  ⟨2, .reg, 0x002, 0x040⟩,
  ⟨3, .imm, 0x002, 0x040⟩,
  ⟨4, .reg, 0x003, 0x040⟩,
  ⟨5, .imm, 0x003, 0x040⟩,
  ⟨6, .ternary, 0x005, 0x040⟩,
  ⟨7, .reg, 0x004, 0x040⟩,
  ⟨8, .reg, 0x004, 0x0C0⟩,
  ⟨9, .reg, 0x008, 0x040⟩,
  ⟨10, .reg, 0x009, 0x040⟩,
  ⟨11, .reg, 0x008, 0x0C0⟩]

def baseRows1 : List BaseRow := [
  ⟨12, .reg, 0x009, 0x0C0⟩,
  ⟨13, .unary, 0x00A, 0x040⟩,
  ⟨14, .unary, 0x00B, 0x040⟩,
  ⟨15, .reg, 0x000, 0x060⟩,
  ⟨16, .reg, 0x040, 0x0C0⟩,
  ⟨17, .imm, 0x040, 0x0C0⟩,
  ⟨18, .reg, 0x041, 0x0C0⟩,
  ⟨19, .imm, 0x041, 0x0C0⟩,
  ⟨20, .reg, 0x042, 0x0C0⟩,
  ⟨21, .imm, 0x042, 0x0C0⟩,
  ⟨22, .reg, 0x043, 0x0C0⟩,
  ⟨23, .unary, 0x044, 0x0C0⟩]

def baseRows2 : List BaseRow := [
  ⟨24, .reg, 0x045, 0x0C0⟩,
  ⟨25, .imm, 0x045, 0x0C0⟩,
  ⟨26, .reg, 0x046, 0x0C0⟩,
  ⟨27, .imm, 0x046, 0x0C0⟩,
  ⟨28, .reg, 0x047, 0x040⟩,
  ⟨29, .imm, 0x047, 0x040⟩,
  ⟨30, .imm, 0x048, 0x0C0⟩,
  ⟨31, .unary, 0x049, 0x0C0⟩,
  ⟨32, .unary, 0x082, 0x0C0⟩,
  ⟨33, .unary, 0x082, 0x0E0⟩,
  ⟨48, .reg, 0x140, 0x100⟩,
  ⟨49, .imm, 0x140, 0x100⟩]

def baseRows3 : List BaseRow := [
  ⟨50, .reg, 0x141, 0x100⟩,
  ⟨51, .reg, 0x142, 0x100⟩,
  ⟨52, .imm, 0x142, 0x100⟩,
  ⟨53, .ternary, 0x143, 0x100⟩,
  ⟨54, .reg, 0x144, 0x100⟩,
  ⟨55, .reg, 0x145, 0x100⟩,
  ⟨56, .reg, 0x1C0, 0x120⟩,
  ⟨57, .reg, 0x1C1, 0x120⟩,
  ⟨58, .ternary, 0x1C2, 0x120⟩,
  ⟨59, .reg, 0x1C0, 0x140⟩,
  ⟨60, .ternary, 0x1C2, 0x140⟩,
  ⟨64, .mem, 0x200, 0x0C0⟩]

def baseRows4 : List BaseRow := [
  ⟨65, .mem, 0x201, 0x0C0⟩,
  ⟨66, .mem, 0x200, 0x0E0⟩,
  ⟨67, .mem, 0x201, 0x0E0⟩,
  ⟨126, .none, 0x108, 0x000⟩,
  ⟨127, .none, 0x109, 0x000⟩]

/-- All base rows (R82). -/
def baseRows : List BaseRow :=
  baseRows0 ++ baseRows1 ++ baseRows2 ++ baseRows3 ++ baseRows4

/-- The row of a base opcode; none for the unassigned ones (R84). -/
def baseRow (bop : Nat) : Option BaseRow := baseRows.find? (fun r => r.bop = bop)

/-- The constructor of a base opcode (R82). -/
def baseCtor (bop : Nat) : Option (Base → Instr) :=
  match bop with
  | 0 => some .iaddI32Reg
  | 1 => some .iaddI32Imm
  | 2 => some .isubI32Reg
  | 3 => some .isubI32Imm
  | 4 => some .imulI32Reg
  | 5 => some .imulI32Imm
  | 6 => some .imadI32Base
  | 7 => some .imulhI32Base
  | 8 => some .imulhN32Base
  | 9 => some .iminI32Base
  | 10 => some .imaxI32Base
  | 11 => some .iminN32Base
  | 12 => some .imaxN32Base
  | 13 => some .iabsI32Base
  | 14 => some .inegI32Base
  | 15 => some .iaddI64Base
  | 16 => some .andN32Reg
  | 17 => some .andN32Imm
  | 18 => some .orN32Reg
  | 19 => some .orN32Imm
  | 20 => some .xorN32Reg
  | 21 => some .xorN32Imm
  | 22 => some .andnN32Base
  | 23 => some .notN32Base
  | 24 => some .shlN32Reg
  | 25 => some .shlN32Imm
  | 26 => some .shrN32Reg
  | 27 => some .shrN32Imm
  | 28 => some .sarI32Reg
  | 29 => some .sarI32Imm
  | 30 => some .rotlN32Imm
  | 31 => some .popcN32Base
  | 32 => some .movN32Base
  | 33 => some .movN64Base
  | 48 => some .faddF32Reg
  | 49 => some .faddF32Imm
  | 50 => some .fsubF32Base
  | 51 => some .fmulF32Reg
  | 52 => some .fmulF32Imm
  | 53 => some .ffmaF32Base
  | 54 => some .fminF32Base
  | 55 => some .fmaxF32Base
  | 56 => some .hadd2F16Base
  | 57 => some .hmul2F16Base
  | 58 => some .hfma2F16Base
  | 59 => some .hadd2Bf16Base
  | 60 => some .hfma2Bf16Base
  | 64 => some .ldN32Base
  | 65 => some .stN32Base
  | 66 => some .ldN64Base
  | 67 => some .stN64Base
  | 126 => some .exitBase
  | 127 => some .nopBase
  | _ => none

/-- What an instruction of the table is made of: an extended opcode and its fields, a base opcode and its
fields, an unassigned word, or an event that no word names. -/
inductive Code where
  | ext (xop : Nat) (x : Ext)
  | base (bop : Nat) (w : Base)
  | unassigned (word : BitVec 32)
  | event
deriving DecidableEq, Repr

/-- The opcode and fields of every constructor (R79, R82). -/
def Instr.code : Instr → Code
  | .iadd x => .ext 0x000 x
  | .iadd3 x => .ext 0x001 x
  | .isub x => .ext 0x002 x
  | .imul x => .ext 0x003 x
  | .imulh x => .ext 0x004 x
  | .imad x => .ext 0x005 x
  | .idiv x => .ext 0x006 x
  | .irem x => .ext 0x007 x
  | .imin x => .ext 0x008 x
  | .imax x => .ext 0x009 x
  | .iabs x => .ext 0x00A x
  | .ineg x => .ext 0x00B x
  | .idot4 x => .ext 0x00C x
  | .lea x => .ext 0x00D x
  | .and x => .ext 0x040 x
  | .or x => .ext 0x041 x
  | .xor x => .ext 0x042 x
  | .andn x => .ext 0x043 x
  | .not x => .ext 0x044 x
  | .shl x => .ext 0x045 x
  | .shr x => .ext 0x046 x
  | .sar x => .ext 0x047 x
  | .rotl x => .ext 0x048 x
  | .popc x => .ext 0x049 x
  | .clz x => .ext 0x04A x
  | .ctz x => .ext 0x04B x
  | .brev x => .ext 0x04C x
  | .bfx x => .ext 0x04D x
  | .bfi x => .ext 0x04E x
  | .icmp x => .ext 0x080 x
  | .isel x => .ext 0x081 x
  | .mov x => .ext 0x082 x
  | .movl x => .ext 0x083 x
  | .pand x => .ext 0x084 x
  | .por x => .ext 0x085 x
  | .pxor x => .ext 0x086 x
  | .pnot x => .ext 0x087 x
  | .pmov x => .ext 0x088 x
  | .vote x => .ext 0x0C0 x
  | .shfl x => .ext 0x0C1 x
  | .redux x => .ext 0x0C2 x
  | .scan x => .ext 0x0C3 x
  | .xchg x => .ext 0x0C4 x
  | .bra x => .ext 0x100 x
  | .brd x => .ext 0x101 x
  | .join x => .ext 0x102 x
  | .loop x => .ext 0x103 x
  | .brk x => .ext 0x104 x
  | .call x => .ext 0x105 x
  | .ret x => .ext 0x106 x
  | .jmpi x => .ext 0x107 x
  | .exit x => .ext 0x108 x
  | .nop x => .ext 0x109 x
  | .yield x => .ext 0x10A x
  | .fadd x => .ext 0x140 x
  | .fsub x => .ext 0x141 x
  | .fmul x => .ext 0x142 x
  | .ffma x => .ext 0x143 x
  | .fmin x => .ext 0x144 x
  | .fmax x => .ext 0x145 x
  | .fcmp x => .ext 0x146 x
  | .fclass x => .ext 0x147 x
  | .fdiv x => .ext 0x148 x
  | .frcp x => .ext 0x180 x
  | .frsq x => .ext 0x181 x
  | .fsqrt x => .ext 0x182 x
  | .fex2 x => .ext 0x183 x
  | .flg2 x => .ext 0x184 x
  | .fsin x => .ext 0x185 x
  | .fcos x => .ext 0x186 x
  | .frnd x => .ext 0x187 x
  | .cvt x => .ext 0x188 x
  | .cvtsc x => .ext 0x189 x
  | .hadd2 x => .ext 0x1C0 x
  | .hmul2 x => .ext 0x1C1 x
  | .hfma2 x => .ext 0x1C2 x
  | .hdot2 x => .ext 0x1C3 x
  | .qdot4 x => .ext 0x1C4 x
  | .ld x => .ext 0x200 x
  | .st x => .ext 0x201 x
  | .ldfe x => .ext 0x202 x
  | .stfe x => .ext 0x203 x
  | .sbind x => .ext 0x204 x
  | .sclose x => .ext 0x205 x
  | .atom x => .ext 0x240 x
  | .red x => .ext 0x241 x
  | .fence x => .ext 0x242 x
  | .fencex x => .ext 0x243 x
  | .fencea x => .ext 0x244 x
  | .cpy x => .ext 0x280 x
  | .cpyt x => .ext 0x281 x
  | .cpyg x => .ext 0x282 x
  | .cpyr x => .ext 0x283 x
  | .tld x => .ext 0x2C0 x
  | .tst x => .ext 0x2C1 x
  | .tmov x => .ext 0x2C2 x
  | .mzero x => .ext 0x2C3 x
  | .mma x => .ext 0x2C4 x
  | .mloop x => .ext 0x2C5 x
  | .mlda x => .ext 0x2C6 x
  | .msta x => .ext 0x2C7 x
  | .mcvt x => .ext 0x2C8 x
  | .bfence x => .ext 0x300 x
  | .bwait x => .ext 0x301 x
  | .bpoll x => .ext 0x302 x
  | .qinit x => .ext 0x303 x
  | .qenq x => .ext 0x304 x
  | .qdeq x => .ext 0x305 x
  | .qstat x => .ext 0x306 x
  | .musterInit x => .ext 0x307 x
  | .musterArrive x => .ext 0x308 x
  | .musterWait x => .ext 0x309 x
  | .musterPoll x => .ext 0x30A x
  | .claim x => .ext 0x30B x
  | .give x => .ext 0x30C x
  | .relay x => .ext 0x30D x
  | .cancel x => .ext 0x30E x
  | .cntrd x => .ext 0x30F x
  | .bar x => .ext 0x310 x
  | .nmdot x => .ext 0x340 x
  | .nmdist x => .ext 0x341 x
  | .nmlut x => .ext 0x342 x
  | .nmred x => .ext 0x343 x
  | .nmfill x => .ext 0x344 x
  | .search x => .ext 0x345 x
  | .scancel x => .ext 0x346 x
  | .wnode x => .ext 0x380 x
  | .wnbr x => .ext 0x381 x
  | .wdist x => .ext 0x382 x
  | .wheap x => .ext 0x383 x
  | .wkth x => .ext 0x384 x
  | .wvisit x => .ext 0x385 x
  | .whop x => .ext 0x386 x
  | .wspawn x => .ext 0x387 x
  | .wend x => .ext 0x388 x
  | .trap x => .ext 0x3C0 x
  | .rtt x => .ext 0x3C1 x
  | .tmask x => .ext 0x3C2 x
  | .tunmask x => .ext 0x3C3 x
  | .srd x => .ext 0x3C4 x
  | .swr x => .ext 0x3C5 x
  | .bkpt x => .ext 0x3C6 x
  | .pfrd x => .ext 0x3C7 x
  | .time x => .ext 0x3C8 x
  | .sleep x => .ext 0x3C9 x
  | .iaddI32Reg w => .base 0 w
  | .iaddI32Imm w => .base 1 w
  | .isubI32Reg w => .base 2 w
  | .isubI32Imm w => .base 3 w
  | .imulI32Reg w => .base 4 w
  | .imulI32Imm w => .base 5 w
  | .imadI32Base w => .base 6 w
  | .imulhI32Base w => .base 7 w
  | .imulhN32Base w => .base 8 w
  | .iminI32Base w => .base 9 w
  | .imaxI32Base w => .base 10 w
  | .iminN32Base w => .base 11 w
  | .imaxN32Base w => .base 12 w
  | .iabsI32Base w => .base 13 w
  | .inegI32Base w => .base 14 w
  | .iaddI64Base w => .base 15 w
  | .andN32Reg w => .base 16 w
  | .andN32Imm w => .base 17 w
  | .orN32Reg w => .base 18 w
  | .orN32Imm w => .base 19 w
  | .xorN32Reg w => .base 20 w
  | .xorN32Imm w => .base 21 w
  | .andnN32Base w => .base 22 w
  | .notN32Base w => .base 23 w
  | .shlN32Reg w => .base 24 w
  | .shlN32Imm w => .base 25 w
  | .shrN32Reg w => .base 26 w
  | .shrN32Imm w => .base 27 w
  | .sarI32Reg w => .base 28 w
  | .sarI32Imm w => .base 29 w
  | .rotlN32Imm w => .base 30 w
  | .popcN32Base w => .base 31 w
  | .movN32Base w => .base 32 w
  | .movN64Base w => .base 33 w
  | .faddF32Reg w => .base 48 w
  | .faddF32Imm w => .base 49 w
  | .fsubF32Base w => .base 50 w
  | .fmulF32Reg w => .base 51 w
  | .fmulF32Imm w => .base 52 w
  | .ffmaF32Base w => .base 53 w
  | .fminF32Base w => .base 54 w
  | .fmaxF32Base w => .base 55 w
  | .hadd2F16Base w => .base 56 w
  | .hmul2F16Base w => .base 57 w
  | .hfma2F16Base w => .base 58 w
  | .hadd2Bf16Base w => .base 59 w
  | .hfma2Bf16Base w => .base 60 w
  | .ldN32Base w => .base 64 w
  | .stN32Base w => .base 65 w
  | .ldN64Base w => .base 66 w
  | .stN64Base w => .base 67 w
  | .exitBase w => .base 126 w
  | .nopBase w => .base 127 w
  | .unassignedOpcode w => .unassigned w
  | .asyncWriteArrival .. | .spillEngineFill .. | .throttleRotation .. | .xchgRequestArrival .. | .fabricGrant ..
    | .packetPromotion .. | .congestionInterval .. | .qenqPublish .. | .queueWaiterServed .. | .queuePollRetry ..
    | .musterArrivalCommand .. | .claimServed .. | .sleepEnd .. | .copyCompletion .. | .copyFeRowWrite ..
    | .matrixInstructionStart .. | .mloopStep .. | .matrixInstructionComplete .. | .nmCommandForward ..
    | .nmCommandComplete .. | .searchAdmission .. | .searchEnd .. | .walkerHopArrival .. | .walkerSpawnStart ..
    | .heapOffer .. | .visitedRequest .. | .walkerReplyArrival .. | .manifestIntake .. | .workgroupPlacement ..
    | .groupRetirement .. | .launchCompletion .. | .relayCommit .. | .cancelGraceExpiry .. | .preemptionRequest ..
    | .drainExpiry .. | .preemptionDeadline .. | .flushAndRestart .. | .workgroupSave .. | .workgroupRestore ..
    | .contextHalt .. | .engineHaltStop .. | .shootdownPortWrite .. | .shootdownComplete .. | .poolPortWrite ..
    | .migrationWindowEnd .. | .pagePromotion .. | .rowRepair .. | .scrub .. | .contextRelease ..
    | .debugHaltRequest .. | .debugStep .. | .debugResume .. | .campreq .. | .powerControlRead ..
    | .partitionTableWrite .. | .fabricWeightWrite .. | .schedulingRegisterWrite .. | .migrationControlWrite ..
    | .qpBindingWrite .. | .controlSpaceWrite .. | .enqWaybill .. | .getWaybill .. | .getdataWaybill ..
    | .putWaybill .. | .putackWaybill .. | .topksumWaybill .. | .ackOnlyWaybill .. | .waybillDiscard ..
    | .retransmissionTimeout .. | .ackDelayExpiry .. | .rdmaWrite .. | .rdmaRead .. | .rdmaSend ..
    | .roceInvalidRequest .. | .frameDiscard .. | .mgmtAttest .. | .mgmtReadStatus .. | .mgmtWriteLtol ..
    | .mgmtEnterCamp .. | .mgmtEnqueue .. | .mgmtUnknownCommand .. | .sidebandReadStatus .. | .sidebandEndCamp ..
    | .sidebandEnterCamp .. | .sidebandSelectImage .. | .sidebandWriteStaging .. | .sidebandVerifyImage ..
    | .sidebandReadRecovery .. | .sidebandNack .. | .powerFailWarning .. | .campExit .. | .coldInitialisation ..
    | .powerMeasurement .. | .idleEntry .. | .idleExit .. | .powerFailWarningFall .. | .portLinkUp .. => .event

/-- Kind number to pattern (R48). -/
def Pat.ofBits (n : Nat) : Pat :=
  match n with
  | 0 => .ident | 1 => .rot | 2 => .bcast | 3 => .bfly | 4 => .mir | 5 => .fold | 6 => .res6
  | _ => .res7

/-- Pattern to kind number (R48). -/
def Pat.toBits : Pat → Nat
  | .ident => 0 | .rot => 1 | .bcast => 2 | .bfly => 3 | .mir => 4 | .fold => 5 | .res6 => 6
  | .res7 => 7

/-- A source field from its 20 bits (R40). -/
def decodeSrc (f : BitVec 20) : Src :=
  { cls := Cls.ofBits (bits 19 17 f), idx := f.extractLsb 16 9, pat := Pat.ofBits (bits 8 6 f),
    param := f.extractLsb 5 1, neg := bit 0 f }

/-- The 20 bits of a source field (R40). -/
def encodeSrc (s : Src) : BitVec 20 :=
  (BitVec.ofNat 3 s.cls.toBits) ++ s.idx ++ (BitVec.ofNat 3 s.pat.toBits) ++ s.param ++
    BitVec.ofBool s.neg

/-- A destination field from its 12 bits (R38). -/
def decodeDst (f : BitVec 12) : Dst :=
  { cls := Cls.ofBits (bits 11 9 f), idx := f.extractLsb 8 1, sat := bit 0 f }

/-- The 12 bits of a destination field (R38). -/
def encodeDst (d : Dst) : BitVec 12 :=
  (BitVec.ofNat 3 d.cls.toBits) ++ d.idx ++ BitVec.ofBool d.sat

/-- A 64-bit literal from its two words, low word first (R34). -/
def literal (lo hi : BitVec 32) : BitVec 64 := hi ++ lo

/-- The fields of an extended instruction from its first three words and literal (R38). -/
def decodeExt (w0 w1 w2 : BitVec 32) (lit : Option (BitVec 64)) : Ext :=
  { stall := w0.extractLsb 15 12, gp := w0.extractLsb 20 16, gn := bit 21 w0,
    mod := w0.extractLsb 31 22, a := decodeSrc (w1.extractLsb 31 12),
    d := decodeDst (w1.extractLsb 11 0), b := decodeSrc (w2.extractLsb 19 0),
    c := w2.extractLsb 31 20, lit := lit }

/-- The extended opcode of a first word (R38). -/
def xopOf (w0 : BitVec 32) : Nat := bits 11 2 w0
/-- The base opcode of a base word (R35). -/
def bopOf (w0 : BitVec 32) : Nat := bits 8 2 w0

/-- The fields of a base word (R35). -/
def decodeBase (w0 : BitVec 32) (lit : Option (BitVec 64)) : Base :=
  { b := w0.extractLsb 31 26, a := w0.extractLsb 25 20, d := w0.extractLsb 19 14,
    g := w0.extractLsb 13 11, s := w0.extractLsb 10 9, lit := lit }

/-- Words of an instruction by the length code of its first word (R33, R86). -/
def lengthWords (w0 : BitVec 32) : Nat :=
  match bits 1 0 w0 with
  | 0 => 1 | 1 => 3 | 2 => 3 | _ => 5

/-- The instruction of some words and its length in bytes; none when words are missing. An unassigned
opcode reads as `unassignedOpcode` (R80, R84). -/
def decodeRaw (ws : List (BitVec 32)) : Option (Instr × Nat) :=
  match ws with
  | [] => none
  | w0 :: rest =>
    let un := Instr.unassignedOpcode w0
    match bits 1 0 w0 with
    | 0 => some (((baseCtor (bopOf w0)).map (· (decodeBase w0 none))).getD un, 4)
    | 1 =>
      match rest with
      | w1 :: w2 :: _ =>
        some (((extCtor (xopOf w0)).map (· (decodeExt w0 w1 w2 none))).getD un, 12)
      | _ => none
    | 2 =>
      match rest with
      | l0 :: l1 :: _ =>
        some (((baseCtor (bopOf w0)).map (· (decodeBase w0 (some (literal l0 l1))))).getD un, 12)
      | _ => none
    | _ =>
      match rest with
      | w1 :: w2 :: l0 :: l1 :: _ =>
        some (((extCtor (xopOf w0)).map
          (· (decodeExt w0 w1 w2 (some (literal l0 l1))))).getD un, 20)
      | _ => none

/-- The sub-code of trap 0x01 that an instruction's encoding decides (R60, R83, R85), 0 when it is legal;
events have no encoding. -/
def Instr.sub (walker : Bool) (i : Instr) : Nat :=
  match i.code with
  | .ext xop x => x.sub walker xop
  | .base bop w =>
    match baseRow bop with
    | some r => w.sub walker r.form r.xop r.mod
    | none => 1
  | .unassigned _ => 1
  | .event => 0

/-- A well-formed instruction: its encoding breaks no condition of R60 in core code, or none of R61 in
walker code. Instructions of class E are well formed as walker code only (R81). -/
def Instr.wf (i : Instr) : Bool :=
  match i.code with
  | .ext xop _ => if xop / 64 = 14 then i.sub true = 0 else i.sub false = 0 || i.sub true = 0
  | .base .. => i.sub false = 0 || i.sub true = 0
  | .unassigned _ => false
  | .event => true

/-- What the decoder answers: an instruction and its length in bytes, an instruction whose encoding breaks
a condition of R60 with the lowest sub-code, or too few bytes. -/
inductive Decoded where
  | ok (i : Instr) (len : Nat)
  | illegal (sub : Nat) (i : Instr) (len : Nat)
  | truncated
deriving DecidableEq, Repr

/-- A little-endian word (R10). -/
def wordOfBytes (b0 b1 b2 b3 : Byte) : BitVec 32 := b3 ++ b2 ++ b1 ++ b0

/-- The bytes of a word, lowest address first (R10). -/
def bytesOfWord (w : BitVec 32) : List Byte :=
  [w.extractLsb 7 0, w.extractLsb 15 8, w.extractLsb 23 16, w.extractLsb 31 24]

/-- Bytes read as whole words; a rest of less than four bytes is dropped. -/
def wordsOfBytes : List Byte → List (BitVec 32)
  | b0 :: b1 :: b2 :: b3 :: rest => wordOfBytes b0 b1 b2 b3 :: wordsOfBytes rest
  | _ => []

/-- The decoder: total on any bytes, every condition of R60 that the encoding decides reported by its
sub-code. -/
def decode (walker : Bool) (bs : List Byte) : Decoded :=
  match decodeRaw (wordsOfBytes bs) with
  | none => .truncated
  | some (i, len) => if i.sub walker = 0 then .ok i len else .illegal (i.sub walker) i len

/-- Words 1 and 2 of an extended instruction. -/
def encodeTail (x : Ext) : List (BitVec 32) :=
  [encodeSrc x.a ++ encodeDst x.d, x.c ++ encodeSrc x.b]

/-- Literal words (R34). -/
def encodeLit : Option (BitVec 64) → List (BitVec 32)
  | none => []
  | some l => [l.extractLsb 31 0, l.extractLsb 63 32]

/-- The words of an extended instruction (R38). -/
def encodeExt (xop : Nat) (x : Ext) : List (BitVec 32) :=
  (x.mod ++ BitVec.ofBool x.gn ++ x.gp ++ x.stall ++ BitVec.ofNat 10 xop ++
    (if x.lit.isSome then 3#2 else 1#2)) :: (encodeTail x ++ encodeLit x.lit)

/-- The words of a base instruction (R35, R37). -/
def encodeBase (bop : Nat) (w : Base) : List (BitVec 32) :=
  (w.b ++ w.a ++ w.d ++ w.g ++ w.s ++ BitVec.ofNat 7 bop ++
    (if w.lit.isSome then 2#2 else 0#2)) :: encodeLit w.lit

/-- The words of an instruction; none for an event. -/
def encode (i : Instr) : List (BitVec 32) :=
  match i.code with
  | .ext xop x => encodeExt xop x
  | .base bop w => encodeBase bop w
  | .unassigned w => [w]
  | .event => []

/-- The bytes of an instruction, words at ascending addresses (R33). -/
def encodeBytes (i : Instr) : List Byte := (encode i).flatMap bytesOfWord

/-- The five words of a number, lowest word first. -/
def tableWords (w : Nat) : List (BitVec 32) :=
  [BitVec.ofNat 32 w, BitVec.ofNat 32 (w / 2 ^ 32), BitVec.ofNat 32 (w / 2 ^ 64),
    BitVec.ofNat 32 (w / 2 ^ 96), BitVec.ofNat 32 (w / 2 ^ 128)]

/-- What the decoder reads from an opcode-table word: bit 0 of `w` is bit 0 of the first word, and the bits
above `nbits` are 0. An encoding that R60 refuses is still read as the instruction it refuses. -/
def decodeTableWord (nbits w : Nat) : Option Instr :=
  match decode false ((tableWords (w % 2 ^ nbits)).flatMap bytesOfWord) with
  | .ok i _ => some i
  | .illegal _ i _ => some i
  | .truncated => none

end Sys2Proof
end

