-- ==== Sys2Proof/Machine/Tab.lean ====
section
/-! DEFINITION. Sparse tables: a list of (number, value) pairs, numbers rising, no pair at the value an
unlisted number reads as. Memory, registers and every numbered part of the machine are such tables. -/

namespace Sys2Proof

/-- A sparse table. -/
abbrev Tab (α : Type) := List (Nat × α)

/-- The value at a number; `d` where none is listed. -/
def Tab.get (d : α) : Tab α → Nat → α
  | [], _ => d
  | (k, v) :: t, i => if k = i then v else Tab.get d t i

/-- The listed value at a number, if any. -/
def Tab.look : Tab α → Nat → Option α
  | [], _ => none
  | (k, v) :: t, i => if k = i then some v else Tab.look t i

/-- The table without a number. -/
def Tab.del : Tab α → Nat → Tab α
  | [], _ => []
  | (k, v) :: t, i => if k = i then Tab.del t i else (k, v) :: Tab.del t i

/-- The pair put in before the first greater number. -/
def Tab.ins : Tab α → Nat → α → Tab α
  | [], i, v => [(i, v)]
  | (k, w) :: t, i, v => if i < k then (i, v) :: (k, w) :: t else (k, w) :: Tab.ins t i v

/-- The table with one value replaced; a value equal to `d` is not listed. -/
def Tab.set [DecidableEq α] (d : α) (t : Tab α) (i : Nat) (v : α) : Tab α :=
  if v = d then t.del i else (t.del i).ins i v

/-- The table with one value replaced and always listed: for records, whose default is never compared. -/
def Tab.put (t : Tab α) (i : Nat) (v : α) : Tab α := (t.del i).ins i v

/-- Every number is above `b` and they rise; no value equals `d`. -/
def Tab.wfFrom [DecidableEq α] (d : α) : Option Nat → Tab α → Bool
  | _, [] => true
  | b, (k, v) :: t =>
    (match b with | none => true | some b => decide (b < k)) && !decide (v = d) &&
      Tab.wfFrom d (some k) t

/-- The canonical form. -/
def Tab.wf [DecidableEq α] (d : α) (t : Tab α) : Bool := Tab.wfFrom d none t

/-- A list with an entry put at its end, but before those at the end that must follow it. -/
def inOrder (l : List α) (later : α → Bool) (x : α) : List α :=
  let k := (l.reverse.takeWhile later).length
  l.take (l.length - k) ++ x :: l.drop (l.length - k)

/-- The numbers of a table. -/
def Tab.keys (t : Tab α) : List Nat := t.map Prod.fst

namespace Machine

/-- Memory: bytes by address, in canonical form (Host.Cell pairs). -/
abbrev Memory := List Host.Cell

/-- What a byte of DRAM that nothing has written reads as. DESIGN CHOICE (log 2): the spec gives no contents
of DRAM after power-on; unsafe. -/
def Memory.unlisted : Byte := 0

/-- The byte at an address. -/
def Memory.byte (m : Memory) (a : Nat) : Byte := Tab.get Memory.unlisted m a

/-- Memory with one byte written. -/
def Memory.setByte (m : Memory) (a : Nat) (b : Byte) : Memory := Tab.set Memory.unlisted m a b

/-- The canonical form of memory: addresses strictly rising, no byte equal to what an unlisted address
reads as. -/
def Memory.wf (m : Memory) : Bool := Tab.wf Memory.unlisted m

end Machine
end Sys2Proof
end

