-- ==== Sys2Proof/Machine/State.lean ====
section
/-! DEFINITION. The state of the device: everything spec/ gives it, as plain data, the outcomes' reasons,
and the state right after reset. -/

namespace Sys2Proof.Machine

/-- Why a step can stop with a fault. -/
inductive Fault where
  /-- No meaning raises this: every trap, halt and wait of the spec is a next state. Kept because the
  interface asks for a type of faults. Safe. -/
  | none
deriving DecidableEq, Repr

/-- Why a step can be refused. -/
inductive Refusal where
  /-- An arm of exec without a meaning, by the mnemonic of the opcode table. Safe. -/
  | notModelled (mnemonic : String)
deriving DecidableEq, Repr

/-- Token kinds of the reconvergence stack (R133); `other`: a KIND in memory that R260 does not list. -/
inductive TokKind where
  | join | defer | loop | other
deriving DecidableEq, Repr, Inhabited

/-- A token (R133), field for field as R260 lays it out in memory. `sp1`: parent or owner; `sp2`: child. -/
structure Token where
  kind : TokKind
  pc1 : DWord := 0
  pc2 : DWord := 0
  sp1 : Nat := 0
  sp2 : Nat := 0
  maskA : Mask := 0
  maskB : Mask := 0
  phase : Bool := false
  ppk : Bool := false
  cpk : Bool := false
deriving DecidableEq, Repr, Inhabited

/-- A return-stack entry (R266). -/
structure Ret where
  rpc : DWord
  wbs : Nat
  wsz : Nat
  rtops : Nat
  depth : Nat
deriving DecidableEq, Repr, Inhabited

/-- What a split waits for after its instruction was taken up; `retry`: its instruction issues anew at a
cycle. -/
inductive Wait where
  | none
  | retry (cycle : Nat)
  | queue (block : Nat) (enq : Bool)
  | publish
  | muster (addr : Nat)
  | claim
  | bar
  | relay
  | sleep
deriving DecidableEq, Repr, Inhabited

/-- A register a result is bound for. `v` names allocation rows (both halves of a pair), the physical rows
and their generations at issue (R270); `port` an out port or the zero port. -/
inductive Target where
  | none
  | v (row : Nat) (phys gen : Nat)
  | vPair (row row2 : Nat) (phys phys2 gen gen2 : Nat)
  | o (i : Nat) (wide : Bool)
  | g (i : Nat)
  | p (i : Nat)
  | port (i : Nat)
deriving DecidableEq, Repr, Inhabited

/-- An instruction that waits in the machine and has not yet taken effect: its length, stall count, effective and
active lanes, destination and the operands it has read. -/
structure Pend where
  size : Nat
  stall : Nat
  eff : Mask
  active : Mask
  target : Target
  addr : Nat := 0
  /-- the block of a queue operation. -/
  block : Nat := 0
  val : DWord := 0
  stream : Nat := 0
  space : Nat := 0
  scope : Nat := 0
  /-- it has raised a masked trap as it parked (R370, R371). -/
  raised : Bool := false
deriving DecidableEq, Repr, Inhabited

/-- A split (R133 to R137, R254, R261). `readyAt`: the first cycle its next instruction may issue;
`last`: the cycle it last issued; `skips`: instructions at which an address breakpoint does not match once; `atBreak`: it
stands at a breakpoint that halted its context for the debugger, until RESUME or STEP (R379, R380). -/
structure Split where
  live : Bool := false
  pc : DWord := 0
  mask : Mask := 0
  parked : Bool := false
  parkPc : DWord := 0
  readyAt : Nat := 0
  last : Nat := 0
  wait : Wait := .none
  /-- cause of the last wait before issue (R382). -/
  why : Nat := 0
  /-- the instruction that waits, when `wait` is one of the waits it is served from. -/
  pend : Option Pend := Option.none
  skips : List DWord := []
  atBreak : Bool := false
  /-- the step trap of an instruction whose wait has still to end: its address and lanes (R381). -/
  due : Option (DWord × Mask) := Option.none
  /-- YIELD: the splits (group × 4 + split) that must issue first, and the cycle that ends it (R142). -/
  yieldTo : List Nat := []
  yieldEnd : Nat := 0
deriving DecidableEq, Repr, Inhabited

/-- A trap found before the instruction that raises it (R183, R236, R374). `engine`: 0 C, 2 N, with the
batch that raises it; otherwise the register target or the access that raises it. `claims` are the traps of
one operation in the order they are raised. -/
structure Deferred where
  cause : BitVec 8
  lanes : Mask
  addr : DWord
  info : DWord
  /-- the operation's number, by which its batch is found. -/
  op : Nat
  engine : Option Nat
  target : Target
  /-- the closed batch of that engine the operation belongs to, once it is closed (R183). -/
  batch : Option (BitVec 16) := Option.none
  /-- stream of a RED, raised by what waits for its acknowledgement, and its bytes: the space, the size and the addresses of
  its lanes (R374). -/
  red : Option Nat := Option.none
  space : Nat := 0
  bytes : Nat := 0
  span : List Nat := []
deriving DecidableEq, Repr, Inhabited

/-- Kinds of outstanding access (R279) and the fences that order them; `push`: the port write of a result that has still to
arrive (R292). -/
inductive AccKind where
  | load | store | atomic | red | push
  | fenceRel (all : Bool) | fenceAcq (all : Bool) | fenceAr (all : Bool)
  | fencex (streams : BitVec 16) | order
deriving DecidableEq, Repr, Inhabited

/-- A lane's part of an access: lane, address (virtual, or scratchpad offset), value, compare value. -/
structure LaneAcc where
  lane : Nat
  addr : Nat
  val : DWord := 0
  cmp : DWord := 0
deriving DecidableEq, Repr, Inhabited

/-- An access issued and not yet performed (R279). `after`: the numbers of the earlier accesses it must
follow; `po`: the splits in whose program order it stands;
`parks`: LOOP tokens (owner, exit PC) whose takers it will precede (R263). -/
structure Acc where
  id : Nat
  kind : AccKind
  po : BitVec 4
  stream : Nat
  scope : Nat
  policy : Nat
  space : Nat
  ord : Nat
  bytes : Nat
  ty : Nat
  op : Nat := 0
  lanes : List LaneAcc
  target : Target
  uniform : Bool := false
  active : Mask := 0
  /-- privilege of the group at issue (R392). -/
  super : Bool := false
  parks : List (Nat × DWord) := []
  after : List Nat := []
  /-- copies, near-memory commands and searches it waits for (R279, R283). -/
  engines : List Nat := []
  /-- lanes performed so far with their values, and the poison they met: lanes, lowest address, whether newly
  found (R374). -/
  got : List (Nat × DWord) := []
  flags : BitVec 5 := 0
  bad : Option (Mask × Nat × Bool) := none
  /-- the addresses of all the lanes of a RED (R374). -/
  span : List Nat := []
deriving DecidableEq, Repr, Inhabited

/-- An engine operation under way in its group's program order: as `po` and `parks` of an access (R263). -/
structure OpOrder where
  id : Nat
  po : BitVec 4
  parks : List (Nat × DWord) := []
deriving DecidableEq, Repr, Inhabited

/-- A result performed and not yet written: an asynchronous register write (R270). -/
structure Reply where
  id : Nat
  split : Nat := 0
  target : Target
  /-- lane, value -/
  vals : List (Nat × DWord)
  flags : BitVec 5 := 0
deriving DecidableEq, Repr, Inhabited

/-- A fixed-latency result not yet readable (R55 to R58), or one that lanes of other splits may still read old (R49): its
target, the cycle it becomes readable, the split (4: none that lives), the old values of its lanes, and whether it shifted
the latches. `feed0`, `feed1`: the lanes whose l0 and whose l1 hold this result (R47). `openTo`: the splits that may still
read the old value in lanes of others: those that lived when it was written and have not been merged with its split since. -/
structure Fresh where
  split : Nat
  cycle : Nat
  target : Target
  old : List (Nat × DWord)
  latch : Bool
  oldL0 : List (Nat × Word)
  oldL1 : List (Nat × Word)
  feed0 : BitVec 32 := 0
  feed1 : BitVec 32 := 0
  openTo : BitVec 4 := 0
  /-- flags that join FPFLAGS at the readable cycle (R100). -/
  flags : BitVec 5 := 0
deriving DecidableEq, Repr, Inhabited

/-- A muster arrival command on its way (R220). `core`: the core whose L1 it writes back as a release; `wide`: whatever the
muster's SCOPE; `after`: the accesses and engine operations it releases. -/
structure Arrival where
  addr : DWord
  ctx : Nat
  count : Nat
  status : Nat
  core : Option Nat := none
  wide : Bool := false
  after : List Nat := []
deriving DecidableEq, Repr, Inhabited

/-- Flags of a completed engine operation that have still to join FPFLAGS: its engine and, once it is closed, its batch
(R100). -/
structure Late where
  engine : Nat
  batch : Option (BitVec 16)
  flags : BitVec 5
deriving DecidableEq, Repr, Inhabited

/-- A closed batch that is not complete: engine, number, operations still running, the arrival its completion makes
(R210). `gone`: its group has retired or relayed, and only the arrival is left of it. -/
structure Batch where
  engine : Nat
  num : BitVec 16
  ops : List Nat
  muster : Option Arrival
  gone : Bool := false
deriving DecidableEq, Repr, Inhabited

/-- An entry of the pending-trap queue (R371). -/
structure Trap where
  cause : BitVec 8
  split : Nat
  pc : DWord
  lanes : Mask
  addr : DWord
  info : DWord
  src : DWord
deriving DecidableEq, Repr, Inhabited

/-- What RTT restores (R373, R365). -/
structure Handler where
  split : Nat
  pc : DWord
  mask : Mask
  trapmask : BitVec 4
  parked : Bool
  wait : Wait
  super : Bool
  cause : BitVec 8
  /-- the step trap that the split's instruction has still to raise when its wait ends (R381). -/
  due : Option (DWord × Mask) := Option.none
  /-- when the SLEEP that the split stands in ends (R232, R311). -/
  sleep : Option Nat := Option.none
deriving DecidableEq, Repr, Inhabited

/-- A port binding (R168, R169). -/
structure Port where
  bound : Bool := false
  base : Nat := 0
  count : Nat := 0
  pos : Nat := 0
deriving DecidableEq, Repr, Inhabited

/-- An XCHG request (R128, R129, R301). `stage`: 0 sent, 1 in the buffer or held at the slice,
2 matched (its reply is among the replies). -/
structure Xchg where
  gid : Nat
  sid : Nat := 0
  target : Target := .none
  ctx : Nat
  tag : Word
  wide : Bool
  mask : Mask
  vals : List (Nat × DWord)
  reply : Nat
  stage : Nat
deriving DecidableEq, Repr, Inhabited

/-- A QENQ past its reservation (R215): its number among the operations, the block's physical address, the slot's
index, the element's size and source, its destination under .try. -/
structure Enq where
  id : Nat
  gid : Nat
  sid : Nat
  block : Nat
  /-- the virtual address that named the block (R339). -/
  va : Nat := 0
  index : Nat
  size : Nat
  stream : Nat
  space : Nat
  src : Nat
  target : Target
  lanes : Mask
  published : Bool := false
  /-- a QDEQ past HEAD: `src` is the element's destination (R216). -/
  deq : Bool := false
deriving DecidableEq, Repr, Inhabited

/-- A waiting CLAIM (R222). -/
structure Claim where
  gid : Nat
  sid : Nat
  rows : Nat
deriving DecidableEq, Repr, Inhabited

/-- A group (R24, R256 to R273). -/
structure Group where
  live : Bool := false
  ctx : Nat := 0
  wg : Nat := 0
  idx : Nat := 0
  prio : Nat := 0
  super : Bool := false
  /-- physical rows of the slot, allocation row by allocation row. -/
  phys : List Nat := []
  /-- key: allocation row × 32 + lane. -/
  rows : Tab Word := []
  /-- key: register × 32 + lane. -/
  o : Tab Word := []
  l : Tab Word := []
  p : Tab Mask := []
  g : Tab DWord := []
  splits : Tab Split := []
  /-- reconvergence stack and return stack: the entries in hardware, top first, and the number of entries
  spilled to memory (R259, R266). -/
  tokens : List Token := []
  tokSpill : Nat := 0
  rets : List Ret := []
  retSpill : Nat := 0
  /-- lanes that have exited for good (R138). -/
  exited : Mask := 0
  winBase : Nat := 0
  winSize : Nat := 0
  rbot : Nat := 0
  rtop : Nat := 0
  /-- logical rows filled back at a RET, not yet read by the spill engine. -/
  spillWork : Bool := false
  last : Tab (BitVec 16) := []
  /-- operations issued and not closed into a batch, with their engines. -/
  unfenced : List (Nat × Nat) := []
  /-- engine operations under way (R263). -/
  ops : List OpOrder := []
  batches : List Batch := []
  late : List Late := []
  traps : List Trap := []
  handler : Option Handler := none
  trapPc : DWord := 0
  trapLanes : Mask := 0
  trapAddr : DWord := 0
  trapInfo : DWord := 0
  trapSrc : DWord := 0
  trapMask : BitVec 4 := 0
  fpflags : Word := 0
  fpmode : Word := 0
  stallchk : Word := 0
  stepen : Word := 0
  cancelled : Word := 0
  dbgfocus : Word := 0
  lastSplit : Nat := 0
  shape : Tab Word := []
  bucket : Tab DWord := []
  ports : Tab Port := []
  accs : List Acc := []
  /-- scoreboarded results not yet written: number, target, split (R56). -/
  pending : List (Nat × Target × Nat) := []
  replies : List Reply := []
  fresh : List Fresh := []
  deferred : List Deferred := []
  /-- SLEEP: device time at which it ends, by split (R311). -/
  sleeps : Tab Nat := []
  relay : Option (DWord × DWord) := none
  retiring : Bool := false
  issued : Nat := 0
  /-- stall counters, selector − 0x10 (R382). -/
  stalls : Tab Nat := []
  /-- last 64 issues, newest first: memory or not (R273). -/
  recent : List Bool := []
  /-- device cycle at which the group became resident. -/
  since : Nat := 0
deriving DecidableEq, Repr, Inhabited

/-- A workgroup resident on a core (R24, R257). -/
structure Workgroup where
  ctx : Nat := 0
  launch : Nat := 0
  core : Nat := 0
  base : Nat := 0
  wgid : Nat := 0
  /-- descriptor fields (R75). -/
  entry : DWord := 0
  rowsPer : Nat := 0
  ngrp : Nat := 0
  sgran : Nat := 0
  accm : BitVec 4 := 0
  tilem : BitVec 8 := 0
  idem : Bool := false
  roles : Word := 0
  spill : Nat := 0
  /-- where the supervisor placed the groups' spill areas: group g's at spillBase + g × SPILL × 4,096
  (R265; DESIGN CHOICE, log 13). -/
  spillBase : DWord := 0
  /-- groups, by index in the workgroup: their numbers; retired ones stay listed. -/
  groups : List Nat := []
  sp : Tab Word := []
  full : Tab Bool := []
  /-- key: tile × 16,384 + row × 128 + byte. -/
  tiles : Tab Byte := []
  /-- key: accumulator × 16,384 + row × 128 + column. -/
  accs : Tab Word := []
  restartable : Bool := true
  /-- device time of the last start, and time counted before a save (R327). -/
  started : Nat := 0
  elapsed : Nat := 0
  barred : List Nat := []
  /-- pre-emption method under way: 1 drain, 2 flush, 3 save; device time at which a drain ends. -/
  preempt : Option (Nat × Nat) := none
  /-- what a relay commit that waits asks for: rows per group, granules, tiles, accumulators (R226). -/
  want : Option (Nat × Nat × BitVec 8 × BitVec 4) := none
  /-- a group retired with CANCELLED set (R323). -/
  cancelled : Bool := false
deriving DecidableEq, Repr, Inhabited

/-- A page's move that a slice's migration engine has begun (R342): up from its capacity frame to a pool frame, or down. -/
structure Move where
  slice : Nat
  page : Nat
  ctx : Nat
  leaf : Nat
  frame : Nat
  down : Bool
deriving DecidableEq, Repr, Inhabited

/-- A cached sector: 32 bytes, dirty, poison, in an L1 its line's scope tag (R280), and the mark its line was allocated
with: 0 norm, 1 evict, 2 keep (R54). -/
structure Sector where
  data : BitVec 256 := 0
  dirty : Bool := false
  poison : Bool := false
  tag : Nat := 0
  mark : Nat := 0
deriving DecidableEq, Repr, Inhabited

/-- A leaf translation in a cache (R339). -/
structure TlbEntry where
  ctx : Nat
  va : Nat
  large : Bool
  entry : DWord
  leaf : Nat
deriving DecidableEq, Repr, Inhabited

/-- A place bytes are copied between: the space by its code (R54: 0 g, 1 sp, 2 bl) and a virtual address or
scratchpad offset. -/
structure Loc where
  space : Nat
  addr : Nat
deriving DecidableEq, Repr, Inhabited

/-- A piece of a copy's work, in the order the copy takes them (R182, R306). -/
inductive CUnit where
  /-- one 32-byte sector -/
  | sector (src dst : Loc)
  /-- row i of a CPYT block -/
  | trow (i : Nat)
  /-- bytes of the scale plane of a CPYT: offset and count -/
  | tscale (off n : Nat)
  /-- entry j of a CPYG list, and all after it -/
  | entry (j : Nat)
  /-- a sector to be sent in a PUT, or one that a GETDATA brings: offset from the copy's start -/
  | put (off : Nat)
  | get (off : Nat)
deriving DecidableEq, Repr, Inhabited

/-- A piece of a copy whose lines have been read and not yet written (R306, R307): where it goes, its bytes with their
poison, and the 128-byte lines it holds in the staging window. -/
structure Staged where
  unit : CUnit
  dst : Loc
  bytes : List (Byte × Bool)
  bad : Option (Nat × Bool)
  lines : List Nat
deriving DecidableEq, Repr, Inhabited

/-- A copy in flight (R180 to R188). `ctl` holds the control registers read at issue. -/
structure Copy where
  id : Nat
  gid : Nat
  wg : Nat
  ctx : Nat
  super : Bool
  stream : Nat
  scope : Nat
  policy : Nat
  kind : Nat
  mod : BitVec 10
  dst : Loc
  src : Loc
  ctl : List DWord
  /-- what it has still to request, in order. -/
  units : List CUnit
  /-- the cycle after that of its issue (R306). -/
  since : Nat := 0
  staged : List Staged := []
  /-- the line it requested last (R306). -/
  line : Option Nat := none
  /-- bytes placed so far on the contiguous side of a CPYG. -/
  done : Nat := 0
  /-- the bytes it reads and writes, as known at issue (R181). -/
  ranges : List Acc := []
  after : List Nat := []
  /-- CPYR: a request is on its way and not answered; the SEQ of a TOPK waybill. -/
  sent : Bool := false
  topk : Option Nat := none
  /-- bytes of a sector that is not whole yet, and the address after the bytes placed last (R182). -/
  tail : List (BitVec 8 × Bool) := []
  next : Nat := 0
  /-- poison: sectors found failing, lowest address, and whether one was newly found (R366, R374). -/
  bad : Option (Nat × Bool) := none
  fail : Option (Nat × DWord) := none
deriving DecidableEq, Repr, Inhabited

/-- A matrix instruction issued and not complete (R189 to R206), by the XOP's last digit. `d`: tile or accumulator;
`a`: address, or tile of TMOV and MMA; `b`: address, scale or mask; `step`: steps of an MLOOP performed. -/
structure Matrix where
  id : Nat
  gid : Nat
  wg : Nat
  op : Nat
  mod : BitVec 10
  sat : Bool
  d : Nat
  a : Nat
  b : DWord
  ctl : List DWord
  /-- the cycle after that of its issue (R189). -/
  since : Nat := 0
  started : Bool := false
  step : Nat := 0
  /-- an MLOOP step's waits: 0 for A, 1 for B, 2 over (R202); passes done; the cycle in which its first pass may begin
  (R303, R304). -/
  phase : Nat := 0
  pass : Nat := 0
  ready : Nat := 0
  /-- since which cycle the words that the step to come waits for have been full (R202, R304). -/
  full : Option Nat := none
  /-- scratchpad sectors of the step to come that have been read ahead, by offset ÷ 32 (R304). -/
  ahead : Tab (BitVec 256) := []
  /-- what the exact integer sums exceed the elements by, in units of 2^32, by row × 128 + column (R111). -/
  wraps : Tab Int := []
  /-- rows of a writing instruction written so far (R305). -/
  row : Nat := 0
  /-- scratchpad sectors the running instruction or step has read, by offset ÷ 32 (R205). -/
  snap : Tab (BitVec 256) := []
  flags : BitVec 5 := 0
deriving DecidableEq, Repr, Inhabited

/-- A near-memory command in flight (R233 to R244): the operand values read at issue, what it read when it was
forwarded, and its progress. -/
structure Near where
  id : Nat
  gid : Nat
  wg : Nat
  ctx : Nat
  super : Bool
  stream : Nat
  scope : Nat
  /-- the XOP's last digit: 0 NMDOT, 1 NMDIST, 2 NMLUT, 3 NMRED, 4 NMFILL. -/
  op : Nat
  mod : BitVec 10
  addr : Nat
  len : Nat := 0
  ctl : List DWord := []
  target : Target := .none
  lanes : Mask
  actives : Mask
  /-- destination index in the window, or the g index (R236). -/
  regIdx : Nat := 0
  ranges : List Acc := []
  after : List Nat := []
  /-- .qr bytes read at issue; query, list or activation bytes of other sources, each with its poison. -/
  query : List (Byte × Bool) := []
  list : List (Byte × Bool) := []
  header : List Byte := []
  /-- lowest failing sector of those bytes and whether one was newly found. -/
  readBad : Option (Nat × Bool) := none
  forwarded : Bool := false
  stack : Nat := 0
  /-- query-cache entries it holds (R345). -/
  held : Nat := 0
  /-- results, rows or sectors done; the sum of an NMRED. -/
  step : Nat := 0
  acc : Option Word := none
  got : List (Nat × DWord) := []
  flags : BitVec 5 := 0
  /-- poison met: lanes, lowest sector, whether newly found, first poison result (R236). -/
  bad : Option (Mask × Nat × Bool × Nat) := none
  /-- where it stopped (R234); the status an NMLUT gives at once (R242). -/
  stop : Option Nat := none
  early : Bool := false
deriving DecidableEq, Repr, Inhabited

/-- The operand-collector latch (R200): group, tile, kind, .ta, M, K. -/
structure HoldLatch where
  gid : Nat
  tile : Nat
  kind : Nat
  ta : Bool
  m : Nat
  k : Nat
deriving DecidableEq, Repr, Inhabited

/-- A core's own parts (R19). -/
structure Core where
  /-- key: physical address ÷ 32. -/
  l1 : Tab Sector := []
  /-- the instruction cache's sectors, by the same key (R19; DESIGN CHOICE, log 11). -/
  icache : Tab Sector := []
  tlb : List TlbEntry := []
  copies : List Copy := []
  /-- the cycle after the copy engine's last write; 0 before the first (R310). -/
  wroteAt : Nat := 0
  matrix : List Matrix := []
  hold : Option HoldLatch := none
  /-- the matrix instruction that ended last, and the cycle (R304). -/
  ended : Option (Nat × Matrix) := none
  near : List Near := []
  /-- counters 0x20, 0x21 and 0x28 to 0x2A, by selector − 0x20; 2: cycles with a matrix instruction incomplete, which
  0x22 does not count (R309, R310). -/
  counters : Tab Nat := []
deriving DecidableEq, Repr, Inhabited

/-- An issue slot's own parts. `gens`: generation of each physical row (R269); `claims`: waiting CLAIMs in
arrival order (R222); `rotation`: memory-bound groups, with the cycle plus one at which each came to hold permission (R273). -/
structure Slot where
  gens : Tab Nat := []
  claims : List Claim := []
  rotation : List (Nat × Nat) := []
  discarded : Word := 0
  lastPc : DWord := 0
  /-- the cycle after its last issue; 0 before the first (R272). -/
  issuedAt : Nat := 0
  /-- the other splits (group × 4 + split) that were ready when its last YIELD issued (R142, R271). -/
  peers : List Nat := []
deriving DecidableEq, Repr, Inhabited

/-- A cluster's own parts. `owner`: the partition table byte (R27, R393). -/
structure Cluster where
  tlb : List TlbEntry := []
  level : Nat := 0
  owner : BitVec 8 := 0
  /-- samples of the congestion interval: sum of flits and number (R300). -/
  sum : Nat := 0
  samples : Nat := 0
deriving DecidableEq, Repr, Inhabited

/-- A parked waiter of a queue or muster, by the object's physical address (R217, R221). -/
structure Waiter where
  gid : Nat
  sid : Nat
  block : Nat
  /-- the virtual address that named it (R339). -/
  va : Nat := 0
  enq : Bool := false
  isMuster : Bool := false
deriving DecidableEq, Repr, Inhabited

/-- A counter of a launch, graph or job (R321). `level`: 0, 1, 2; id 0 only for a launch no id names. -/
structure Counter where
  level : Nat
  id : Word
  ctx : Nat
  done : Nat := 0
  expect : Nat := 0
  status : Nat := 0
  complete : Bool := false
  ended : Bool := false
  cancelled : Bool := false
  /-- device time at which the grace period ends (R323). -/
  graceEnd : Option Nat := none
  /-- musters that the level's completion arrives at. -/
  musters : List DWord := []
  /-- the job a launch or graph belongs to; 0 for none. -/
  job : Word := 0
  launches : List Nat := []
deriving DecidableEq, Repr, Inhabited

/-- A launch taken, or made by a relay commit, and not complete (R313 to R321, R325). `desc` is the descriptor's
address, `descBytes` the descriptor as read; `again`: workgroups flushed and to be placed once more. -/
structure Launch where
  ctx : Nat := 0
  super : Bool := false
  prio : Nat := 0
  placePrio : Nat := 0
  passed : Nat := 0
  allres : Bool := false
  idem : Bool := false
  args : DWord := 0
  desc : Nat := 0
  descBytes : List Byte := []
  dims : List Nat := []
  grid : Nat := 0
  next : Nat := 0
  again : List Nat := []
  deps : List Word := []
  lcid : Word := 0
  gcid : Word := 0
  jcid : Word := 0
  gend : Bool := false
  jend : Bool := false
  mlevel : Nat := 0
  muster : DWord := 0
  shape : Tab Word := []
  bucket : Tab DWord := []
  done : Nat := 0
  status : Nat := 0
  relay : Bool := false
  /-- cores that ran one of its workgroups (R322). -/
  cores : List Nat := []
  /-- total resident time of completed workgroups and their number (R327). -/
  meanSum : Nat := 0
  meanN : Nat := 0
deriving DecidableEq, Repr, Inhabited

/-- A saved workgroup (R330): its record in the save area, and its engine remainders. DESIGN CHOICE, log 14. -/
structure Saved where
  wg : Workgroup
  /-- groups not retired, by index in the workgroup. -/
  groups : List (Nat × Group)
  /-- their tokens in hardware, in the layout of R260, by index. -/
  tokens : List (Nat × List (BitVec 256)) := []
  /-- indices of the groups that wait in BAR. -/
  barred : List Nat := []
  copies : List Copy
  matrix : List Matrix
  near : List Near
  xchg : List Xchg
  /-- cause of the save: true when Camp or an idle state made it. -/
  power : Bool
deriving DecidableEq, Repr, Inhabited

/-- A context (R24, R27, R392). -/
structure Context where
  live : Bool := false
  halted : Bool := false
  debugHalt : Bool := false
  cause : BitVec 8 := 0
  haltTime : Nat := 0
  haltCycle : Nat := 0
  /-- engines that have not yet stopped at a halt, and the engine that raised it. -/
  stopping : List Nat := []
  origin : Nat := 0
  /-- engines that held work when the halt line rose; stop records exist, of a debug halt or of a fatal one. -/
  held : List Nat := []
  records : Option Bool := none
  /-- a STEP under way (R262, R378): written; or tried, with the group's count of issues before it. -/
  stepReq : Option (Option Nat) := none
  /-- what STEPS is to hold once the engines of the stepped instruction have stopped (R379). -/
  steps : Option Nat := none
  faddrs : List (Nat × DWord) := []
  root : DWord := 0
  sched : DWord := 0x0C80_0A00_0640_0001
  weights : Word := 0x1224
  migration : DWord := 0x0040_0640_0000_0000
  network : Word := 0x8_0032
  debug : DWord := 0
  bpa : Tab DWord := []
  trapvec : DWord := 0
  /-- the tables of R27, by byte offset in the block ÷ 8. -/
  tables : Tab DWord := []
  pool : List Nat := []
  /-- promoted pages: capacity page, its HBM frame, the leaf entry's address, reference bit, in promotion
  order (R343). -/
  promoted : List (Nat × Nat × Nat × Bool) := []
  /-- index in `promoted` of the clock hand (R343); the sampling window counted so far (R341). -/
  hand : Nat := 0
  window : Nat := 0
  shootdowns : List Nat := []
  counters : List Counter := []
  /-- next launch queue of the intake round, placements left in the round of R319. -/
  intake : Nat := 0
  /-- device time of the pre-emption request's deadline, if one is running. -/
  preemptEnd : Option Nat := none
deriving DecidableEq, Repr, Inhabited

/-- A search (R245 to R252), listed until it ends. -/
structure Search where
  /-- number of its operation on engine S. -/
  id : Nat := 0
  ctx : Nat := 0
  super : Bool := false
  gid : Nat := 0
  core : Nat := 0
  stream : Nat := 0
  addr : Nat := 0
  ranges : List Acc := []
  after : List Nat := []
  target : Target := .none
  lanes : Mask := 0
  /-- the descriptor has been read. -/
  read : Bool := false
  handle : Word := 0
  desc : List Byte := []
  index : List Byte := []
  query : List Byte := []
  /-- physical address of the index record. -/
  ipa : Nat := 0
  admitted : Bool := false
  refused : Bool := false
  /-- entries ascending: key, node id (R252). -/
  heap : List (Word × Word) := []
  heapUnit : Nat := 0
  hops : Nat := 0
  walkers : Nat := 0
  poison : Bool := false
  fault : Bool := false
  cancelled : Bool := false
  limited : Bool := false
  /-- stack, visited slot -/
  slots : List (Nat × Nat) := []
deriving DecidableEq, Repr, Inhabited

/-- A walker (R250). `travel`: it is on the ring or held at a stop; `waiting`: it awaits a heap or visited
reply. -/
structure Walker where
  search : Nat := 0
  stack : Nat := 0
  engine : Nat := 0
  w : Tab DWord := []
  p : BitVec 8 := 0
  pc : DWord := 0
  waiting : Bool := false
  travel : Bool := false
deriving DecidableEq, Repr, Inhabited

/-- Messages between walkers, heaps and visited bitmaps (R346); `walker` names the walker it carries or
returns to, `wd` and `pk` the registers its reply writes. -/
inductive Msg where
  | hop (walker goal : Nat)
  | spawn (walker goal : Nat)
  | heap (walker : Nat) (offer : Option (Word × Word)) (wd pk : Nat)
  | visited (walker : Nat) (node : Word) (pd : Nat)
  | reply (walker : Nat) (wd : Option (Nat × DWord)) (pd : Option (Nat × Bool))
deriving DecidableEq, Repr, Inhabited

/-- The walker a message carries or returns to. -/
def Msg.walker : Msg → Nat
  | .hop w _ | .spawn w _ | .heap w _ _ _ | .visited w _ _ | .reply w _ _ => w

/-- A stream between two devices for one context (R360), seen from this device: what it sends and what it
receives. -/
structure NetStream where
  peer : Nat
  ctx : Nat
  rxAck : Nat := 0
  held : List Waybill := []
  /-- replies sent, by the SEQ that caused them. -/
  replies : List (Nat × Waybill) := []
  ackDue : Option Nat := none
  txNext : Nat := 1
  /-- sent and not acknowledged: waybill, retransmissions, time it is due again. -/
  unacked : List (Waybill × Nat × Nat) := []
  unreachable : Bool := false
deriving DecidableEq, Repr, Inhabited

/-- What the device answers to a RoCEv2 request (R354 to R356). -/
inductive RdmaReply where
  | ack (qp : Nat) (data : List Byte)
  | nakAccess (qp : Nat)
  | nakOperational (qp : Nat)
  | nakInvalid (qp : Nat)
  | rnr (qp : Nat)
deriving DecidableEq, Repr, Inhabited

/-- What a packet carries, with its bytes (R295, R296). `line` is a read by a copy engine, `memory` a write by one, a
near-memory command or result, or spill traffic; `message`: queues, musters, XCHG, launches, walkers, heaps, searches. -/
inductive Cargo where
  | readRequest (bytes : Nat)
  | readReply (bytes : Nat)
  | write (bytes : Nat)
  | writeAck
  | atomic (bytes : Nat)
  | atomicReply (bytes : Nat)
  | line (bytes : Nat)
  | lineReply (bytes : Nat)
  | memory (bytes : Nat)
  | message (bytes : Nat)
  | migration (bytes : Nat)
  | system (bytes : Nat)
deriving DecidableEq, Repr, Inhabited

/-- A packet waiting at a fabric port (R295 to R298): the input it came by, its channel and length, the ports it has
yet to pass, what it carries between a cluster and a slice, and its age. -/
structure Packet where
  input : Nat
  chan : Nat
  flits : Nat
  route : List Nat := []
  cargo : Cargo := .writeAck
  cluster : Nat := 0
  slice : Nat := 0
  lost : Nat := 0
  promoted : Option Nat := none
  /-- its place in the order of arrival among the packets of its input at a switch. -/
  order : Nat := 0
  /-- the XCHG request it carries (R301). -/
  owner : Option Nat := none
deriving DecidableEq, Repr, Inhabited

/-- What an agent sends (R294, R295): the request of an L1 fill for an aligned pair of sectors; anything from a cluster
to a slice, from a slice to a cluster, or between two stacks on the ring. -/
inductive Sending where
  | fill (core pa : Nat)
  | up (cargo : Cargo) (cluster slice : Nat)
  | down (cargo : Cargo) (cluster slice : Nat)
  | ring (cargo : Cargo) (source target : Nat)
deriving DecidableEq, Repr, Inhabited

/-- A fabric output port (R296, R297): waiting packets oldest first, grants made on the channel being
served, the next input of each channel, flits free downstream per channel, packets sent; packets that wait with their agents
for room. DESIGN CHOICE, log 19. -/
structure FabricPort where
  packets : List Packet := []
  chan : Nat := 0
  granted : Nat := 0
  weights : Word := 0x1224
  inputs : Tab Nat := []
  room : Tab Nat := []
  sent : List Packet := []
  stamp : Nat := 0
  backlog : List Packet := []
deriving DecidableEq, Repr, Inhabited

/-- Power states (R384). -/
inductive PowerState where
  | run | idle1 | idle2 | idle3 | camp
deriving DecidableEq, Repr, Inhabited

/-- The power manager (R31, R384 to R391). -/
structure Power where
  state : PowerState := .run
  ltol : BitVec 20 := 0
  lastDeep : Nat := 0
  campcnt : BitVec 16 := 0
  campns : DWord := 0
  /-- core clock in MHz (R31). -/
  clock : Nat := 4000
  /-- measurements of the last millisecond, newest first, in milliwatts. -/
  samples : List Nat := []
  warning : Bool := false
  warnFell : Option Nat := none
  /-- Camp was entered by the board, or with the warning input high (R389). -/
  campByWarning : Bool := false
  /-- Camp entry is at step 1 (R387); device time at which entry step 4 ended. -/
  entering : Bool := false
  campStart : Nat := 0
deriving DecidableEq, Repr, Inhabited

/-- The management controller (R395 to R399). -/
structure Mgmt where
  /-- flash images 1 to 3. -/
  images : Tab (List Byte) := []
  staging : List (Nat × List Byte) := []
  selected : Nat := 0
  recovery : Nat := 0
  failing : Nat := 0
  /-- replies on the sideband, newest first. -/
  sideband : List (List Byte) := []
  nacks : Nat := 0
deriving DecidableEq, Repr, Inhabited

/-- Which agent issues the instruction under execution. -/
inductive Issuer where
  | none
  | split (gid sid : Nat)
  | walker (id : Nat)
deriving DecidableEq, Repr, Inhabited

/-- What moves next (DESIGN CHOICE, log 4): plain data for what the spec leaves to time and to the agents' interleaving. -/
inductive Turn where
  /-- the slot issues its chosen split (R272) -/
  | issue (core slot : Nat)
  /-- a given split's instruction, when its slot chooses it; an engine's choice of walker (R250) -/
  | split (gid sid : Nat)
  | walker (id : Nat)
  /-- an event of the opcode table -/
  | event (i : Instr)
  /-- an outstanding access is performed: the sector a lane names, or the lane's atomic -/
  | perform (gid id lane : Nat)
  /-- a unit of a copy -/
  | copyUnit (core k u : Nat)
  /-- a copy requests its next lines; a staged piece is written (R306, R307) -/
  | copyRequest (core k : Nat)
  | copyStaged (core k j : Nat)
  /-- speculative fetches (R340): of instructions for a group, of a copy's next lines -/
  | prefetch (gid va : Nat)
  | readAhead (core k : Nat)
  /-- flags of a completed engine operation join FPFLAGS (R100) -/
  | flags (gid k : Nat)
  /-- the element of a QDEQ under way reaches its place (R216) -/
  | element (k : Nat)
  /-- replacement in an instruction cache and in a translation cache -/
  | evictCode (core sector : Nat)
  | evictTlb (core k : Nat)
  /-- core cycles pass, with so many nanoseconds of the device time counter -/
  | tick (cycles ns : Nat)
  /-- something is sent over the fabric; an end point takes flits of a channel from the buffer beyond a port; a congestion
  monitor takes its sample (R295, R296, R300) -/
  | send (x : Sending)
  /-- steps 2 to 4 of Camp entry, once step 1 is over (R387) -/
  | campEntry
  | drain (port chan flits : Nat)
  | sample (cluster : Nat)
  /-- a DRAM error: a sector that fails lastingly, or once (R366) -/
  | ecc (sector : Nat) (lasting : Bool)
  /-- the running matrix instruction writes its next row, reads a scratchpad sector, or ends a pass -/
  | matrixRow (core : Nat)
  | matrixRead (core sector : Nat)
  | matrixPass (core : Nat)
  /-- the next result, row or sector of a near-memory command -/
  | near (core k : Nat)
deriving DecidableEq, Repr

/-- The whole device. -/
structure State where
  /-- device time counter, ns (R232); core cycles; the part of a nanosecond not yet counted. -/
  time : Nat
  cycle : Nat
  sub : Nat
  booted : Bool
  who : Issuer
  turns : List Turn
  /-- the slot (core × 4 + slot) that steps without a turn issue from (DESIGN CHOICE, log 4). -/
  focus : Nat
  fresh : Nat
  ids : Nat
  mem : Memory
  /-- sectors of DRAM marked poisoned, by DRAM address ÷ 32 (R366). -/
  poison : List Nat
  /-- sectors that fail when next read: address ÷ 32, lasting or not (R366). -/
  ecc : List (Nat × Bool)
  /-- slices' sectors, by physical address ÷ 32 (R17, R280). -/
  slice : Tab Sector
  cores : Tab Core
  slots : Tab Slot
  clusters : Tab Cluster
  /-- key: core × 64 + slot × 16 + resident index. -/
  groups : Tab Group
  wgs : Tab Workgroup
  ctxs : Tab Context
  launches : Tab Launch
  saved : List Saved
  /-- by placement priority: the context being served and its placements so far (R319). -/
  served : Tab (Nat × Nat)
  /-- waiters of all queues and musters, oldest first. -/
  waiters : List Waiter
  enqs : List Enq
  arrivals : List Arrival
  xchgs : List Xchg
  searches : Tab Search
  walkers : Tab Walker
  msgs : List Msg
  /-- walkers held at the target stops, oldest first (R252). -/
  stops : List Msg
  /-- operations that wait for query-cache entries, in arrival order (R345). -/
  cacheWait : List Nat
  /-- leaf entries that a core has used: each stays in effect until a shootdown, whatever the tables hold (R339). -/
  inEffect : List TlbEntry
  /-- handles given by each home stack, newest first, each with the stack's admissions until then; those admissions (R245). -/
  handles : Tab (List (Word × Nat))
  admissions : Tab Nat
  /-- the walker each engine (stack × 4 + engine) served last, plus 1 (R250, R252). -/
  lastWalker : Tab Nat
  /-- The model's own: per engine, the cycle after the one in which it last ran a walker without a turn. DESIGN CHOICE, log 4. -/
  walkedAt : Tab Nat
  /-- bank error registers, key: stack × 2,048 + unit × 32 + b (R368). -/
  bankErr : Tab DWord
  /-- base-die counters, key: stack × 8 + selector − 0x40 (R383). -/
  baseDie : Tab Nat
  /-- spare rows used, and channels recorded for retirement (R335). -/
  repaired : List (Nat × Nat × Nat × Nat)
  retire : List Nat
  /-- live channels: retired ones (stack × 128 + pseudo-channel) are listed (R333). -/
  retired : List Nat
  /-- capacity channels populated (R3), device number, owner context, management list, MAC addresses. -/
  populated : Nat
  device : BitVec 16
  owner : Nat
  mgmtList : List (BitVec 16)
  mac0 : BitVec 48
  mac1 : BitVec 48
  /-- the IP addresses of the two ports, which the management controller sets; no program reads or writes them (R352). -/
  ip0 : BitVec 128
  ip1 : BitVec 128
  /-- access counters of capacity pages and the leaf entry that last translated each (R341, R343). -/
  pageCount : Tab Nat
  pageLeaf : Tab Nat
  pageShared : List Nat
  /-- the context of the counted requests of a page, plus 1. -/
  pageCtx : Tab Nat
  /-- promotion queues of the slices: slice, page, context, leaf entry address (R341). -/
  promote : List (Nat × Nat × Nat × Nat)
  /-- pages whose migration is under way: leaf entry address; the moves of the slices' engines (R342). -/
  busy : List Nat
  moves : List Move
  net : Tab NetStream
  outbox : List Waybill
  rdmaOut : List RdmaReply
  /-- queue pairs in the error state (R354). -/
  qpError : List Nat
  /-- the packet sequence number that each queue pair takes next (R391). -/
  psns : Tab (BitVec 24)
  frames : Tab Nat
  waybillsDropped : Nat
  links : Tab Bool
  ports : Tab FabricPort
  power : Power
  mgmt : Mgmt
deriving DecidableEq, Repr

/-- The device right after reset: before cold initialisation (R395), memory with nothing listed, every
register at the value the spec gives for reset or the log names (DESIGN CHOICE, log 1, log 2, log 3). -/
def State.reset : State :=
  { time := 0, cycle := 0, sub := 0, booted := false, who := .none, turns := [], focus := 0,
    fresh := 0, ids := 1, mem := [], poison := [], ecc := [], slice := [], cores := [], slots := [],
    clusters := [], groups := [], wgs := [], ctxs := [], launches := [], saved := [], served := [],
    waiters := [], enqs := [], arrivals := [], xchgs := [], searches := [], walkers := [], msgs := [],
    stops := [], cacheWait := [], inEffect := [], handles := [], admissions := [], lastWalker := [], walkedAt := [],
    bankErr := [], baseDie := [], repaired := [], retire := [], retired := [], populated := 16,
    device := 0, owner := 0, mgmtList := [], mac0 := 0, mac1 := 0, ip0 := 0, ip1 := 0, pageCount := [], pageLeaf := [],
    pageShared := [], pageCtx := [], promote := [], busy := [], moves := [], net := [], outbox := [], rdmaOut := [], qpError := [], psns := [],
    frames := [], waybillsDropped := 0, links := [], ports := [], power := {}, mgmt := {} }

/-- The device's step answers one of these. -/
abbrev Res := Host.Outcome State Fault Refusal

end Sys2Proof.Machine
end

