-- ==== Sys2Proof/Machine/Operands.lean ====
section
/-! DEFINITION. Operand forms: reading a source field in a lane (R40 to R44, R48), writing a destination
(R45, R47), the registers a field names, and the same for walker code (R61, R114). -/

namespace Sys2Proof.Machine

/-- The lanes 0 to 31. -/
abbrev allLanes : List Nat := List.range 32

/-- The mask of the lanes that satisfy a test. -/
def maskOf (f : Nat → Bool) : Mask :=
  allLanes.foldl (fun m i => if f i then m ||| (1#32 <<< i) else m) 0

/-- The effective lanes of a mask in ascending order. -/
def lanesOf (m : Mask) : List Nat := allLanes.filter (fun i => Mask.has m i)

/-- The lowest lane of a mask; 0 of an empty one. -/
def lowLane (m : Mask) : Nat := (lanesOf m).headD 0

/-- How an instruction reads an operand, for negation and immediates (R43, R44). -/
inductive As where
  | int
  | bits
  | fp (ty : Nat)
deriving DecidableEq, Repr

/-- The source lane of a pattern (R48). -/
def patLane (p : Pat) (k i : Nat) : Nat :=
  match p with
  | .ident | .res6 | .res7 => i
  | .rot => (i + k) % 32
  | .bcast => k
  | .bfly => i ^^^ k
  | .mir => 31 - i
  | .fold => i ^^^ (2 ^ (k + 1) - 1)

/-- Bits from one element of a type to the next in a register (R155). -/
def tySlot (ty : Nat) : Nat := if tyBits ty = 6 then 8 else tyBits ty

/-- The sign bit of each element inverted (R44). -/
def negFp (ty x : Nat) : Nat :=
  if 32 ≤ tyBits ty then x ^^^ 2 ^ (tyBits ty - 1)
  else (List.range (tyElems ty)).foldl (fun x k => x ^^^ 2 ^ (tySlot ty * k + tyBits ty - 1)) x

/-- The effect of the negate bit at width w (R44). -/
def negate (how : As) (w x : Nat) : Nat :=
  match how with
  | .int => (2 ^ w - x % 2 ^ w) % 2 ^ w
  | .bits => 2 ^ w - 1 - x % 2 ^ w
  | .fp ty => negFp ty x

/-- A signed immediate at width w, or converted exactly to a floating type, into both halves of a 16-bit
one (R43). -/
def immediate (how : As) (w : Nat) (i : Int) : Nat :=
  match how with
  | .fp ty =>
    let e := ((FVal.ofInt i).round (fmtOf ty) 0 false false).1
    if tyBits ty = 16 then e + 2 ^ 16 * e else e
  | _ => (i % (2 ^ w : Nat)).toNat

/-- Rows allocated (R231 ALLOC). -/
def Group.alloc (g : Group) : Nat := g.phys.length

/-- The allocation row that holds window register i (R267). -/
def Group.row (g : Group) (i : Nat) : Nat := (g.winBase + i) % g.alloc

/-- A predicate's mask; p0 reads as all ones (DEDUCED, log 24). -/
def Group.pred (g : Group) (i : Nat) : Mask := if i = 0 then 0xFFFF_FFFF else g.p.get 0 i

def Group.split (g : Group) (sid : Nat) : Split := g.splits.get {} sid
def Group.setSplit (g : Group) (sid : Nat) (x : Split) : Group := { g with splits := g.splits.put sid x }
def Group.port (g : Group) (i : Nat) : Port := g.ports.get {} i
def Group.gReg (g : Group) (i : Nat) : DWord := g.g.get 0 i

/-- Which port elements an instruction sees: port, lane; the low word, and the open high word of a 64-bit
read (DESIGN CHOICE, log 5). -/
structure PortView where
  low : Nat → Nat → Word
  high : Nat → Nat → Word
  /-- the registers as a lane sees them behind a pattern. -/
  seen : Group → Nat → Group := fun g _ => g

/-- A source field in a lane, before negation. -/
def rawSrc (g : Group) (pv : PortView) (lit : Option (BitVec 64)) (how : As) (wide : Bool) (s : Src)
    (lane : Nat) : Nat :=
  let w := if wide then 64 else 32
  let i := s.idx.toNat
  let j := patLane s.pat s.param.toNat lane
  match s.cls with
  | .v =>
    let lo := (g.rows.get 0 (g.row i * 32 + j)).toNat
    if wide then lo + 2 ^ 32 * (g.rows.get 0 (g.row (i + 1) * 32 + j)).toNat else lo
  | .o =>
    let lo := (g.o.get 0 (i * 32 + j)).toNat
    if wide then lo + 2 ^ 32 * (g.o.get 0 ((i + 1) * 32 + j)).toNat else lo
  | .l => (g.l.get 0 (i * 32 + j)).toNat
  | .g => (g.gReg i).toNat % 2 ^ w
  | .p => if Mask.has (g.pred i) j != s.neg then 1 else 0
  | .port =>
    if i = 4 then 0
    else (pv.low i lane).toNat + (if wide then 2 ^ 32 * (pv.high i lane).toNat else 0)
  | .imm => immediate how w s.idx.toInt
  | .lit => (lit.getD 0).toNat % 2 ^ w

/-- A source field in a lane (R40 to R44, R48, R49). -/
def readSrc (g : Group) (pv : PortView) (lit : Option (BitVec 64)) (how : As) (wide : Bool) (s : Src)
    (lane : Nat) : Nat :=
  let g := if s.pat = .ident then g else pv.seen g lane
  let x := rawSrc g pv lit how wide s lane
  if s.neg && s.cls ≠ .p then negate how (if wide then 64 else 32) x else x

/-- Nothing on any port. -/
def noPorts : PortView := { low := fun _ _ => 0, high := fun _ _ => 0 }

/-- A uniform source (classes 3, 6, 7). -/
def readUni (g : Group) (lit : Option (BitVec 64)) (how : As) (wide : Bool) (s : Src) : Nat :=
  readSrc g noPorts lit how wide s 0

/-- Register keys: allocation rows from 0, o from 1,024, l from 1,040, g from 1,100, p from 1,200. -/
def keyO (i : Nat) : Nat := 1024 + i
def keyL (i : Nat) : Nat := 1040 + i
def keyG (i : Nat) : Nat := 1100 + i
def keyP (i : Nat) : Nat := 1200 + i
/-- Out ports are keys too, 1,240 up, so that a push waits for an earlier scoreboarded push (R46, R57). -/
def keyPort (i : Nat) : Nat := 1240 + i
/-- The key of an out port. -/
def portKeys (i : Nat) : List Nat := if i = 2 || i = 3 then [keyPort i] else []

/-- The register keys a class and index name. -/
def clsKeys (g : Group) (c : Cls) (i : Nat) (wide : Bool) : List Nat :=
  match c with
  | .v => if wide then [g.row i, g.row (i + 1)] else [g.row i]
  | .o => if wide then [keyO i, keyO (i + 1)] else [keyO i]
  | .l => [keyL i]
  | .g => [keyG i]
  | .p => if i = 0 then [] else [keyP i]
  | .port => portKeys i
  | .imm | .lit => []

/-- The keys a target names. -/
def Target.keys : Target → List Nat
  | .none => []
  | .port i => portKeys i
  | .v r _ _ => [r]
  | .vPair r r2 .. => [r, r2]
  | .o i wide => if wide then [keyO i, keyO (i + 1)] else [keyO i]
  | .g i => [keyG i]
  | .p i => if i = 0 then [] else [keyP i]

/-- The target a destination field names: class v by allocation row, physical row and generation at
issue (R270). -/
def targetOf (g : Group) (gens : Tab Nat) (d : Dst) (wide : Bool) : Target :=
  let i := d.idx.toNat
  match d.cls with
  | .v =>
    let r := g.row i
    let ph := g.phys.getD r 0
    if wide then
      let r2 := g.row (i + 1)
      let ph2 := g.phys.getD r2 0
      .vPair r r2 ph ph2 (gens.get 0 ph) (gens.get 0 ph2)
    else .v r ph (gens.get 0 ph)
  | .o => .o i wide
  | .g => .g i
  | .p => .p i
  | .port => .port i
  | .l | .imm | .lit => .none

/-- The current value of a target in a lane. -/
def readTarget (g : Group) (t : Target) (lane : Nat) : DWord :=
  match t with
  | .none | .port _ => 0
  | .v r _ _ => (g.rows.get 0 (r * 32 + lane)).setWidth 64
  | .vPair r r2 .. => (g.rows.get 0 (r2 * 32 + lane)) ++ (g.rows.get 0 (r * 32 + lane))
  | .o i wide =>
    if wide then (g.o.get 0 ((i + 1) * 32 + lane)) ++ (g.o.get 0 (i * 32 + lane))
    else (g.o.get 0 (i * 32 + lane)).setWidth 64
  | .g i => g.gReg i
  | .p i => if Mask.has (g.pred i) lane then 1 else 0

/-- A target written in one lane. A predicate takes 1 from a non-zero pattern; p0 ignores writes (R45). -/
def writeTarget (g : Group) (t : Target) (lane : Nat) (v : DWord) : Group :=
  let lo : Word := v.extractLsb 31 0
  let hi : Word := v.extractLsb 63 32
  match t with
  | .none | .port _ => g
  | .v r _ _ => { g with rows := g.rows.set 0 (r * 32 + lane) lo }
  | .vPair r r2 .. =>
    { g with rows := (g.rows.set 0 (r * 32 + lane) lo).set 0 (r2 * 32 + lane) hi }
  | .o i wide =>
    if wide then { g with o := (g.o.set 0 (i * 32 + lane) lo).set 0 ((i + 1) * 32 + lane) hi }
    else { g with o := g.o.set 0 (i * 32 + lane) lo }
  | .g i => { g with g := g.g.set 0 i v }
  | .p i =>
    if i = 0 then g
    else
      let m := g.p.get 0 i
      let b : Mask := 1#32 <<< lane
      { g with p := g.p.set 0 i (if v = 0 then m &&& ~~~b else m ||| b) }

/-- A target written in several lanes; a g register takes the first value. -/
def writeLanes (g : Group) (t : Target) (vals : List (Nat × DWord)) : Group :=
  match t with
  | .g i => match vals with
    | [] => g
    | (_, v) :: _ => { g with g := g.g.set 0 i v }
  | _ => vals.foldl (fun g (l, v) => writeTarget g t l v) g

/-- The latches shifted in some lanes by bits 31:0 of the results (R47). -/
def shiftLatches (g : Group) (vals : List (Nat × DWord)) : Group :=
  let shift (t : Tab Word) (e : Nat × DWord) : Tab Word :=
    (t.set 0 (32 + e.1) (t.get 0 e.1)).set 0 e.1 (e.2.extractLsb 31 0)
  { g with l := vals.foldl shift g.l }

/-- The uniform value of a list of results spread over the effective lanes. -/
def spread (eff : Mask) (v : DWord) : List (Nat × DWord) := (lanesOf eff).map (fun i => (i, v))

/-- A source field of walker code at the width of its type (R114): a w register, an immediate, the literal,
a predicate. -/
def walkSrc (k : Walker) (lit : Option (BitVec 64)) (how : As) (wide : Bool) (s : Src) : Nat :=
  let w := if wide then 64 else 32
  let x : Nat :=
    match s.cls with
    | .v => (k.w.get 0 s.idx.toNat).toNat % 2 ^ w
    | .p => if (s.idx = 0 || k.p.getLsbD s.idx.toNat) != s.neg then 1 else 0
    | .imm => immediate how w s.idx.toInt
    | .lit => (lit.getD 0).toNat % 2 ^ w
    | .o | .l | .g | .port => 0
  if s.neg && s.cls ≠ .p then negate how w x else x

/-- A destination of walker code: a whole w register, or a predicate (R114, R45). -/
def walkWrite (k : Walker) (d : Dst) (v : DWord) : Walker :=
  match d.cls with
  | .v => { k with w := k.w.set 0 d.idx.toNat v }
  | .p =>
    let b : BitVec 8 := 1#8 <<< d.idx.toNat
    if d.idx = 0 then k else { k with p := if v = 0 then k.p &&& ~~~b else k.p ||| b }
  | _ => k

/-- A 32-bit result at the width of its register: sign-extended for an i type, zero-extended otherwise
(R113, R114). DEDUCED, log 40. -/
def extend32 (isSigned : Bool) (x : Nat) : DWord :=
  if isSigned then (BitVec.ofNat 32 x).signExtend 64 else (BitVec.ofNat 32 x).setWidth 64

end Sys2Proof.Machine
end

