-- ==== Sys2Proof/Machine/Windows.lean ====
section
/-! DEFINITION. Physical windows, their DRAM and their home slices (R16 to R18, R25, R26, R333 to R336). -/

namespace Sys2Proof.Machine

/-- First addresses of the windows (R25). -/
def blBase : Nat := 0x0100_0000_0000
def capBase : Nat := 0x0200_0000_0000
def ctlBase : Nat := 0x0400_0000_0000

/-- C, the number of live pseudo-channels (R333). -/
def State.live (s : State) : Nat := 1024 - s.retired.length

/-- Entry lc of the live-channel list, as stack × 128 + pseudo-channel (R333). -/
def State.channel (s : State) (lc : Nat) : Nat :=
  if s.retired.isEmpty then lc % 8 * 128 + lc / 8
  else
    (((List.range 1024).map (fun c => c % 8 * 128 + c / 8)).filter
      (fun c => !s.retired.contains c)).getD lc 0

/-- Bytes of the capacity tier (R3, R18): 16 channels fill the window. -/
def State.capBytes (s : State) : Nat := s.populated * 0x20_0000_0000

/-- Whether a physical address lies in a window (R25, R26): 0 interleaved, 1 bank-linear, 2 capacity,
3 control space. -/
def State.window (s : State) (pa : Nat) : Option Nat :=
  if pa < s.live * 0x2000_0000 then some 0
  else if blBase ≤ pa && pa < blBase + 0x80_0000_0000 then some 1
  else if capBase ≤ pa && pa < capBase + s.capBytes then some 2
  else if ctlBase ≤ pa && pa < ctlBase + 0x100_0000_0000 then some 3
  else none

/-- The capacity-tier channel that holds page p of the window, with P channels populated, and the page's slot in it (R18).
Channel m is controlled from die m div 8 (R16). -/
def capChannel (populated p : Nat) : Nat := 8 * (p % 32 / 16) + p % 16 * (populated / 2) / 16
def capSlot (populated p : Nat) : Nat := p / 32 * (32 / populated) + p % 16 % (32 / populated)

/-- Where the bytes of a physical address are kept: the bank-linear address of an HBM byte (R334, R336); for a capacity
byte its place in its channel's 128 GiB, the channels one after another (R18). -/
def State.dram (s : State) (pa : Nat) : Nat :=
  if pa < blBase then
    let g := pa / 256
    let ch := s.channel (g % s.live)
    let q := g / s.live
    let row := q / 128
    let bank := q / 32 % 4
    let grp := q / 8 % 4
    blBase + ch * 2 ^ 29 + grp * 2 ^ 27 + bank * 2 ^ 25 + row * 2 ^ 11 + 256 * (q % 8) + pa % 256
  else if pa < capBase then pa
  else
    let p := (pa - capBase) / 65536
    capBase + capChannel s.populated p * 2 ^ 37 + capSlot s.populated p * 65536 + pa % 65536

/-- The home slice of a physical address (R17, R18). -/
def State.home (s : State) (pa : Nat) : Nat :=
  if capBase ≤ pa then (pa - capBase) / 65536 % 32
  else
    let d := s.dram pa - blBase
    d / 2 ^ 36 % 8 * 4 + d / 2 ^ 29 % 128 / 32

/-- The stack of a bank-linear physical address (R336). -/
def stackOf (pa : Nat) : Nat := (pa - blBase) / 2 ^ 36 % 8

end Sys2Proof.Machine
end

