-- ==== Sys2Proof/Machine/Links.lean ====
section
/-! DEFINITION. The fabric's links and packets: what a packet carries, its length and channel, and the ports it passes
(R21, R23, R294 to R296, R301). -/

namespace Sys2Proof.Machine

/-! ### Packets -/

/-- Data bytes of a packet (R295): a read request and a write acknowledgement carry none. -/
def Cargo.payload : Cargo → Nat
  | .readRequest _ | .writeAck | .line _ => 0
  | .readReply n | .write n | .atomic n | .atomicReply n | .lineReply n | .memory n | .message n | .migration n
  | .system n => n

/-- A packet is one header flit and its data flits of 64 bytes (R295). -/
def Cargo.flits (x : Cargo) : Nat := 1 + (x.payload + 63) / 64

/-- The virtual channel that carries a packet (R296). -/
def Cargo.chan : Cargo → Nat
  | .readRequest n | .readReply n => if n ≤ 64 then 0 else 1
  | .atomic _ | .atomicReply _ => 0
  | .write _ | .writeAck | .line _ | .lineReply _ | .memory _ => 1
  | .message _ => 2
  | .migration _ | .system _ => 3

/-- The packet a slice sends back when one has reached it (R295); messages are answered by their own rules. -/
def Cargo.answer : Cargo → Option Cargo
  | .readRequest n => some (.readReply n)
  | .write _ => some .writeAck
  | .atomic n => some (.atomicReply n)
  | .line n => some (.lineReply n)
  | _ => none

/-! ### Ports and paths (R21, R23, R294)

Ports, by number: 0 to 31 the clusters' injection ports, 32 to 63 the slices'; 64 to 127 the request butterflies' switch
outputs and 128 to 191 the reply butterflies' (32 a die, 16 a stage, 4 a switch); 192 to 231 the bridge links, 20 in each
direction; 232 to 247 the ring stops', two a stack. DESIGN CHOICE, log 19. -/

/-- An output of a butterfly: `base` 64 or 128, die, stage, switch, output. -/
def stagePort (base die stage switch out : Nat) : Nat := base + 32 * die + 16 * stage + 4 * switch + out

/-- The bridge link between a cluster and a slice, toward a die. -/
def bridgePort (die cluster slice : Nat) : Nat := 192 + 20 * die + (cluster + slice) % 20

/-- The ports a packet passes from a cluster to a slice, and back: the same path in reverse. -/
def pathUp (cluster slice : Nat) : List Nat :=
  let d := slice / 16
  [cluster] ++ (if cluster / 16 = d then [] else [bridgePort d cluster slice]) ++
    [stagePort 64 d 0 (cluster % 16 / 4) (slice % 16 / 4), stagePort 64 d 1 (slice % 16 / 4) (slice % 4)]

def pathDown (cluster slice : Nat) : List Nat :=
  let d := slice / 16
  [32 + slice, stagePort 128 d 0 (slice % 16 / 4) (cluster % 16 / 4), stagePort 128 d 1 (cluster % 16 / 4) (cluster % 4)] ++
    (if cluster / 16 = d then [] else [bridgePort (cluster / 16) cluster slice])

/-- The ring takes the direction with fewer stops, the ascending one on a tie (R23). -/
def ringUp (source target : Nat) : Bool := (target + 8 - source) % 8 ≤ 4

/-- The stack after one in a direction; the links 3 to 4 and 7 to 0 cross the bridge (R23). -/
def ringNext (up : Bool) (stack : Nat) : Nat := (if up then stack + 1 else stack + 7) % 8
def ringCrosses (a b : Nat) : Bool := a / 4 ≠ b / 4

/-- The slice whose stack port is a stack's stop on the ring (R23). -/
def ringStop (stack : Nat) : Nat := 4 * stack

/-- The stops whose output ports a message passes, from a stack to another. -/
def ringStops (up : Bool) : Nat → Nat → Nat → List Nat
  | 0, _, _ => []
  | n + 1, k, target => if k = target then [] else k :: ringStops up n (ringNext up k) target

def pathRing (source target : Nat) : List Nat :=
  let up := ringUp source target
  (ringStops up 8 source target).map (fun k => 232 + 2 * k + if up then 1 else 0)

/-! ### Sending -/

def State.fabric (s : State) (p : Nat) : FabricPort := s.ports.get {} p
def State.setFabric (s : State) (p : Nat) (f : FabricPort) : State := { s with ports := s.ports.put p f }

/-- The output ports that share their inputs: the four of a butterfly's switch, the two of a ring stop (R21, R23, R297). -/
def sameSwitch (port : Nat) : List Nat :=
  if 64 ≤ port && port < 192 then (List.range 4).map (port / 4 * 4 + ·)
  else if 232 ≤ port then [port / 2 * 2, port / 2 * 2 + 1] else [port]

/-- The latest arrival number of the packets that wait at a switch from one input. -/
def State.lastOrder (s : State) (port input : Nat) : Nat :=
  (sameSwitch port).foldl (fun n q =>
    (s.fabric q).packets.foldl (fun n p => if p.input = input then max n p.order else n) n) 0

/-- A packet joins a port, last of those that wait there and of its input (R297). -/
def State.joinPort (s : State) (port : Nat) (p : Packet) : State :=
  let f := s.fabric port
  let q := { p with lost := 0, promoted := none, order := s.lastOrder port p.input + 1 }
  s.setFabric port { f with packets := f.packets ++ [q] }

/-- Flits waiting at a port on a channel. -/
def State.waitingFlits (s : State) (port chan : Nat) : Nat :=
  (s.fabric port).packets.foldl (fun n p => if p.chan = chan then n + p.flits else n) 0

/-- A packet of an agent enters a port. The buffer of a cluster's injection port holds 16 flits a channel; a packet that does
not fit waits with its agent, in order (R296, R300). -/
def State.enterPort (s : State) (port : Nat) (p : Packet) : State :=
  let f := s.fabric port
  if port < 32 && (f.backlog.any (fun q => q.chan = p.chan) || 16 < s.waitingFlits port p.chan + p.flits) then
    s.setFabric port { f with backlog := f.backlog ++ [p] }
  else s.joinPort port p

/-- The packets that wait with their agents enter a port as far as they fit. -/
def State.refill (s : State) (port : Nat) : State :=
  let f := s.fabric port
  f.backlog.foldl (fun s p => s.enterPort port p) (s.setFabric port { f with backlog := [] })

/-- A packet starts on a path; inputs from 1,000 on are not links of the fabric (R295, R296). `owner`: the XCHG request
that it carries (R301). -/
def State.post (s : State) (x : Cargo) (cluster slice source : Nat) (path : List Nat) (owner : Option Nat := none) : State :=
  match path with
  | [] => s
  | port :: rest =>
    if x.flits ≤ 5 then
      s.enterPort port { input := 1000 + source, chan := x.chan, flits := x.flits, route := rest, cargo := x,
                         cluster := cluster, slice := slice, owner := owner }
    else s

/-- A packet of a core to the home slice of a physical address (R21, R294). -/
def State.sendHome (s : State) (x : Cargo) (core pa : Nat) : State :=
  if core < 128 then s.post x (core / 4) (s.home pa) (core % 4) (pathUp (core / 4) (s.home pa)) else s

/-- An XCHG request is still on its way to its slice (R301). -/
def State.onTheWay (s : State) (request : Nat) : Bool :=
  s.ports.any (fun e => (e.2.packets ++ e.2.backlog).any (fun p => p.owner = some request))

/-- A sending of an agent (R294, R295): an L1 fill is one read request of 64 bytes for each aligned pair of sectors; the
ring carries only channels 2 and 3 (R296). -/
def State.sendPacket (s : State) (x : Sending) : State :=
  match x with
  | .fill core pa => s.sendHome (.readRequest 64) core pa
  | .up cargo c k => if c < 32 && k < 32 then s.post cargo c k 0 (pathUp c k) else s
  | .down cargo c k => if c < 32 && k < 32 then s.post cargo c k 0 (pathDown c k) else s
  | .ring cargo a b => if a < 8 && b < 8 && 2 ≤ cargo.chan then s.post cargo 0 (ringStop b) 0 (pathRing a b) else s

/-- A channel's buffer of 16 flits at a cluster's injection port has no room for one more (R296, R310). -/
def State.linkFull (s : State) (cluster chan : Nat) : Bool := 16 ≤ s.waitingFlits cluster chan

end Sys2Proof.Machine
end

