-- ==== Sys2Proof/Machine/Memory.lean ====
section
/-! DEFINITION. DRAM sectors, the ECC checker (R366 to
R368), slices and L1s (R54, R280, R281), translation (R337 to R340), and the scratchpad (R160, R161). -/

namespace Sys2Proof.Machine

/-- A sector's 32 bytes in DRAM, by DRAM address ÷ 32. -/
def dramSector (m : Memory) (k : Nat) : BitVec 256 :=
  (List.range 32).foldl
    (fun x i => x ||| ((m.byte (k * 32 + i)).setWidth 256 <<< (8 * i))) 0

/-- DRAM with a sector replaced. -/
def setDramSector (m : Memory) (k : Nat) (x : BitVec 256) : Memory :=
  (List.range 32).foldl (fun m i => m.setByte (k * 32 + i) ((x >>> (8 * i)).setWidth 8)) m

/-- A list without a number. -/
def without (l : List Nat) (k : Nat) : List Nat := l.filter (· ≠ k)

/-- The key of the bank error register of a DRAM sector: stack × 2,048 + unit × 32 + b (R368). -/
def bankKey (k : Nat) : Nat :=
  let d := k * 32 - blBase
  let stack := d / 2 ^ 36 % 8
  let pc := d / 2 ^ 29 % 128
  let grp := d / 2 ^ 27 % 4
  let bank := d / 2 ^ 25 % 4
  stack * 2048 + pc / 2 * 32 + pc % 2 * 16 + 4 * grp + bank

/-- An error recorded in a bank error register (R368). -/
def recordError (old : DWord) (b row col : Nat) (lasting : Bool) : DWord :=
  let inc (hi lo : Nat) : Nat := min 255 (bits hi lo old + 1)
  let lcnt := if lasting then inc 55 48 else bits 55 48 old
  let tcnt := if lasting then bits 47 40 old else inc 47 40
  let lv := lasting || bit 63 old
  let tv := !lasting || bit 62 old
  let keep := !lasting && bit 63 old
  let row' := if keep then bits 39 26 old else row
  let col' := if keep then bits 25 20 old else col
  let lk := if keep then bit 19 old else lasting
  let n (x : Bool) : Nat := if x then 1 else 0
  BitVec.ofNat 64 (n lv * 2 ^ 63 + n tv * 2 ^ 62 + lcnt * 2 ^ 48 + tcnt * 2 ^ 40 + row' * 2 ^ 26 +
    col' * 2 ^ 20 + n lk * 2 ^ 19 + b)

/-- The state with an error of a DRAM sector recorded, when the sector is in a stack (R366). -/
def State.logError (s : State) (k : Nat) (lasting : Bool) : State :=
  if k * 32 < blBase || capBase ≤ k * 32 then s
  else
    let key := bankKey k
    let off := (k * 32 - blBase) % 2 ^ 25
    let b := key % 32
    let old := s.bankErr.get (BitVec.ofNat 64 b) key
    let sel := key / 2048 * 8 + (if lasting then 7 else 6)
    let retry := key / 2048 * 8 + 1
    { s with
      bankErr := s.bankErr.put key (recordError old b (off / 2048) (off % 2048 / 32) lasting),
      baseDie := (s.baseDie.set 0 sel (s.baseDie.get 0 sel + 1)).set 0 retry
        (s.baseDie.get 0 retry + 1) }

/-- A read of a DRAM sector through the ECC checker (R366): the state, whether the data are poison, and
whether this read found a new lasting error. -/
def State.eccRead (s : State) (k : Nat) : State × Bool × Bool :=
  if s.poison.contains k then (s, true, false)
  else
    match s.ecc.find? (fun e => e.1 = k) with
    | none => (s, false, false)
    | some (_, lasting) =>
      let s := { s.logError k lasting with ecc := s.ecc.filter (fun e => e.1 ≠ k) }
      if lasting then ({ s with poison := k :: s.poison }, true, true) else (s, false, false)

/-- A sector of DRAM written whole, with its poison mark (R374). -/
def State.writeDram (s : State) (k : Nat) (x : BitVec 256) (poison : Bool) : State :=
  { s with
    mem := setDramSector s.mem k x,
    poison := if poison then k :: without s.poison k else without s.poison k,
    ecc := s.ecc.filter (fun e => e.1 ≠ k) }

/-- A slice sector written back to DRAM when dirty, and dropped or kept clean. -/
def State.sliceClean (s : State) (sec : Nat) (drop : Bool) : State :=
  match s.slice.look sec with
  | none => s
  | some x =>
    let s := if x.dirty then s.writeDram (s.dram (sec * 32) / 32) x.data x.poison else s
    { s with slice := if drop then s.slice.del sec else s.slice.put sec { x with dirty := false } }

/-- The sectors of the 128-byte line a sector lies in. -/
def lineOf (sec : Nat) : List Nat := (List.range 4).map (fun i => sec / 4 * 4 + i)

/-! ### The room of a cache (R19, R21, R54) -/

/-- More than `ways` lines are cached. -/
def manyLines (ways : Nat) : List Nat → List Nat → Bool
  | [], _ => false
  | k :: ks, seen =>
    if seen.contains (k / 4) then manyLines ways ks seen
    else seen.length = ways || manyLines ways ks (k / 4 :: seen)

/-- A cached line's tag and mark. -/
def lineMark (t : Tab Sector) (line : Nat) : Nat × Nat :=
  match t.find? (fun e => e.1 / 4 = line) with
  | some e => (e.2.tag, e.2.mark)
  | none => (0, 0)

/-- The lines of a full set that may be replaced for line n (R54): those marked evict; else any, but in a slice those
marked keep only after every other. None while the set holds no more than its ways. -/
def replaceable (keeps : Bool) (ways : Nat) (setOf : Nat → Nat) (t : Tab Sector) (n : Nat) : List Nat :=
  if !manyLines ways t.keys [] then []
  else
    let l := ((t.keys.map (· / 4)).filter (fun k => setOf k = setOf n)).eraseDups
    if l.length ≤ ways then []
    else
      let c := l.filter (· ≠ n)
      let first := c.filter (fun k => (lineMark t k).2 = 1)
      let second := c.filter (fun k => (lineMark t k).2 ≠ 2)
      if !first.isEmpty then first else if keeps && !second.isEmpty then second else c

/-- The set of a line in its home slice, one of 3,072 of 16 ways; and in an L1, one of 256 of 8 ways. DESIGN CHOICE, log 10. -/
def State.sliceSetOf (s : State) (line : Nat) : Nat := s.home (128 * line) * 3072 + Config.sliceSet line % 3072
def l1SetOf (line : Nat) : Nat := Config.l1Set line % 256

/-- The line that goes, when one must. -/
def victimOf (l : List Nat) (n : Nat) : Option Nat := l[Config.victim n % max 1 l.length]?

/-- A slice's set brought back to its ways after line `sec / 4` came in. -/
def State.trimSlice (s : State) (sec : Nat) : State :=
  match victimOf (replaceable true 16 s.sliceSetOf s.slice (sec / 4)) s.fresh with
  | none => s
  | some v => (lineOf (4 * v)).foldl (fun s k => s.sliceClean k true) { s with fresh := s.fresh + 1 }

/-- A sector put into its home slice, its line marked when it is new (R54). -/
def State.slicePut (s : State) (sec mark : Nat) (x : Sector) : State :=
  let old := s.slice.any (fun e => e.1 / 4 = sec / 4)
  let m := if old then (lineMark s.slice (sec / 4)).2 else mark
  { s with slice := s.slice.put sec { x with mark := m } }.trimSlice sec

/-- A sector as its home slice holds it, filled from DRAM when it is not cached (R280, R366); and whether a
new lasting error was found. Sectors are named by physical address ÷ 32. -/
def State.homeRead (s : State) (sec : Nat) (mark : Nat := 0) : State × Sector × Bool :=
  match s.slice.look sec with
  | some x => (s, x, false)
  | none =>
    let k := s.dram (sec * 32) / 32
    let (s, poison, new) := s.eccRead k
    let x : Sector := { data := dramSector s.mem k, poison := poison }
    (s.slicePut sec mark x, x, new)

/-- The bytes of a sector as its home would serve them, with no effect. -/
def State.peekSector (s : State) (sec : Nat) : BitVec 256 :=
  match s.slice.look sec with
  | some x => x.data
  | none => dramSector s.mem (s.dram (sec * 32) / 32)

/-- A sector that its home reads from DRAM for a walk or a controller passes the ECC checker: an error is recorded, a lasting one
marked (R366, R367). Its stored bits are used. DESIGN CHOICE, log 108. -/
def State.checkSector (s : State) (sec : Nat) : State :=
  if (s.slice.look sec).isSome then s else (s.eccRead (s.dram (sec * 32) / 32)).1

/-- The same of some bytes. -/
def State.checkBytes (s : State) (pa n : Nat) : State :=
  (List.range ((pa % 32 + n + 31) / 32)).foldl (fun s i => s.checkSector (pa / 32 + i)) s

/-- A mask of n bytes from byte o of a sector. -/
def byteMask (o n : Nat) : BitVec 256 := ((BitVec.allOnes 256) >>> (256 - 8 * n)) <<< (8 * o)

/-- The bytes a mask names. -/
def maskBytes (m : BitVec 256) : Nat := ((List.range 32).filter (fun i => m.getLsbD (8 * i))).length

/-- Old data with the masked bits replaced. -/
def blend (mask new old : BitVec 256) : BitVec 256 := (new &&& mask) ||| (old &&& ~~~mask)

/-- A whole sector written at the home slice with a poison mark. -/
def State.homePut (s : State) (sec : Nat) (data : BitVec 256) (poison : Bool) (mark : Nat := 0) : State :=
  s.slicePut sec mark { data := data, dirty := true, poison := poison }

/-- A write at the home slice: whole sectors clear the poison mark, others keep it (R374). -/
def State.homeWrite (s : State) (sec : Nat) (mask data : BitVec 256) (mark : Nat := 0) : State :=
  if mask = BitVec.allOnes 256 then s.homePut sec data false mark
  else
    let (s, x, _) := s.homeRead sec mark
    s.homePut sec (blend mask data x.data) x.poison mark

def State.core (s : State) (c : Nat) : Core := s.cores.get {} c
def State.setCore (s : State) (c : Nat) (x : Core) : State := { s with cores := s.cores.put c x }

/-- A core's L1 sector. -/
def State.l1Look (s : State) (c sec : Nat) : Option Sector := (s.core c).l1.look sec

/-- A line's scope tag and mark given to its sectors: one tag a line (R19, R280). -/
def retag (line tag mark : Nat) (t : Tab Sector) : Tab Sector :=
  t.map (fun e => if e.1 / 4 = line then (e.1, { e.2 with tag := tag, mark := mark }) else e)

/-- A sector put into an L1; its line takes the sector's tag and mark. -/
def State.l1Put (s : State) (c sec : Nat) (x : Sector) : State :=
  s.setCore c { s.core c with l1 := retag (sec / 4) x.tag x.mark ((s.core c).l1.put sec x) }
def State.l1Drop (s : State) (c sec : Nat) : State :=
  s.setCore c { s.core c with l1 := (s.core c).l1.del sec }

/-- A dirty L1 sector written back whole to its home; the sector stays, clean (R281). -/
def State.l1Writeback (s : State) (c sec : Nat) : State :=
  match s.l1Look c sec with
  | some x =>
    if x.dirty then
      ((s.sendHome (.write 32) c (32 * sec)).homePut sec x.data x.poison).l1Put c sec { x with dirty := false }
    else s
  | none => s

/-- An L1 sector written back when dirty, and removed. -/
def State.l1Flush (s : State) (c sec : Nat) : State := (s.l1Writeback c sec).l1Drop c sec

/-- An L1's set brought back to its ways after line `sec / 4` came in (R281). -/
def State.trimL1 (s : State) (c sec : Nat) : State :=
  match victimOf (replaceable false 8 l1SetOf (s.core c).l1 (sec / 4)) s.fresh with
  | none => s
  | some v => (lineOf (4 * v)).foldl (fun s k => s.l1Flush c k) { s with fresh := s.fresh + 1 }

/-- Every dirty sector of a core's L1 written back (R283, R293). -/
def State.l1WritebackAll (s : State) (c : Nat) : State :=
  (s.core c).l1.keys.foldl (fun s k => s.l1Writeback c k) s

/-- Every clean sector of a core's L1 invalidated (R284, R293, R316), and with them the instruction cache (DESIGN CHOICE,
log 11). -/
def State.l1InvalidateClean (s : State) (c : Nat) : State :=
  s.setCore c { s.core c with l1 := (s.core c).l1.filter (fun e => e.2.dirty), icache := [] }

/-- One L1 sector filled from its home, clean, unless valid (R280). -/
def State.l1Fill (s : State) (c sec : Nat) (mark : Nat := 0) : State × Bool :=
  match s.l1Look c sec with
  | some _ => (s, false)
  | none =>
    let (s, x, new) := s.homeRead sec mark
    let l := (s.core c).l1
    let (tag, m) := if l.any (fun e => e.1 / 4 = sec / 4) then lineMark l (sec / 4) else (0, mark)
    ((s.l1Put c sec { data := x.data, poison := x.poison, tag := tag, mark := m }).trimL1 c sec, new)

/-- A sector read through the L1 under a policy (R54, R280): nol1 serves a dirty sector from L1 and reads the
home otherwise; the others fill the aligned 64-byte pair. Answers the sector and whether the read found a
new lasting error in it. -/
def State.l1Read (s : State) (c sec policy : Nat) : State × Sector × Bool :=
  if policy = 3 then
    match s.l1Look c sec with
    | some x => if x.dirty then (s, x, false) else (s.sendHome (.readRequest 32) c (32 * sec)).homeRead sec
    | none => (s.sendHome (.readRequest 32) c (32 * sec)).homeRead sec
  else
    match s.l1Look c sec with
    | some x => (s, x, false)
    | none =>
      let (s, new) := (s.sendPacket (.fill c (32 * sec))).l1Fill c sec policy
      let (s, _) := s.l1Fill c (sec / 2 * 2 + (1 - sec % 2)) policy
      (s, (s.l1Look c sec).getD {}, new)

/-- The other sector of a 64-byte pair. -/
def pairOf (sec : Nat) : Nat := sec / 2 * 2 + (1 - sec % 2)

/-- Between two states the other sector of a pair has been found to hold a lasting error. -/
def State.pairFailed (s t : State) (sec : Nat) : Bool :=
  let k := s.dram (pairOf sec * 32) / 32
  !s.poison.contains k && t.poison.contains k

/-- Whether any sector of the line is valid in a core's L1. -/
def State.linePresent (s : State) (c sec : Nat) : Bool :=
  (lineOf sec).any (fun k => (s.l1Look c k).isSome)

/-- The policy under which a slice or an L1 allocates: nol1 allocates as norm in the slice (R54). -/
def markOf (policy : Nat) : Nat := if policy = 3 then 0 else policy

/-- A store to a sector through the L1 (R166, R280). -/
def State.l1Write (s : State) (c sec scope policy : Nat) (mask data : BitVec 256) : State :=
  let update (s : State) (dirty : Bool) : State :=
    match s.l1Look c sec with
    | some x =>
      let poison := x.poison && mask ≠ BitVec.allOnes 256
      s.l1Put c sec { x with data := blend mask data x.data, poison := poison,
                             dirty := dirty, tag := scope }
    | none => s
  if scope = 0 then
    if policy = 3 && !s.linePresent c sec then
      (s.sendHome (.write (maskBytes mask)) c (32 * sec)).homeWrite sec mask data
    else if (s.l1Look c sec).isSome then update s true
    else update ((s.sendPacket (.fill c (32 * sec))).l1Fill c sec (markOf policy)).1 true
  else
    let s := s.sendHome (.write (maskBytes mask)) c (32 * sec)
    let s := ((lineOf sec).filter (· ≠ sec)).foldl (fun s k => s.l1Writeback c k) s
    let s := match s.l1Look c sec with
      | some x => if x.dirty then s.homePut sec x.data x.poison else s
      | none => s
    let s := update (s.homeWrite sec mask data (markOf policy)) false
    match (lineOf sec).find? (fun k => (s.l1Look c k).isSome) with
    | some k => s.l1Put c k { (s.l1Look c k).getD {} with tag := scope }
    | none => s

/-- A sector read as the copy engine reads (R182): from the issuing core's L1 when the line's sector is there,
else from the home; never allocating in L1. -/
def State.copyRead (s : State) (c sec : Nat) (mark : Nat := 0) : State × Sector × Bool :=
  match s.l1Look c sec with
  | some x => (s, x, false)
  | none => s.homeRead sec mark

/-- A whole sector written as the copy engine writes (R182): at the home, the issuing core's copy
invalidated; it goes over channel 1 (R296). -/
def State.copyWrite (s : State) (c sec : Nat) (data : BitVec 256) (poison : Bool) (mark : Nat := 0) : State :=
  ((s.sendHome (.memory 32) c (32 * sec)).homePut sec data poison mark).l1Drop c sec

/-- n bytes from byte o of a sector, as a number. -/
def sectorBytes (x : BitVec 256) (o n : Nat) : Nat := (x >>> (8 * o)).toNat % 2 ^ (8 * n)

/-- Eight bytes of DRAM-backed memory as their home holds them (tables of R337). -/
def State.peek64 (s : State) (pa : Nat) : DWord :=
  BitVec.ofNat 64 (sectorBytes (s.peekSector (pa / 32)) (pa % 32) 8)

/-- A translation's outcome (R26, R161, R337 to R339): a physical address with the leaf entry and its
address, a page being migrated, or a fatal cause. -/
inductive Tr where
  | ok (pa : Nat) (entry : DWord) (leaf : Nat)
  | busy
  | fault (cause : BitVec 8)
deriving DecidableEq, Repr

/-- What an access asks of its page: 0 read, 1 write, 2 fetch. -/
abbrev Want := Nat

/-- A leaf entry's reserved bits are zero and T matches the frame's window (R338). -/
def leafOk (e : DWord) (level : Nat) : Bool :=
  bit 0 e && bits 63 52 e = 0 && bits 15 9 e = 0 &&
  (if level = 2 then bit 3 e && bits 28 16 e = 0 else !bit 3 e) &&
  (bit 6 e = decide (capBase ≤ bits 51 16 e * 65536 && bits 51 16 e * 65536 < ctlBase))

/-- A non-leaf entry: V, the frame, every other bit zero (R337). -/
def tableOk (e : DWord) : Bool :=
  bit 0 e && bits 63 52 e = 0 && bits 15 1 e = 0

/-- The leaf entry of a virtual address and the entry's own address, by a walk of the tables, which lie in the
interleaved window (R26, R337). -/
def State.walk (s : State) (root : DWord) (va : Nat) : Option (DWord × Nat × Bool) :=
  let a1 := bits 51 17 root * 2 ^ 17 + 8 * (va / 2 ^ 42 % 2 ^ 14)
  let e1 := s.peek64 a1
  if s.window a1 ≠ some 0 || !tableOk e1 then none
  else
    let a2 := bits 51 16 e1 * 65536 + 8 * (va / 2 ^ 29 % 2 ^ 13)
    let e2 := s.peek64 a2
    if s.window a2 ≠ some 0 then none
    else if bit 3 e2 then (if leafOk e2 2 then some (e2, a2, true) else none)
    else if !tableOk e2 then none
    else
      let a3 := bits 51 16 e2 * 65536 + 8 * (va / 2 ^ 16 % 2 ^ 13)
      let e3 := s.peek64 a3
      if s.window a3 = some 0 && leafOk e3 3 then some (e3, a3, false) else none

/-- The entries that a walk reads, by address. -/
def State.walkReads (s : State) (root : DWord) (va : Nat) : List Nat :=
  let a1 := bits 51 17 root * 2 ^ 17 + 8 * (va / 2 ^ 42 % 2 ^ 14)
  let e1 := s.peek64 a1
  let a2 := bits 51 16 e1 * 65536 + 8 * (va / 2 ^ 29 % 2 ^ 13)
  let e2 := s.peek64 a2
  let a3 := bits 51 16 e2 * 65536 + 8 * (va / 2 ^ 16 % 2 ^ 13)
  if s.window a1 ≠ some 0 then []
  else if !tableOk e1 || s.window a2 ≠ some 0 then [a1]
  else if bit 3 e2 || !tableOk e2 || s.window a3 ≠ some 0 then [a1, a2] else [a1, a2, a3]

/-- The physical address a leaf entry gives (R338). -/
def leafPa (e : DWord) (large : Bool) (va : Nat) : Nat :=
  bits 51 16 e * 65536 + (if large then va % 2 ^ 29 else va % 2 ^ 16)

/-- The checks on a leaf entry (R26, R161, R336): its window, W, X, a bl access outside the bank-linear
window, a U access into control space, a retired pseudo-channel, a page being migrated. -/
def State.checkLeaf (s : State) (super bl : Bool) (want : Want) (e : DWord) (large : Bool)
    (leaf va : Nat) : Tr :=
  let pa := leafPa e large va
  match s.window pa with
  | none => .fault 0xC0
  | some w =>
    if w = 3 && !super then .fault 0xC1
    else if want = 1 && !bit 1 e then .fault 0xC1
    else if want = 2 && !bit 2 e then .fault 0xC1
    else if bl && w ≠ 1 then .fault 0xC1
    else if w = 1 && s.retired.contains ((pa - blBase) / 2 ^ 29 % 1024) then .fault 0xC1
    else if bit 8 e || s.busy.contains leaf then .busy
    else .ok pa e leaf

def State.ctx (s : State) (n : Nat) : Context := s.ctxs.get {} n
def State.setCtx (s : State) (n : Nat) (x : Context) : State := { s with ctxs := s.ctxs.put n x }
def State.cluster (s : State) (c : Nat) : Cluster := s.clusters.get {} c
def State.setCluster (s : State) (n : Nat) (x : Cluster) : State :=
  { s with clusters := s.clusters.put n x }

/-- A cached translation of an address. -/
def findTlb (l : List TlbEntry) (ctx va : Nat) : Option TlbEntry :=
  l.find? (fun t => t.ctx = ctx &&
    (if t.large then t.va / 2 ^ 29 = va / 2 ^ 29 else t.va / 2 ^ 16 = va / 2 ^ 16))

/-- The leaf entry in effect for an address: one that has been used stays so until a shootdown drops it (R339); else what the
tables hold. -/
def State.leafFor (s : State) (ctx va : Nat) : Option (DWord × Nat × Bool) :=
  match findTlb s.inEffect ctx va with
  | some t => some (t.entry, t.leaf, t.large)
  | none => s.walk (s.ctx ctx).root va

/-- Translation by an agent with no translation cache (the distributor, controllers, the network). -/
def State.translate (s : State) (ctx : Nat) (super bl : Bool) (want : Want) (va : Nat) : Tr :=
  if 2 ^ 56 ≤ va then .fault 0xC0
  else
    match s.leafFor ctx va with
    | none => .fault 0xC0
    | some (e, leaf, large) => s.checkLeaf super bl want e large leaf va

/-- A promoted page's reference bit set by a cluster-cache fill (R343). -/
def Context.touch (c : Context) (leaf : Nat) : Context :=
  let set (e : Nat × Nat × Nat × Bool) : Nat × Nat × Nat × Bool :=
    if e.2.2.1 = leaf then (e.1, e.2.1, e.2.2.1, true) else e
  { c with promoted := c.promoted.map set }

/-- A translation used: it is in effect from now on (R339). -/
def State.keepEntry (s : State) (t : TlbEntry) : State :=
  if s.inEffect.contains t then s else { s with inEffect := t :: s.inEffect }

/-- The translation of an address by an agent with no cache kept in effect (R339). -/
def State.keepFor (s : State) (ctx va : Nat) : State :=
  match s.leafFor ctx va with
  | some (e, leaf, large) => s.keepEntry ⟨ctx, va, large, e, leaf⟩
  | none => s

/-- A translation fill of a core's and its cluster's caches (R339); a promoted page's reference bit is set in every context
that has promoted it (R343). DESIGN CHOICE, log 12. -/
def State.fillTlb (s : State) (core : Nat) (t : TlbEntry) : State :=
  let s := s.setCore core { s.core core with tlb := t :: (s.core core).tlb.take 63 }
  let cl := s.cluster (core / 4)
  let s := s.setCluster (core / 4) { cl with tlb := t :: cl.tlb.take 2047 }
  { s with ctxs := s.ctxs.map (fun (e : Nat × Context) => (e.1, e.2.touch t.leaf)) }.keepEntry t

/-- Translation for a core (R339): its cache, its cluster's, then a walk that fills both. -/
def State.coreTranslate (s : State) (core ctx : Nat) (super bl : Bool) (want : Want) (va : Nat) :
    State × Tr :=
  if 2 ^ 56 ≤ va then (s, .fault 0xC0)
  else
    let hit := (findTlb (s.core core).tlb ctx va) <|> (findTlb (s.cluster (core / 4)).tlb ctx va)
    match hit with
    | some t => (s, s.checkLeaf super bl want t.entry t.large t.leaf va)
    | none =>
      let s := (s.walkReads (s.ctx ctx).root va).foldl (fun s a => s.checkSector (a / 32)) s
      match s.leafFor ctx va with
      | none => (s, .fault 0xC0)
      | some (e, leaf, large) =>
        let r := s.checkLeaf super bl want e large leaf va
        match r with
        | .ok .. => (s.fillTlb core ⟨ctx, va, large, e, leaf⟩, r)
        | _ => (s, r)

/-- A page's counts cleared. -/
def State.clearPage (s : State) (page : Nat) : State :=
  { s with
    pageCount := s.pageCount.set 0 page 0, pageLeaf := s.pageLeaf.set 0 page 0, pageCtx := s.pageCtx.set 0 page 0,
    pageShared := without s.pageShared page }

/-- The sampling window a context is in: the number of whole WIN periods of device time (R341). -/
def State.windowNow (s : State) (ctx : Nat) : Nat := s.time / (bits 47 36 (s.ctx ctx).migration * 1000)

/-- In a new window the counters of the context's pages are cleared (R341). -/
def State.rollWindow (s : State) (ctx : Nat) : State :=
  let k := s.windowNow ctx
  if (s.ctx ctx).window = k then s
  else
    let mine := (s.pageCtx.filter (fun e => e.2 = ctx + 1)).map (·.1)
    let s := mine.foldl State.clearPage s
    s.setCtx ctx { s.ctx ctx with window := k }

/-- A capacity page translated by a leaf entry: two different entries in one window make it shared (R343). The counts of a
window that is over are cleared first, the context's and those of the context that last counted. DESIGN CHOICE, log 69. -/
def State.noteLeaf (s : State) (ctx pa leaf : Nat) : State :=
  if !(capBase ≤ pa && pa < ctlBase) then s
  else
    let page := (pa - capBase) / 65536
    let s := s.rollWindow ctx
    let s := if s.pageCtx.get 0 page = 0 then s else s.rollWindow (s.pageCtx.get 0 page - 1)
    let seen := s.pageLeaf.get 0 page
    { s with
      pageLeaf := s.pageLeaf.set 0 page leaf, pageCtx := s.pageCtx.set 0 page (ctx + 1),
      pageShared := if seen ≠ 0 && seen ≠ leaf then page :: without s.pageShared page else s.pageShared }

/-- A request of a capacity page reaches its home slice: counted for migration, and its page queued when the count reaches
PROM (R341, R343). DESIGN CHOICE, log 69. -/
def State.countPage (s : State) (ctx pa : Nat) (e : DWord) (leaf : Nat) : State :=
  let s := s.noteLeaf ctx pa leaf
  if !(capBase ≤ pa && pa < ctlBase && bit 7 e) then s
  else
    let page := (pa - capBase) / 65536
    let n := min 65535 (s.pageCount.get 0 page + 1)
    let m := (s.ctx ctx).migration
    let s := { s with pageCount := s.pageCount.set 0 page n }
    if bit 0 m && bits 63 48 m ≤ n && !bit 4 e && !bit 3 e && !s.promote.any (fun q => q.2.1 = page) then
      { s with promote := s.promote ++ [(page % 32, page, ctx, leaf)] }
    else s

def State.wg (s : State) (i : Nat) : Workgroup := s.wgs.get {} i
def State.setWg (s : State) (i : Nat) (w : Workgroup) : State := { s with wgs := s.wgs.put i w }

/-- Bytes of a workgroup's granules (R160). -/
def Workgroup.spBytes (w : Workgroup) : Nat := w.sgran * 65536

/-- n bytes of the scratchpad from an offset, little-endian. -/
def Workgroup.spRead (w : Workgroup) (a n : Nat) : Nat :=
  let lo := (w.sp.get 0 (a / 4)).toNat
  let hi := (w.sp.get 0 (a / 4 + 1)).toNat
  (lo + 2 ^ 32 * hi) / 2 ^ (8 * (a % 4)) % 2 ^ (8 * n)

/-- A scratchpad byte. -/
def Workgroup.spByte (w : Workgroup) (a : Nat) : Byte := BitVec.ofNat 8 (w.spRead a 1)

/-- n bytes (up to 8, naturally aligned) of the scratchpad written, full bits as given. -/
def Workgroup.spWrite (w : Workgroup) (a n v : Nat) (setFull : Bool) : Workgroup :=
  let put (w : Workgroup) (i : Nat) (x : Word) : Workgroup :=
    { w with sp := w.sp.set 0 i x, full := if setFull then w.full.set false i true else w.full }
  if n = 8 then
    put (put w (a / 4) (BitVec.ofNat 32 v)) (a / 4 + 1) (BitVec.ofNat 32 (v / 2 ^ 32))
  else
    let sh := 8 * (a % 4)
    let m : Word := ((BitVec.ofNat 32 (2 ^ (8 * n) - 1))) <<< sh
    let old := w.sp.get 0 (a / 4)
    put w (a / 4) (((BitVec.ofNat 32 v <<< sh) &&& m) ||| (old &&& ~~~m))

/-- A scratchpad word written and set full. -/
def Workgroup.spPut (w : Workgroup) (word : Nat) (x : Word) : Workgroup :=
  { w with sp := w.sp.set 0 word x, full := w.full.set false word true }

def Workgroup.isFull (w : Workgroup) (word : Nat) : Bool := w.full.get false word
def Workgroup.setEmpty (w : Workgroup) (word : Nat) : Workgroup :=
  { w with full := w.full.set false word false }

/-- A 32-byte sector of the scratchpad. -/
def Workgroup.spSector (w : Workgroup) (a : Nat) : BitVec 256 :=
  (List.range 8).foldl
    (fun x i => x ||| ((w.sp.get 0 (a / 4 + i)).setWidth 256 <<< (32 * i))) 0

/-- A 32-byte sector of the scratchpad written, its words set full; poison words for a poisoned source
(R182, R374). -/
def Workgroup.spPutSector (w : Workgroup) (a : Nat) (x : BitVec 256) (poison : Bool) : Workgroup :=
  (List.range 8).foldl (fun w i =>
    w.spPut (a / 4 + i) (if poison then poisonWord else (x >>> (32 * i)).setWidth 32)) w

/-- Every word of a byte range is empty, or every one full. -/
def Workgroup.allEmpty (w : Workgroup) (a n : Nat) : Bool :=
  (List.range ((n + 3) / 4)).all (fun i => !w.isFull (a / 4 + i))
def Workgroup.allFull (w : Workgroup) (a n : Nat) : Bool :=
  (List.range ((a % 4 + n + 3) / 4)).all (fun i => w.isFull (a / 4 + i))

/-- Bytes of memory as their homes hold them, one after another (no effect). -/
def State.peekBytes (s : State) (pa n : Nat) : List Byte :=
  (List.range n).map (fun i =>
    BitVec.ofNat 8 (sectorBytes (s.peekSector ((pa + i) / 32)) ((pa + i) % 32) 1))

/-- A number from bytes, lowest first. -/
def ofBytes : List Byte → Nat
  | [] => 0
  | b :: bs => b.toNat + 256 * ofBytes bs

/-- The field of a byte string at a bit range (tables of the spec number bits from the first byte). -/
def field (bs : List Byte) (hi lo : Nat) : Nat := ofBytes bs / 2 ^ lo % 2 ^ (hi + 1 - lo)

/-- n bytes of a number, lowest first. -/
def toBytes (n x : Nat) : List Byte := (List.range n).map (fun i => BitVec.ofNat 8 (x / 2 ^ (8 * i)))

/-- The 256 bits of 32 bytes, and back. -/
def sectorOf (bs : List Byte) : BitVec 256 := BitVec.ofNat 256 (ofBytes bs)
def bytesOf (x : BitVec 256) : List Byte := toBytes 32 x.toNat

end Sys2Proof.Machine
end

