-- ==== Sys2Proof/Machine/Flags.lean ====
section
/-! DEFINITION. FPFLAGS: the sticky flags, when they join it, and FPMODE's flush bit (R99 to R101, R145). -/

namespace Sys2Proof.Machine

/-- Flags ORed into FPFLAGS (R100). -/
def Group.orFlags (g : Group) (f : Flags) : Group :=
  { g with fpflags := g.fpflags ||| f.setWidth 32 }

/-- An instruction flushes when its ftz bit or FPMODE.FZ is set (R145). -/
def Group.flushes (g : Group) (ftz : Bool) : Bool := ftz || bit 0 g.fpmode

/-- The OR of the flags of several lanes (R146). -/
def orAll (l : List Flags) : Flags := l.foldl (· ||| ·) 0

/-- Results whose readable cycle has come: their flags join FPFLAGS (R100), and they are forgotten, except
while a split not merged with their own since may read their old values (R49). DEDUCED, log 37. -/
def Group.settle (g : Group) (now : Nat) : Group :=
  let due := g.fresh.filter (fun e => e.cycle ≤ now)
  let g := g.orFlags (orAll (due.map (fun e => e.flags)))
  let keep (e : Fresh) : Option Fresh :=
    if now < e.cycle then some e else if e.openTo ≠ 0 then some { e with flags := 0 } else none
  { g with fresh := g.fresh.filterMap keep }

/-- Every fixed-latency result readable at once (R58, at a save). -/
def Group.settleAll (g : Group) : Group :=
  { g.orFlags (orAll (g.fresh.map (fun e => e.flags))) with fresh := [] }

/-- A fixed-latency instruction of the group is not yet readable (R100). -/
def Group.unread (g : Group) (now : Nat) : Bool := g.fresh.any (fun e => decide (now < e.cycle))

end Sys2Proof.Machine
end

