-- ==== Sys2Proof/Machine/Order.lean ====
section
/-! DEFINITION. Groups, slots and their numbers; the order of one group's accesses (R163, R178, R263, R279, R283 to
R285): which outstanding accesses and engine operations a new one is performed after. -/

namespace Sys2Proof.Machine

def State.group (s : State) (gid : Nat) : Group := s.groups.get {} gid
def State.setGroup (s : State) (gid : Nat) (g : Group) : State :=
  { s with groups := s.groups.put gid g }
def State.slot (s : State) (k : Nat) : Slot := s.slots.get {} k
def State.setSlot (s : State) (k : Nat) (x : Slot) : State := { s with slots := s.slots.put k x }

/-- Core and slot (core × 4 + slot) of a group's number. What a retired group left under way goes on under its
number plus a multiple of 8,192 (R138, R270). -/
def coreOf (gid : Nat) : Nat := gid / 64 % 128
def slotOf (gid : Nat) : Nat := gid / 16 % 512

/-- Where a byte range lies: the scratchpad, or a physical address under one window's name; a virtual address
that does not translate is compared as it is. -/
def State.place (s : State) (g : Group) (space va : Nat) : Nat :=
  if space = 1 then va
  else
    match s.translate g.ctx g.super false 0 va with
    | .ok pa _ _ => pa
    | _ => 2 ^ 60 + va

/-- Two accesses name overlapping bytes (R163). -/
def State.overlap (s : State) (g : Group) (x y : Acc) : Bool :=
  ((x.space = 1) == (y.space = 1)) &&
  x.lanes.any (fun a => y.lanes.any (fun b =>
    let p := s.place g x.space a.addr
    let q := s.place g y.space b.addr
    decide (p < q + y.bytes) && decide (q < p + x.bytes)))

/-- An access of memory, and not a fence. -/
def AccKind.real : AccKind → Bool
  | .load | .store | .atomic | .red | .push => true
  | _ => false

/-- An access that writes. -/
def AccKind.writes : AccKind → Bool
  | .store | .atomic | .red | .push => true
  | _ => false

/-- A group's accesses, without the port writes of results that have still to arrive. -/
def Group.toPerform (g : Group) : List Acc := g.accs.filter (fun a => a.kind ≠ .push)

/-- A fence that releases or acquires, and whether it covers every stream. -/
def AccKind.covers : AccKind → Option Bool
  | .fenceRel all | .fenceAcq all | .fenceAr all => some all
  | _ => none

/-- Y is performed after the earlier X (R279 and the fences of R177, R178, R283 to R285). A release, an acquire or an order
that covers the stream of an earlier acquire comes after it, and so does what they stand for (R287). A FENCEX counts a later release, and an earlier acquire, among the accesses of its stream, so that
what they carry follows and precedes what R287 asks for. DEDUCED, log 85. -/
def State.before (s : State) (g : Group) (x y : Acc) : Bool :=
  let same := x.stream = y.stream
  match x.kind, y.kind with
  | .fencex m, k =>
    match k.covers with
    | some all => all || m.getLsbD y.stream
    | none => k.real && m.getLsbD y.stream
  | .order, _ => true
  | .fenceAcq all, .fencex m => all || m.getLsbD x.stream
  | .fenceAr all, .fencex m => all || m.getLsbD x.stream
  | .fenceRel all, k => all || (same && k.writes)
  | .fenceAcq all, k => all || k = .order || (match k.covers with | some other => other || same | none => same && k.real)
  | .fenceAr all, k => all || k = .order || (match k.covers with | some other => other || same | none => same && k.real)
  | _, .fencex m => m.getLsbD x.stream
  | _, .order => true
  | _, .fenceRel all => all || same
  | k, .fenceAcq all => all || (same && (k = .load || k = .atomic))
  | _, .fenceAr all => all || same
  | k, l =>
    let shared := s.overlap g x y
    shared || (same && !(l = .load && (k = .store || k = .red || k = .push)))

/-- The outstanding accesses a split's new access must follow. -/
def State.afterOf (s : State) (g : Group) (sid : Nat) (y : Acc) : List Nat :=
  (g.accs.filter (fun x => x.po.getLsbD sid && s.before g x y)).map (·.id)

/-- An access of a port: its element, on stream 0 (R292). -/
def Group.portAcc (g : Group) (i : Nat) : Acc :=
  let p := g.port i
  { id := 0, kind := if i ≤ 1 then .load else .store, po := 0, stream := 0, scope := 0, policy := 0,
    space := 1, ord := 0, bytes := 128, ty := 6, lanes := [⟨0, p.base + 128 * p.pos, 0, 0⟩],
    target := .none }

/-- Pages of 64 KiB a byte range touches: address and bytes of each part. -/
def pagesOf (a n : Nat) : List (Nat × Nat) :=
  if n = 0 then []
  else
    (List.range ((a % 65536 + n + 65535) / 65536)).map (fun i =>
      let p := (a / 65536 + i) * 65536
      let lo := max a p
      (lo, min (a + n) (p + 65536) - lo))

/-- The pieces of a byte range as accesses, for the order of R181: first byte and number per page. -/
def rangeAccs (stream space a n : Nat) (write : Bool) : List Acc :=
  let parts := if space = 1 then (if n = 0 then [] else [(a, n)]) else pagesOf a n
  parts.map (fun p =>
    { id := 0, kind := if write then .atomic else .load, po := 0, stream := stream, scope := 0, policy := 0,
      space := space, ord := 0, bytes := p.2, ty := 6, lanes := [⟨0, p.1, 0, 0⟩], target := .none })

/-- Earlier accesses an engine operation must follow: those on its stream and those of its bytes (R181). -/
def State.engineAfter (s : State) (gid sid stream : Nat) (l : List Acc) : List Nat :=
  let g := s.group gid
  let whole : Acc :=
    { id := 0, kind := .atomic, po := 0, stream := stream, scope := 0, policy := 0, space := 0, ord := 0,
      bytes := 0, ty := 6, lanes := [], target := .none }
  (g.accs.filter (fun x => x.po.getLsbD sid &&
    (whole :: l).any (fun y => s.before g x y))).map (·.id)

/-- A group's engine operations that are accesses: each copy, near-memory command and search under way, with its stream and
byte ranges (R279). -/
def State.engineOps (s : State) (gid : Nat) : List (OpOrder × Nat × List Acc) :=
  let c := s.core (coreOf gid)
  let all := c.copies.map (fun k => (k.id, k.stream, k.ranges)) ++ c.near.map (fun k => (k.id, k.stream, k.ranges)) ++
    s.searches.map (fun e => (e.2.id, e.2.stream, e.2.ranges))
  (s.group gid).ops.filterMap (fun o => (all.find? (fun e => e.1 = o.id)).map (fun e => (o, e.2)))

/-- An engine operation stands before what a split issues on some streams (R263, R283). -/
def OpOrder.on (o : OpOrder) (sid stream : Nat) (streams : Nat → Bool) : Bool := o.po.getLsbD sid && streams stream

/-- Copies, near-memory commands and searches of a group that a release by a split on some streams waits for (R283). -/
def State.enginesOn (s : State) (gid sid : Nat) (streams : Nat → Bool) : List Nat :=
  ((s.engineOps gid).filter (fun e => e.1.on sid e.2.1 streams)).map (·.1.id)

/-- Those, on any stream, whose ranges overlap some bytes (R179, R215). -/
def State.enginesIn (s : State) (gid sid : Nat) (l : List Acc) : List Nat :=
  let g := s.group gid
  ((s.engineOps gid).filter (fun e => e.1.po.getLsbD sid && e.2.2.any (fun x => l.any (s.overlap g x)))).map (·.1.id)

/-- The operation with a number is under way. -/
def State.opRunning (s : State) (gid id : Nat) : Bool := (s.engineOps gid).any (fun e => e.1.id = id)

/-- The earlier copies, near-memory commands and searches on its stream that a copy or near-memory command with some ranges
follows (R181, R235, R277); one whose bytes it shares is unordered with it until a BWAIT covers that. DEDUCED, log 97. -/
def State.opsAfter (s : State) (gid sid stream : Nat) (l : List Acc) : List Nat :=
  (s.enginesOn gid sid (· = stream)).filter (fun i => !(s.enginesIn gid sid l).contains i)

/-- Everything with some numbers that a group has issued has been performed (R181, R279). -/
def State.allDone (s : State) (gid : Nat) (after : List Nat) : Bool :=
  !(s.group gid).accs.any (fun a => after.contains a.id) && !after.any (s.opRunning gid)

/-- Every port among some may act now as far as the group's own accesses go; a push is a release on stream 0 (R279, R286,
R292). -/
def State.portsOrdered (s : State) (gid sid : Nat) (l : List Nat) : Bool :=
  let g := s.group gid
  l.all (fun i => (s.afterOf g sid (g.portAcc i)).isEmpty && (i ≤ 1 || (s.enginesOn gid sid (· = 0)).isEmpty))

end Sys2Proof.Machine
end

