-- ==== Sys2Proof/Machine/QueueBlock.lean ====
section
/-! DEFINITION. The queue control block of R212 as its home slice holds it, and parked waiters (R217). -/

namespace Sys2Proof.Machine

/-- One byte through the CRC-16 of R212: polynomial 0x1021, bit 7 first. -/
def crcByte (c : BitVec 16) (b : Byte) : BitVec 16 :=
  (List.range 8).foldl (fun c _ => if bit 15 c then (BitVec.shiftLeft c 1) ^^^ 0x1021 else BitVec.shiftLeft c 1)
    (c ^^^ BitVec.shiftLeft (b.setWidth 16) 8)

/-- The CRC-16 of some bytes, initial value 0xFFFF (R212). -/
def crc16 (bs : List Byte) : BitVec 16 := bs.foldl crcByte 0xFFFF

/-- A queue control block's fields (R212). -/
structure QBlock where
  esz : Nat
  scope : Nat
  blk : Bool
  md : Bool
  logcap : Nat
  owner : Nat
  lq : Bool
  head : Nat
  tail : Nat
  free : Nat
  enqw : Nat
  deqw : Nat
  penq : Nat
  pdeq : Nat
  slots : Nat
deriving DecidableEq, Repr, Inhabited

/-- The fields of 64 bytes. -/
def QBlock.read (bs : List Byte) : QBlock :=
  let f := field bs
  { esz := f 25 24, scope := f 27 26, blk := f 28 28 = 1, md := f 29 29 = 1, logcap := f 36 32,
    owner := f 39 37, lq := f 40 40 = 1, head := f 95 64, tail := f 127 96, free := f 159 128,
    enqw := f 166 160, deqw := f 173 167, penq := f 183 176, pdeq := f 191 184, slots := f 239 192 }

def flag (b : Bool) : Nat := if b then 1 else 0

/-- The 64 bytes of a block, with its CRC (R212). -/
def QBlock.write (q : QBlock) : List Byte :=
  let n := 0xA71C + 2 ^ 16 * 1 + 2 ^ 24 * (q.esz % 4) + 2 ^ 26 * (q.scope % 4) + 2 ^ 28 * flag q.blk +
    2 ^ 29 * flag q.md + 2 ^ 32 * (q.logcap % 32) + 2 ^ 37 * (q.owner % 8) + 2 ^ 40 * flag q.lq +
    2 ^ 64 * (q.head % 2 ^ 32) + 2 ^ 96 * (q.tail % 2 ^ 32) + 2 ^ 128 * (q.free % 2 ^ 32) +
    2 ^ 160 * (q.enqw % 128) + 2 ^ 167 * (q.deqw % 128) + 2 ^ 176 * (q.penq % 256) +
    2 ^ 184 * (q.pdeq % 256) + 2 ^ 192 * (q.slots % 2 ^ 48)
  let body := toBytes 56 n
  body ++ toBytes 2 (crc16 body).toNat ++ List.replicate 6 0

/-- MAGIC, VER and CRC of a block (R213). -/
def crcOk (bs : List Byte) : Bool := field bs 463 448 = (crc16 (bs.take 56)).toNat
def blockValid (bs : List Byte) : Bool :=
  field bs 15 0 = 0xA71C && field bs 23 16 = 1 && crcOk bs

/-- Published elements waiting (R212), and slots of the array. -/
def QBlock.count (q : QBlock) : Nat := (q.tail + 2 ^ 32 - q.head) % 2 ^ 32
def QBlock.cap (q : QBlock) : Nat := 2 ^ q.logcap
def QBlock.elem (q : QBlock) : Nat := 64 * 2 ^ q.esz
/-- The virtual address of the slot of an index. -/
def QBlock.slot (q : QBlock) (i : Nat) : Nat := q.slots * 256 + i % q.cap * q.elem

/-- The first failing check of R214: trap and sub-code. -/
def queueFails (bs : List Byte) (ctx : Nat) (scope : Option Nat) (farDie deq : Bool) :
    Option (BitVec 8 × Nat) :=
  let q := QBlock.read bs
  let f := field bs
  if f 15 0 ≠ 0xA71C || f 23 16 ≠ 1 || q.esz = 3 || q.logcap < 1 || 16 < q.logcap || f 511 464 ≠ 0 ||
      f 447 240 ≠ 0 || f 175 174 ≠ 0 || f 63 41 ≠ 0 || f 31 30 ≠ 0 then some (0x20, 1)
  else if (q.tail + 2 ^ 32 - q.head + q.free + q.penq + q.pdeq) % 2 ^ 32 ≠ q.cap then some (0x20, 2)
  else if q.owner ≠ ctx then some (0x20, 3)
  else if !crcOk bs then some (0x20, 4)
  else if scope.any (· ≠ q.scope) then some (0x21, 1)
  else if farDie && !q.md then some (0x21, 2)
  else if deq && q.lq then some (0x21, 3) else none

/-- The block of a launch queue, 16 the supervisor's (R27, R315, R392). -/
def State.queueVa (s : State) (ctx q : Nat) : Nat :=
  ((s.ctx ctx).tables.get 0 (if q = 16 then 0x210 else 0x200 + q)).toNat

/-- Where an address lies for S-level code, a migration of its page left aside. -/
def State.settledPa (s : State) (ctx : Nat) (want : Want) (va : Nat) : Option Nat :=
  if 2 ^ 56 ≤ va then none
  else
    match s.leafFor ctx va with
    | none => none
    | some (e, leaf, large) =>
      match { s with busy := [] }.checkLeaf true false want (e &&& ~~~(0x100 : DWord)) large leaf va with
      | .ok pa _ _ => some pa
      | _ => none

/-- A physical address is that of the block of the context's supervisor launch queue (R392). -/
def State.supervisorBlock (s : State) (ctx pa : Nat) : Bool :=
  s.queueVa ctx 16 ≠ 0 && s.settledPa ctx 0 (s.queueVa ctx 16) = some pa

/-- Whole sectors written at the home slices from a physical address. -/
def State.homeBytes (s : State) (pa : Nat) (bs : List Byte) : State :=
  (List.range (bs.length / 32)).foldl
    (fun s i => s.homePut (pa / 32 + i) (sectorOf ((bs.drop (32 * i)).take 32)) false) s

/-- The block at a physical address, and the same written. -/
def State.qRead (s : State) (pa : Nat) : QBlock := QBlock.read (s.peekBytes pa 64)
def State.qWrite (s : State) (pa : Nat) (q : QBlock) : State := (s.checkBytes pa 64).homeBytes pa q.write

/-- A block's bytes with one field of its first 56 bytes replaced and the CRC recomputed; every other bit stays (R312). -/
def setField (bs : List Byte) (hi lo v : Nat) : List Byte :=
  let n := ofBytes (bs.take 56)
  let w := 2 ^ (hi + 1 - lo)
  let body := toBytes 56 (n - n / 2 ^ lo % w * 2 ^ lo + v % w * 2 ^ lo)
  body ++ toBytes 2 (crc16 body).toNat ++ bs.drop 58

/-- A parked waiter leaves its list: ENQW or DEQW is one less, and the CRC follows (R217, R312). -/
def State.unpark (s : State) (w : Waiter) : State :=
  let s := { s with waiters := s.waiters.filter (fun v => !(v.gid = w.gid && v.sid = w.sid)) }
  if w.isMuster then s
  else
    let bs := s.peekBytes w.block 64
    s.homeBytes w.block (if w.enq then setField bs 166 160 (field bs 166 160 - 1) else setField bs 173 167 (field bs 173 167 - 1))

end Sys2Proof.Machine
end

