-- ==== Sys2Proof/Machine/Ring.lean ====
section
/-! DEFINITION. Walker contexts, the target stops and the search's walkers (R249, R250, R252, R332, R346). -/

namespace Sys2Proof.Machine

def State.search (s : State) (k : Nat) : Search := s.searches.get {} k
def State.setSearch (s : State) (k : Nat) (q : Search) : State := { s with searches := s.searches.put k q }
def State.walker (s : State) (id : Nat) : Walker := s.walkers.get {} id
def State.setWalker (s : State) (id : Nat) (k : Walker) : State := { s with walkers := s.walkers.put id k }
def State.hasWalker (s : State) (id : Nat) : Bool := (s.walkers.look id).isSome

/-- Walker contexts in use on an engine of a stack. -/
def State.contexts (s : State) (stack e : Nat) : Nat :=
  (s.walkers.filter (fun x => !x.2.travel && x.2.stack = stack && x.2.engine = e)).length

/-- The engine of a stack with the most free contexts, the lowest on a tie, if it has one free (R332). -/
def State.freeEngine (s : State) (stack : Nat) : Option Nat :=
  let pick (b e : Nat) : Nat := if s.contexts stack e < s.contexts stack b then e else b
  let e := [1, 2, 3].foldl pick 0
  if s.contexts stack e < 64 then some e else none

/-- A travelling walker takes a context of a stack (R332). -/
def State.seat (s : State) (id stack e : Nat) : State :=
  s.setWalker id { s.walker id with stack := stack, engine := e, travel := false }

/-- The stop a message waits at. -/
def Msg.stop : Msg → Option Nat
  | .hop _ goal | .spawn _ goal => some goal
  | _ => none

/-- A freed context of a stack goes to the first message held at its stop (R252). -/
def State.serveStop (s : State) (stack : Nat) : State :=
  match s.stops.find? (fun m => m.stop = some stack), s.freeEngine stack with
  | some m, some e => ({ s with stops := s.stops.filter (fun x => x.walker ≠ m.walker) }).seat m.walker stack e
  | _, _ => s

/-- A hop or spawn reaches its stop, and its walker is on that stack: it takes a free context, or waits behind those held there
(R252, R346). -/
def State.arriveStop (s : State) (m : Msg) (goal : Nat) : State :=
  { s.setWalker m.walker { s.walker m.walker with stack := goal } with stops := s.stops ++ [m] }.serveStop goal

/-- A walker ends: its context is free; its search counts one less (R248). -/
def State.endWalker (s : State) (id : Nat) : State :=
  let k := s.walker id
  let q := s.search k.search
  let s := { s.setSearch k.search { q with walkers := q.walkers - 1 } with walkers := s.walkers.del id }
  if k.travel then s else s.serveStop k.stack

/-- Every walker of a search ends before its next instruction; its messages are dropped (R249, R250). -/
def State.dropWalkers (s : State) (q : Nat) : State :=
  let mine (id : Nat) : Bool := s.hasWalker id && (s.walker id).search = q
  let gone := s.walkers.filter (fun e => e.2.search = q)
  let s := { s.setSearch q { s.search q with walkers := 0 } with
    msgs := s.msgs.filter (fun m => !mine m.walker), stops := s.stops.filter (fun m => !mine m.walker),
    walkers := s.walkers.filter (fun e => e.2.search ≠ q) }
  gone.foldl (fun s e => if e.2.travel then s else s.serveStop e.2.stack) s

/-- The walkers of a context seated on an engine, and those held at its stack's stop, are gone with their messages; each walker
context set free goes to the next message held there (R252, R376). -/
def State.dropSeated (s : State) (stack engine ctx : Nat) : State :=
  let of (k : Walker) : Bool := (s.search k.search).ctx = ctx
  let seated (k : Walker) : Bool := !k.travel && k.stack = stack && k.engine = engine && of k
  let gone (id : Nat) : Bool :=
    s.hasWalker id && (seated (s.walker id) ||
      (of (s.walker id) && s.stops.any (fun m => m.walker = id && m.stop = some stack)))
  let freed := (s.walkers.filter (fun e => seated e.2)).length
  (List.range freed).foldl (fun s _ => s.serveStop stack)
    { s with
      msgs := s.msgs.filter (fun m => !gone m.walker), stops := s.stops.filter (fun m => !gone m.walker),
      walkers := s.walkers.filter (fun e => !gone e.1) }

/-- A fault of a walker: its search ends with status 4 (R250). -/
def State.walkerFault (s : State) (id : Nat) : State :=
  let k := (s.walker id).search
  (s.setSearch k { s.search k with fault := true }).dropWalkers k

end Sys2Proof.Machine
end

