-- ==== Sys2Proof/Machine/Ops.lean ====
section
/-! DEFINITION. Named operations of the machine: groups and splits, taking a trap and returning from it
(R365, R370 to R373), halting a context (R375), results of fixed and variable latency (R47, R55 to R58), and
the issue of one instruction with everything that can precede its effect (R39, R54 to R60, R370). -/

namespace Sys2Proof.Machine

/-- The workgroup a group belongs to. -/
def State.wgOf (s : State) (gid : Nat) : Workgroup := s.wg (s.group gid).wg

/-- The live splits of a group, ascending. -/
def Group.liveSplits (g : Group) : List Nat := [0, 1, 2, 3].filter (fun i => (g.split i).live)

/-- Lanes of the group that have not exited (R365). -/
def Group.alive (g : Group) : Mask := ~~~g.exited

/-! ### Halts -/

/-- The engines that hold work of a context (R376, R377): slots, copy and matrix engines, near-bank units,
walker engines, and the distributor while it holds launches. -/
def State.enginesOf (s : State) (ctx : Nat) : List Nat :=
  let slots := (s.groups.filter (fun e => e.2.live && e.2.ctx = ctx)).map (fun e => slotOf e.1)
  let cores := s.cores.flatMap (fun e =>
    (if e.2.matrix.any (fun m => (s.wg m.wg).ctx = ctx) then [512 + e.1] else []) ++
    (if e.2.copies.any (fun m => m.ctx = ctx) then [640 + e.1] else []))
  let near := s.cores.flatMap (fun e => (e.2.near.filter (fun n => n.ctx = ctx)).map (fun n => 768 + n.stack))
  let walkers := (s.walkers.filter (fun e => !e.2.travel && (s.search e.2.search).ctx = ctx)).map
    (fun e => 776 + 4 * e.2.stack + e.2.engine)
  let dist := if s.launches.any (fun e => e.2.ctx = ctx) then [808] else []
  (slots ++ cores ++ near ++ walkers ++ dist).eraseDups

/-- Halted for good (R375, R376): halted, and not by a debug halt. -/
def Context.dead (c : Context) : Bool := c.halted && !c.debugHalt

/-- At a fatal halt every engine but the slots stops the context's work within 2 µs (R376). -/
def Context.inSkid (c : Context) (now engine : Nat) : Bool := c.debugHalt || engine < 512 || now ≤ c.haltTime + 2000

/-- STEPS set once the engines of a stepped instruction have stopped (R379). -/
def Context.setSteps (c : Context) (n : Nat) : Context :=
  { c with debug := (c.debug &&& 0x0000_FFFF_FFFF_FFFF) ||| BitVec.ofNat 64 (n * 2 ^ 48), steps := none }
def Context.settleSteps (c : Context) : Context :=
  match c.steps with
  | some n => if c.stopping.isEmpty then c.setSteps n else c
  | none => c

/-- An engine still works for a context (R376): always unless it is halted, and then until its stop. -/
def State.mayWork (s : State) (ctx engine : Nat) : Bool :=
  let c := s.ctx ctx
  !c.halted || (c.stopping.contains engine && c.inSkid s.time engine)

/-- At Camp entry a debug-halted context is saved: what its groups have begun comes to its end (R387, R388). DEDUCED,
log 70. -/
def State.savesHalted (s : State) (ctx : Nat) : Bool := s.power.entering && (s.ctx ctx).debugHalt

/-- Issue slots issue nothing more than 64 core cycles after the halt line rose (R376). -/
def State.mayStart (s : State) (ctx : Nat) : Bool :=
  let c := s.ctx ctx
  !c.halted || s.cycle ≤ c.haltCycle + 64

/-- A queue controller works on what a context's groups have begun: until its 2 µs are over at a fatal halt; a debug halt
leaves no queue operation past its reservation (R376, R379; DEDUCED, log 67). -/
def State.mayControl (s : State) (ctx : Nat) : Bool :=
  let c := s.ctx ctx
  !c.halted || s.savesHalted ctx || (if c.debugHalt then !c.stopping.isEmpty else s.time ≤ c.haltTime + 2000)

/-- A workgroup being flushed or saved issues nothing (R329). -/
def State.stoppedWg (s : State) (g : Group) : Bool :=
  match (s.wg g.wg).preempt with
  | some (n, _) => n ≠ 1
  | none => false

/-- The stop area's words in the block of a context (R27, R377). -/
def inStopArea (k : Nat) : Bool := 0x2000 ≤ k && k < 0x4000

/-- The halt line of a context rises (R376, R377): the engines that hold work, and the one that raised the event,
have still to stop; the stop area is to be written anew. Numbers above 808 stand for no engine. DEDUCED, log 77. -/
def State.raiseHalt (s : State) (ctx engine : Nat) (dbg : Bool) : State :=
  let c := s.ctx ctx
  let held := ((if engine ≤ 808 then [engine] else []) ++ s.enginesOf ctx).eraseDups
  s.setCtx ctx { c with
    halted := true, debugHalt := dbg, haltTime := s.time, haltCycle := s.cycle, held := held, origin := engine,
    stepReq := none, steps := none, stopping := held, records := some dbg,
    faddrs := [], tables := c.tables.filter (fun e => !inStopArea e.1) }

/-- A context halted by a fatal cause (R375): the first event fixes the cause; later ones only record their
address. A fatal event during a debug halt turns it into a fatal halt (R379). -/
def State.halt (s : State) (ctx : Nat) (cause : BitVec 8) (faddr : DWord) (engine : Nat) : State :=
  let c := s.ctx ctx
  if c.halted && !c.debugHalt then s.setCtx ctx { c with faddrs := c.faddrs ++ [(engine, faddr)] }
  else
    let s := s.raiseHalt ctx engine false
    s.setCtx ctx { s.ctx ctx with live := false, cause := cause, faddrs := [(engine, faddr)] }

/-- A context stopped for its debugger (R379): DBGFOCUS of every group names the split that issued last. DEDUCED, log 46. -/
def State.haltDebug (s : State) (ctx : Nat) (engine : Nat) : State :=
  if (s.ctx ctx).halted then s
  else
    let focus (e : Nat × Group) : Nat × Group :=
      if e.2.live && e.2.ctx = ctx then
        (e.1, { e.2 with dbgfocus := BitVec.ofNat 32 e.2.lastSplit }) else e
    let s := s.raiseHalt ctx engine true
    { s with groups := s.groups.map focus }

/-! ### Traps -/

/-- The TRAPMASK bit that masks a cause (R230, R369). -/
def maskBit (cause : BitVec 8) : Option Nat :=
  let c := cause.toNat
  if c = 0x04 then some 0
  else if c = 0x10 || c = 0x11 then some 1
  else if c = 0x40 || c = 0x41 then some 2
  else if 0x80 ≤ c && c ≤ 0xBF then some 3
  else none

/-- A cause is masked in a group; inside the handler every maskable cause is (R373). -/
def Group.masks (g : Group) (cause : BitVec 8) : Bool :=
  match maskBit cause with
  | some b => g.handler.isSome || g.trapMask.getLsbD b
  | none => false

/-- The oldest unmasked entry of a queue and the queue without it (R372). -/
def takeTrap (g : Group) : List Trap → Option (Trap × List Trap)
  | [] => none
  | t :: ts =>
    if g.masks t.cause then
      match takeTrap g ts with
      | some (x, rest) => some (x, t :: rest)
      | none => none
    else some (t, ts)

/-- The split that runs the handler of a trap (R372): the raising split if it exists and is not parked, else
the lowest not parked, else the lowest. -/
def Group.handlerSplit (g : Group) (sid : Nat) : Nat :=
  let raising := g.split sid
  if raising.live && !raising.parked then sid
  else
    match g.liveSplits.filter (fun i => !(g.split i).parked) with
    | i :: _ => i
    | [] => g.liveSplits.headD 0

/-- TAKING A TRAP (R365, R373): the handler split's pc, mask and parked state and TRAPMASK are recorded;
TRAPMASK becomes 0xF; the trap registers are loaded; the split starts at TRAPVEC, at privilege U, with the mask of the split
that raised the trap and the lanes of TRAPLANES. Its stall count and its wait run on (R55, R271). DEDUCED, log 62. -/
def Group.enter (g : Group) (t : Trap) (vec : DWord) (now : Nat) : Group :=
  let h := g.handlerSplit t.split
  let x := g.split h
  let mask := if (g.split t.split).live then (g.split t.split).mask else x.mask
  let g := { g with
    handler := some ⟨h, x.pc, x.mask, g.trapMask, x.parked,
      if x.wait = Wait.publish || x.wait = Wait.bar then x.wait else Wait.none, g.super, t.cause, x.due, g.sleeps.look h⟩,
    super := false, sleeps := g.sleeps.del h, trapMask := 0xF, trapPc := if x.parked then x.parkPc else x.pc, trapLanes := t.lanes,
    trapAddr := t.addr, trapInfo := t.info, trapSrc := t.src }
  g.setSplit h { x with pc := vec, mask := mask ||| (t.lanes &&& g.alive), parked := false,
                        wait := .none, readyAt := max x.readyAt (now + 1), due := none, atBreak := false }

/-- A split leaves the waits it stands in before its instruction has taken effect; the instruction issues anew
later (R311; DEDUCED, log 26). -/
def State.leaveWaits (s : State) (gid sid : Nat) : State :=
  let g := s.group gid
  let w := s.wg g.wg
  let sl := s.slot (slotOf gid)
  let keep := fun (e : Claim) => !(e.gid = gid && e.sid = sid)
  let s := (s.waiters.filter (fun q => q.gid = gid && q.sid = sid)).foldl State.unpark s
  let s := if sl.claims.all keep then s
    else s.setSlot (slotOf gid) { sl with claims := sl.claims.filter keep }
  if (g.split sid).wait = .bar then
    s.setWg g.wg { w with barred := w.barred.filter (· ≠ gid) } else s

/-- The waits before issue of a group's splits end; their instructions issue anew (R311, R365). -/
def State.leaveSplits (s : State) (gid : Nat) : State :=
  (s.group gid).liveSplits.foldl (fun s k =>
    match ((s.group gid).split k).wait with
    | .queue .. | .muster _ | .claim | .sleep =>
      let s := s.leaveWaits gid k
      let g := s.group gid
      s.setGroup gid (g.setSplit k { g.split k with wait := .none, pend := none })
    | _ => s) s

/-- Delivery (R372): outside the handler, in a context that is not halted, the oldest unmasked entry is
delivered; with TRAPVEC 0 the context halts with cause 0xC2. No other split issues while the handler runs, so none stays in
a waiter list to be served (R365; DEDUCED, log 26). -/
def State.deliver (s : State) (gid : Nat) : State :=
  let g := s.group gid
  let c := s.ctx g.ctx
  if g.handler.isSome || c.halted then s
  else
    match takeTrap g g.traps with
    | none => s
    | some (t, rest) =>
      if c.trapvec = 0 then s.halt g.ctx 0xC2 t.src (slotOf gid)
      else
        let s := s.leaveSplits gid
        s.setGroup gid ({ s.group gid with traps := rest }.enter t c.trapvec s.cycle)

/-- A recoverable trap raised (R371, R373): it enters the queue of four and is delivered when it can be; a
fifth entry, or an unmaskable trap inside the handler, halts the context with cause 0xC2. -/
def State.raise (s : State) (gid : Nat) (t : Trap) : State :=
  let g := s.group gid
  if 4 ≤ g.traps.length || (g.handler.isSome && (maskBit t.cause).isNone) then
    s.halt g.ctx 0xC2 t.src (slotOf gid)
  else (s.setGroup gid { g with traps := g.traps ++ [t] }).deliver gid

/-- The trap registers read zero outside a handler (R231). -/
def Group.clearTrapRegs (g : Group) : Group :=
  { g with handler := none, trapPc := 0, trapLanes := 0, trapAddr := 0, trapInfo := 0, trapSrc := 0 }

/-! ### Results -/

/-- The word of the element a port would read in a lane (R169). -/
def portWord (w : Workgroup) (p : Port) (lane : Nat) : Word :=
  w.sp.get 0 ((p.base + 128 * p.pos) / 4 + lane)

/-- A g register has no old values to read: its reads wait (R57), and R49 speaks of lanes. -/
def Target.isG : Target → Bool
  | .g _ => true
  | _ => false

/-- The old values of a result put back in some lanes, its destination's and both latches'. -/
def Fresh.restore (e : Fresh) (pick : Nat → Bool) (g : Group) : Group :=
  let g := if e.target.isG then g else writeLanes g e.target (e.old.filter (fun v => pick v.1))
  if e.latch then
    let put (k : Nat) (t : Tab Word) (v : Nat × Word) : Tab Word :=
      if pick v.1 then t.set 0 (32 * k + v.1) v.2 else t
    { g with l := e.oldL1.foldl (put 1) (e.oldL0.foldl (put 0) g.l) }
  else g

/-- The old values of a split's own result put back in some lanes: a latch only where the result that fed it is this one, l0
with what it held before, l1 with what it would hold without this result (R47). -/
def Fresh.undo (e : Fresh) (pick : Nat → Bool) (g : Group) : Group :=
  let g := if e.target.isG then g else writeLanes g e.target (e.old.filter (fun v => pick v.1))
  let put (k : Nat) (lanes : Mask) (t : Tab Word) (v : Nat × Word) : Tab Word :=
    if pick v.1 && Mask.has lanes v.1 then t.set 0 (32 * k + v.1) v.2 else t
  { g with l := e.oldL0.foldl (put 1 e.feed1) (e.oldL1.foldl (put 1 e.feed0) (e.oldL0.foldl (put 0 e.feed0) g.l)) }

/-- What a reading lane finds behind a pattern: the split's own short reads, old or new as this lane chooses, whatever lane
holds them (R48, R58); `g` is the view, `g0` the group with its new values. DEDUCED, log 6. -/
def Group.seenBy (g0 : Group) (now sid free : Nat) (g : Group) (lane : Nat) : Group :=
  let short := g0.fresh.filter (fun e => now < e.cycle && e.split = sid)
  let new (g : Group) (e : Fresh) : Group :=
    ({ e with
      old := e.old.map (fun v => (v.1, readTarget g0 e.target v.1)),
      oldL0 := e.oldL0.map (fun v => (v.1, g0.l.get 0 (if Mask.has e.feed1 v.1 then 32 + v.1 else v.1))),
      oldL1 := e.oldL1.map (fun v => (v.1, g0.l.get 0 (32 + v.1))) } : Fresh).undo (fun _ => true) g
  let one (e : Fresh) (gk : Group × Nat) : Group × Nat :=
    (if Config.freeBit (free + 64 * gk.2 + lane) then e.undo (fun _ => true) gk.1 else gk.1, gk.2 + 1)
  (short.foldr one (short.foldl new g, 0)).1

/-- How the lanes of the issuing split see a group's registers behind a pattern. -/
def State.seen (s : State) (gid : Nat) : Group → Nat → Group :=
  let g := s.group gid
  match s.who with
  | .split _ sid => if g.fresh.isEmpty then fun v _ => v else g.seenBy s.cycle sid (s.fresh * 2 ^ 16 + 2 ^ 14)
  | _ => fun v _ => v

/-- The ports a group reads: in0 and in1, with open high words for 64-bit reads (DESIGN CHOICE, log 5). DESIGN CHOICE, log 35. -/
def State.portView (s : State) (gid : Nat) : PortView :=
  let g := s.group gid
  let w := s.wgOf gid
  ⟨fun i lane => portWord w (g.port i) lane,
   fun i lane => Config.freeWord (s.fresh * 2 ^ 16 + 2 ^ 15 + i * 32 + lane), s.seen gid⟩

/-- Every word of the element at a port's position is full, or every one empty (R169). -/
def State.portFull (s : State) (gid i : Nat) : Bool :=
  let p := (s.group gid).port i
  (List.range 32).all (fun k => (s.wgOf gid).isFull ((p.base + 128 * p.pos) / 4 + k))
def State.portEmpty (s : State) (gid i : Nat) : Bool :=
  let p := (s.group gid).port i
  (List.range 32).all (fun k => !(s.wgOf gid).isFull ((p.base + 128 * p.pos) / 4 + k))

/-- A port's position advanced by one, modulo the count. -/
def Group.advancePort (g : Group) (i : Nat) : Group :=
  let p := g.port i
  { g with ports := g.ports.put i { p with pos := (p.pos + 1) % (max 1 p.count) } }

/-- One element popped: its words set empty, the position advanced (R169). -/
def State.popPort (s : State) (gid i : Nat) : State :=
  let g := s.group gid
  let p := g.port i
  let w := (List.range 32).foldl
    (fun w k => w.setEmpty ((p.base + 128 * p.pos) / 4 + k)) (s.wgOf gid)
  (s.setWg g.wg w).setGroup gid (g.advancePort i)

/-- One element pushed: every lane's word written, lanes without a value 0, set full; the position advanced
(R169). -/
def State.pushPort (s : State) (gid i : Nat) (vals : List (Nat × DWord)) : State :=
  let g := s.group gid
  let p := g.port i
  let word (k : Nat) : Word :=
    match vals.find? (fun e => e.1 = k) with
    | some e => e.2.extractLsb 31 0
    | none => 0
  let w := (List.range 32).foldl
    (fun w k => w.spPut ((p.base + 128 * p.pos) / 4 + k) (word k)) (s.wgOf gid)
  (s.setWg g.wg w).setGroup gid (g.advancePort i)

/-- The generations of the slot a group sits in. -/
def State.gens (s : State) (gid : Nat) : Tab Nat := (s.slot (slotOf gid)).gens

/-- The destination of an instruction that may leave D a zero field. -/
def orNone (x : Ext) (s : State) (gid : Nat) (wide : Bool) : Target :=
  if x.d = Dst.zero then .none else targetOf (s.group gid) (s.gens gid) x.d wide

/-- The live splits of a group besides one, as bits. -/
def Group.otherSplits (g : Group) (sid : Nat) : BitVec 4 :=
  BitVec.ofNat 4 (((g.liveSplits.filter (· ≠ sid)).map (2 ^ ·)).sum)

/-- The latches of some lanes shift on: what fed l0 there now feeds l1, and what fed l1 feeds none (R47). -/
def Fresh.shifted (lanes : Mask) (e : Fresh) : Fresh :=
  { e with feed0 := e.feed0 &&& ~~~lanes, feed1 := (e.feed1 &&& ~~~lanes) ||| (e.feed0 &&& lanes) }

/-- A FIXED-LATENCY RESULT (R45, R47, R55, R58): the destination written in the lanes given, the latches
shifted, the readable cycle, old values and flags noted. A g destination takes the lowest lane's value, and so
do the latches of every lane. A port destination is pushed. -/
def State.writeFixed (s : State) (gid sid : Nat) (d : Dst) (wide : Bool) (latency : Nat)
    (vals : List (Nat × DWord)) (flags : Flags := 0) : State :=
  let g := s.group gid
  let t := targetOf g (s.gens gid) d wide
  let vals := match t, vals with
    | .g _, (_, v) :: _ => vals.map (fun e => (e.1, v))
    | _, _ => vals
  let old (i : Nat) : List (Nat × Word) :=
    vals.map (fun e => (e.1, g.l.get 0 (32 * i + e.1)))
  let note : Fresh :=
    { split := sid, cycle := s.cycle + latency,
      target := match t with | .port _ => .none | _ => t, old := vals.map (fun e => (e.1, readTarget g t e.1)), latch := true,
      oldL0 := old 0, oldL1 := old 1, feed0 := maskOf (fun i => vals.any (fun e => e.1 = i)), openTo := g.otherSplits sid,
      flags := flags }
  let g := shiftLatches (writeLanes g t vals) vals
  let s := s.setGroup gid { g with fresh := note :: g.fresh.map (Fresh.shifted note.feed0) }
  match t with
  | .port i => if i = 2 || i = 3 then s.pushPort gid i vals else s
  | _ => s

/-- A result that is not of fixed latency reaches its register; the reads of the group's other splits may still see the old
value (R49). -/
def State.land (s : State) (gid sid : Nat) (t : Target) (vals : List (Nat × DWord)) : State :=
  let g := s.group gid
  let note : Fresh :=
    { split := sid, cycle := s.cycle, target := t, old := vals.map (fun e => (e.1, readTarget g t e.1)), latch := false,
      oldL0 := [], oldL1 := [], openTo := g.otherSplits sid }
  let w := writeLanes g t vals
  s.setGroup gid (if note.openTo ≠ 0 then { w with fresh := note :: g.fresh } else w)

/-- A result written at once in some lanes. -/
def State.writeNow (s : State) (gid sid : Nat) (t : Target) (eff : Mask) (v : DWord) : State :=
  s.land gid sid t (spread eff v)

/-- A result of variable latency begun (R56): its target is scoreboarded under a number. -/
def State.expect (s : State) (gid sid id : Nat) (t : Target) : State :=
  let g := s.group gid
  match t with
  | .none => s
  | _ => s.setGroup gid { g with pending := g.pending ++ [(id, t, sid)] }

/-- A result of variable latency ready to arrive (R270). -/
def State.reply (s : State) (gid : Nat) (r : Reply) : State :=
  let g := s.group gid
  s.setGroup gid { g with replies := g.replies ++ [r] }

/-- A new number. -/
def State.nextId (s : State) : Nat × State := (s.ids, { s with ids := s.ids + 1 })

/-! ### Issue -/

/-- The running instruction: its group and split, address, length, literal, effective and active lanes, and
the group as it reads its operands (short reads chosen, R58). -/
structure Run where
  gid : Nat
  sid : Nat
  pc : DWord
  size : Nat
  lit : Option (BitVec 64)
  eff : Mask
  active : Mask
  g : Group
  stall : Nat
  /-- the registers as a lane sees them behind a pattern. -/
  seen : Group → Nat → Group := fun v _ => v
  /-- this issue raises a trap before step 6, which when masked is queued: it raises no other (R370). -/
  raised : Bool := false

/-- What a lane reads of an instruction without port operands. -/
def Run.lanes (r : Run) : PortView := { noPorts with seen := r.seen }

/-- The outcome of an entry's checks at step 3 of R370: none, a trap, or a halt of the context. -/
inductive Chk where
  | ok
  | trap (cause : BitVec 8) (lanes : Mask) (addr info : DWord)
  | halt (cause : BitVec 8) (faddr : DWord)
deriving DecidableEq, Repr

/-- The first check that is not ok. -/
def Chk.first : List Chk → Chk
  | [] => .ok
  | .ok :: cs => Chk.first cs
  | c :: _ => c

/-- Trap 0x03 with sub-code 2 (R209, R183): an address, or 0 for a count or field. -/
def Chk.operand (bad : Bool) (lanes : Mask) (addr : DWord) : Chk :=
  if bad then .trap 0x03 lanes addr 2 else .ok

/-- What an instruction is, to the issue stage. `once`: it acts once for the group. `deferred`: numbers of
the batches and operations whose deferred traps it raises, besides those of the registers it names. `own`: it raises a
cause of its own at step 3 of R370.
`held`: while it waits before issue, the stall cause (R382; 9 and 11 none of its table, 9 in an instruction of the
coordination chapter) and the state of its waiting; `fills`: the spill engine has work for it. -/
structure Op where
  sub : Nat
  priv : Bool := false
  size : Nat
  stall : Nat
  gp : Nat := 0
  gn : Bool := false
  lit : Option (BitVec 64) := none
  vTop : Nat := 0
  dyn : State → Nat → Nat → Nat := fun _ _ _ => 0
  reads : Group → List Nat := fun _ => []
  writes : Group → List Nat := fun _ => []
  score : Nat := 0
  portsIn : List Nat := []
  portsOut : List Nat := []
  memory : Bool := false
  ends : Bool := false
  own : Bool := false
  check : State → Run → Chk := fun _ _ => .ok
  deferred : State → Run → Option Deferred := fun _ _ => none
  held : State → Run → Option (Nat × State) := fun _ _ => none
  fills : Group → Bool := fun _ => false
  act : State → Run → State

/-- The stall counters of a group: selector − 0x10 (R382). -/
def Group.countStall (g : Group) (k n : Nat) : Group :=
  { g with stalls := g.stalls.set 0 k (g.stalls.get 0 k + n) }

/-- The instruction waits: in the wait it was put in, or it issues again in a later cycle; the cause is noted
(R382). -/
def State.hold (s : State) (gid sid cause : Nat) : State :=
  let g := s.group gid
  let x := g.split sid
  let w : Wait := match x.wait with
    | .none => .retry (s.cycle + 1)
    | .retry c => if s.cycle < c then .retry c else .retry (s.cycle + 1)
    | w => w
  s.setGroup gid (g.setSplit sid { x with wait := w, why := cause })

/-- A key is scoreboarded, or written by a fixed-latency result not yet readable. -/
def Group.scored (g : Group) (k : Nat) : Bool := g.pending.any (fun e => e.2.1.keys.contains k)
def Group.unreadable (g : Group) (now k : Nat) : Bool :=
  g.fresh.any (fun e => decide (now < e.cycle) && e.target.keys.contains k)

/-- Registers scoreboarded in a group; a pair counts two (R56). -/
def Group.scoreCount (g : Group) : Nat :=
  g.pending.foldl (fun n e => n + (e.2.1.keys.filter (· < 1240)).length) 0

/-- Keys of g registers. -/
def isKeyG (k : Nat) : Bool := 1100 ≤ k && k < 1164

/-- A short read of a key by a split (R58): its own result, not yet readable. A child split reads the new value of what its
parent issued before the BRD (DESIGN CHOICE, log 82). A latch is readable with the destination that fed it: l0 with the
result it holds, l1 with the one it holds and with the one that shifted it there (R47; DEDUCED, log 93). -/
def Group.shortRead (g : Group) (now sid k : Nat) : Bool :=
  g.fresh.any (fun e => decide (now < e.cycle) && e.split = sid &&
    (e.target.keys.contains k || (k = keyL 0 && e.feed0 ≠ 0) || (k = keyL 1 && (e.feed0 ||| e.feed1) ≠ 0)))

/-- The group as a split reads it: its own short reads in every lane, and registers other splits have written
since the last merge in the lanes that are not its own, take old or new values (R49, R58). DEDUCED, log 6, log 76. -/
def Group.view (g : Group) (now sid free : Nat) : Group :=
  let mask := (g.split sid).mask
  let one (ge : Group × Nat) (e : Fresh) : Group × Nat :=
    let (g, k) := ge
    let old (i : Nat) : Bool := Config.freeBit (free + 64 * k + i)
    if e.split = sid then (if now < e.cycle then e.undo old g else g, k + 1)
    else if e.openTo.getLsbD sid then (e.restore (fun i => !Mask.has mask i && old i) g, k + 1)
    else (g, k + 1)
  (g.fresh.reverse.foldl one (g, 0)).1

/-- Memory-bound groups that may issue memory instructions at a congestion level (R273). -/
def throttleLimit (level : Nat) : Nat :=
  match level with | 0 | 1 => 64 | 2 => 4 | 3 => 2 | _ => 1

/-- The limit a slot reads. -/
def State.slotLimit (s : State) (k : Nat) : Nat := throttleLimit (s.cluster (k / 16)).level

/-- A rotation list's stamps: a group among the first n keeps the cycle (plus one) at which it came there, the
others have 0 (R273). -/
def stampRotation (n now : Nat) (l : List (Nat × Nat)) : List (Nat × Nat) :=
  (l.take n).map (fun e => if e.2 = 0 then (e.1, now + 1) else e) ++ (l.drop n).map (fun e => (e.1, 0))

/-- Whether a memory instruction of a group has permission (R273). -/
def State.permitted (s : State) (gid : Nat) : Bool :=
  let k := slotOf gid
  let l := (s.slot k).rotation
  !(l.any (fun e => e.1 = gid)) || (l.take (s.slotLimit k)).any (fun e => e.1 = gid)

/-- The group's issue noted (R232, R254, R273, R377): counters, the memory-bound flag and rotation list, the
slot's last instruction. -/
def State.noteIssue (s : State) (gid sid : Nat) (memory : Bool) (pc : DWord) : State :=
  let g := s.group gid
  let recent := (memory :: g.recent).take 64
  let bound := 32 < (recent.filter id).length
  let g := { g with issued := g.issued + 1, recent := recent, lastSplit := sid }
  let k := slotOf gid
  let sl := s.slot k
  let rot :=
    if bound then
      (if sl.rotation.any (fun e => e.1 = gid) then sl.rotation else sl.rotation ++ [(gid, 0)])
    else sl.rotation.filter (fun e => e.1 ≠ gid)
  (s.setGroup gid g).setSlot k { sl with
    lastPc := pc, rotation := stampRotation (s.slotLimit k) s.cycle rot, issuedAt := s.cycle + 1 }

/-- The split moved to the next instruction, its stall count begun (R33, R55). -/
def State.advance (s : State) (r : Run) : State :=
  let g := s.group r.gid
  let x := g.split r.sid
  s.setGroup r.gid (g.setSplit r.sid
    { x with pc := r.pc + BitVec.ofNat 64 r.size, readyAt := s.cycle + r.stall + 1, last := s.cycle,
             wait := .none, pend := none,
             skips := x.skips.erase r.pc, atBreak := false })

/-- The TRAPMASK of the group outside its handler: the recorded one while the handler runs. -/
def Group.outerMask (g : Group) : BitVec 4 :=
  match g.handler with
  | some h => h.trapmask
  | none => g.trapMask

/-- The step trap of R381, after the instruction has taken effect, if its split still exists and the trap is not masked then;
where the effect has delivered an older trap, it waits in the queue (R372). DEDUCED, log 94. -/
def State.stepTrap (s : State) (r : Run) (enabled : Bool) : State :=
  let g := s.group r.gid
  let x := g.split r.sid
  if enabled && g.live && x.live && !(s.ctx g.ctx).dead && !g.outerMask.getLsbD 2 then
    s.raise r.gid ⟨0x41, r.sid, x.pc, r.eff, 0, 0, r.pc⟩
  else s

/-- An instruction has begun to take effect and waits for the rest of it (R215, R216, R228). -/
def Wait.unfinished : Wait → Bool
  | .publish | .bar => true
  | _ => false

/-- The step trap comes when the instruction has taken all its effect (R381). -/
def State.stepDue (s : State) (r : Run) (enabled : Bool) : State :=
  let g := s.group r.gid
  let x := g.split r.sid
  if x.wait.unfinished then
    if enabled then s.setGroup r.gid (g.setSplit r.sid { x with due := some (r.pc, r.eff) }) else s
  else s.stepTrap r enabled

/-- The step trap of an instruction that had begun to take effect, now that its wait has ended (R381); outside a handler. -/
def State.raiseDue (s : State) (gid sid : Nat) : State :=
  let g := s.group gid
  let x := g.split sid
  match x.due with
  | none => s
  | some (pc, eff) =>
    if x.wait.unfinished || g.handler.isSome then s
    else
      let s := s.setGroup gid (g.setSplit sid { x with due := none })
      if g.live && x.live && !(s.ctx g.ctx).dead && !g.trapMask.getLsbD 2 then s.raise gid ⟨0x41, sid, x.pc, eff, 0, 0, pc⟩ else s

/-- The wait of an instruction that had begun to take effect ends, in the handler's record if a trap was delivered
meanwhile (R373); then its step trap (R381), or at the RTT when a handler runs. -/
def State.endWait (s : State) (gid sid : Nat) (w : Wait) : State :=
  let g := s.group gid
  let x := g.split sid
  match g.handler with
  | some h =>
    if h.split = sid && h.wait = w then
      s.setGroup gid { g with handler := some { h with wait := .none } }
    else if x.wait = w then s.setGroup gid (g.setSplit sid { x with wait := .none }) else s
  | none =>
    if x.wait ≠ w then s else (s.setGroup gid (g.setSplit sid { x with wait := .none })).raiseDue gid sid

/-- STEPEN is set, TRAPMASK bit 2 is clear and no handler runs (R381): the instruction that issues is stepped. DEDUCED, log 94. -/
def Group.stepping (g : Group) : Bool :=
  bit 0 g.stepen && !g.trapMask.getLsbD 2 && g.handler.isNone

/-- An enabled breakpoint register of the context matches an address (R378, R380): its number. -/
def Context.matchBp (c : Context) (pc : DWord) : Option Nat :=
  [0, 1, 2, 3].find? (fun i =>
    let b := c.bpa.get 0 i
    bit 0 b && bits 55 2 b = bits 55 2 pc)

/-- A trap raised before the instruction has any effect: the split stays at it. -/
def State.trapAt (s : State) (r : Run) (cause : BitVec 8) (lanes : Mask) (addr info : DWord) : State :=
  s.raise r.gid ⟨cause, r.sid, r.pc, lanes, addr, info, r.pc⟩

/-- The instruction takes effect: the issue noted, the split advanced, the entry's action, the step trap. -/
def State.effect (s : State) (op : Op) (r : Run) (act : State → Run → State) : State :=
  let stepping := (s.group r.gid).stepping && !r.raised
  let s := { s.noteIssue r.gid r.sid op.memory r.pc with fresh := s.fresh + 1 }
  let w := s.wgOf r.gid
  let s := if op.ends then
      s.setWg (s.group r.gid).wg { w with restartable := false } else s
  (act (s.advance r) r).stepDue r stepping

/-- The deferred trap of a RED on some streams (R374). -/
def Group.redTrap (g : Group) (streams : Nat → Bool) : Option Deferred :=
  g.deferred.find? (fun d => match d.red with
    | some k => streams k
    | none => false)

/-- Named in ports are popped once each, after the effect's operands were read (R46). -/
def State.popPorts (s : State) (gid : Nat) (l : List Nat) : State :=
  l.eraseDups.foldl (fun s i => s.popPort gid i) s

/-- The dynamic sub-codes of trap 0x01 (R60): the static one, an index at or above WINSIZE, an unbound port,
what the entry tests (tiles, class E, sub-code 9). -/
def State.subOf (s : State) (op : Op) (gid sid : Nat) : Nat :=
  let g := s.group gid
  lowestSub [op.sub, if g.winSize < op.vTop then 4 else 0,
    if (op.portsIn ++ op.portsOut).all (fun i => (g.port i).bound) then 0 else 3,
    op.dyn s gid sid]

/-- An entry's wait that parks the instruction where it is served from (R217, R221, R222, R232), and does not issue it anew. -/
def State.parks (s : State) (gid sid : Nat) : Bool :=
  match ((s.group gid).split sid).wait with
  | .none | .retry _ => false
  | _ => true

/-- A trap whose cause is masked enters the queue, and the instruction proceeds (R371); a fifth entry halts. -/
def State.queueMasked (s : State) (r : Run) (t : Trap) (go : Run → State → State) : State :=
  let g := s.group r.gid
  if 4 ≤ g.traps.length then s.halt g.ctx 0xC2 t.src (slotOf r.gid)
  else go { r with raised := true } (s.setGroup r.gid { g with traps := g.traps ++ [t] })

/-- The instruction waits where its entry puts it, or takes effect. -/
def State.proceed (op : Op) (r : Run) (s : State) : State :=
  match op.held s r with
  | some (cause, t) => t.hold r.gid r.sid cause
  | none => s.effect op r (fun s r => (op.act s r).popPorts r.gid op.portsIn)

/-- The last stages: the waits of ports and of the entry; then what R370 raises at most one of: a masked trap of the
instruction's own (step 3, raised with its effect), the short-read trap (step 4), a deferred trap (step 5); then the effect.
A push of a port is a release on stream 0, and raises the deferred trap of a RED there (R286, R374).
An instruction that parks to be served later raises them as it parks. -/
def State.issueTail (s : State) (op : Op) (r : Run) (short : Bool) : State :=
  let g := s.group r.gid
  let waits := match op.held s r with
    | some (_, t) => !t.parks r.gid r.sid
    | none => false
  if !op.portsIn.all (fun i => s.portFull r.gid i) ||
     !op.portsOut.all (fun i => s.portEmpty r.gid i) ||
     !s.portsOrdered r.gid r.sid (op.portsIn ++ op.portsOut) then s.hold r.gid r.sid 4
  else if waits then s.proceed op r
  else if op.own then s.proceed op r
  else if short && bit 0 g.stallchk then
    if g.masks 0x04 then s.queueMasked r ⟨0x04, r.sid, r.pc, r.active, 0, 0, r.pc⟩ (State.proceed op)
    else s.trapAt r 0x04 r.active 0 0
  else
    let keys := op.reads r.g ++ op.writes r.g
    let byReg := g.deferred.find? (fun d => d.red.isNone &&
      d.target.keys.any (fun k => keys.contains k))
    let byPush := if op.portsOut.any (2 ≤ ·) then g.redTrap (· = 0) else none
    match byReg <|> op.deferred s r <|> byPush with
    | some d =>
      let s := s.setGroup r.gid { g with deferred := g.deferred.filter (· ≠ d) }
      if g.masks d.cause then
        s.queueMasked r ⟨d.cause, r.sid, r.pc, d.lanes, d.addr, d.info, r.pc⟩ (State.proceed op)
      else s.trapAt r d.cause d.lanes d.addr d.info
    | none => s.proceed op r

/-- THE ISSUE of one instruction by a split, in the order of R370 and R60: address breakpoint, 0x01, 0x02,
the throttle of R273 and the interlocks of R57 and R56 (in the order R382 counts them), the guard of R39, the entry's checks, then `issueTail`. A
guard that is itself read short is chosen old or new before trap 0x04 is looked for (R39, R58). DESIGN CHOICE, log 83. -/
def State.issueSplit (s0 : State) (op : Op) (gid sid : Nat) : State :=
  let s := s0.setGroup gid ((s0.group gid).settle s0.cycle)
  let g := s.group gid
  let x := g.split sid
  let c := s.ctx g.ctx
  let bp := if x.skips.contains x.pc || c.stepReq.isSome then none else c.matchBp x.pc
  let bare : Run := { gid := gid, sid := sid, pc := x.pc, size := op.size, lit := op.lit, eff := 0, active := x.mask, g := g,
                      stall := op.stall }
  match bp with
  | some n =>
    let s := s.setGroup gid (g.setSplit sid { x with skips := x.pc :: x.skips, atBreak := bit 0 c.debug })
    if bit 0 c.debug then s.haltDebug g.ctx (slotOf gid)
    else if g.masks 0x40 then
      let t : Trap := ⟨0x40, sid, x.pc, x.mask, 0, BitVec.ofNat 64 (1024 + 256 * n), x.pc⟩
      if 4 ≤ g.traps.length then s.halt g.ctx 0xC2 x.pc (slotOf gid)
      else s.setGroup gid { s.group gid with traps := g.traps ++ [t] }
    else s.trapAt bare 0x40 x.mask 0 (BitVec.ofNat 64 (1024 + 256 * n))
  | none =>
    let sub := s.subOf op gid sid
    if sub ≠ 0 then s.trapAt bare 0x01 x.mask 0 (BitVec.ofNat 64 sub)
    else if op.priv then s.trapAt bare 0x02 x.mask 0 0
    else
      let guard := if op.gp = 0 then [] else [keyP op.gp]
      let rd := op.reads g ++ guard
      let wr := op.writes g
      if op.memory && !s.permitted gid then s.hold gid sid 2
      else if wr.any g.scored || (rd.filter isKeyG ++ wr).any (g.unreadable s.cycle) then
        s.hold gid sid (if op.fills g then 7 else 0)
      else if rd.any g.scored || 64 < g.scoreCount + op.score then s.hold gid sid (if op.fills g then 7 else 1)
      else
        let view := g.view s.cycle sid (s.fresh * 2 ^ 16)
        let pm := view.pred op.gp
        let eff := x.mask &&& (if op.gn then ~~~pm else pm)
        let r : Run := { bare with eff := eff, g := view, seen := s.seen gid, raised := op.own }
        if eff = 0 then s.effect op { r with raised := false } (fun s _ => s)
        else
          match op.check s r with
          | .trap cause lanes addr info => s.trapAt r cause lanes addr info
          | .halt cause faddr => s.halt g.ctx cause faddr (slotOf gid)
          | .ok =>
            s.issueTail op r (rd.any (g.shortRead s.cycle sid))

/-- What an instruction is to a walker (R81, R114, R250): whether the profile has it and its encoding is
legal, the guard, and its effect on the walker, whose pc has moved on. -/
structure WalkOp where
  ok : Bool
  size : Nat
  gp : Nat := 0
  gn : Bool := false
  act : State → Nat → Walker → State

/-- One instruction of a walker: outside the profile or illegal, the search ends; a guard that fails does
nothing (R250, R251). -/
def State.walk1 (s : State) (op : WalkOp) (id : Nat) : State :=
  let k := s.walkers.get {} id
  if !op.ok then s.walkerFault id
  else
    let sel := k.stack * 8 + 5
    let s := { s with baseDie := s.baseDie.set 0 sel (s.baseDie.get 0 sel + 1) }
    let k' := { k with pc := k.pc + BitVec.ofNat 64 op.size }
    let p := op.gp = 0 || k.p.getLsbD op.gp
    let s := { s with walkers := s.walkers.put id k' }
    if p != op.gn then op.act s id k' else s

/-- Issue by whichever agent runs: a split, a walker, or nobody. -/
def State.issue (s : State) (op : Op) (w : WalkOp) : State :=
  match s.who with
  | .none => s
  | .split gid sid => s.issueSplit op gid sid
  | .walker id => s.walk1 w id

/-- What walker code may not use (R81). -/
def noWalk : WalkOp := { ok := false, size := 4, act := fun s _ _ => s }

/-- The operations of the walker profile (R81). -/
def inProfile (xop : Nat) : Bool :=
  let op := xop % 64
  match xop / 64 with
  | 0 => op ≤ 5 || (8 ≤ op && op ≤ 11) || op = 13
  | 1 => true
  | 2 => op ≤ 3
  | 4 => op = 0 || op = 9
  | 14 => true
  | _ => false

/-- An encoded instruction: its extended opcode and fields, its length in bytes, the sub-code its encoding
breaks in core code, and whether walker code may run it. -/
structure Enc where
  xop : Nat
  size : Nat
  sub : Nat
  wok : Bool
  x : Ext

/-- An extended instruction (R33, R38, R81). -/
def Enc.ofExt (xop : Nat) (x : Ext) : Enc :=
  { xop := xop, size := if x.lit.isSome then 20 else 12,
    sub := lowestSub [x.sub false xop, if xop / 64 = 14 then 7 else 0],
    wok := inProfile xop && x.sub true xop = 0, x := x }

/-- A base instruction as the extended instruction it stands for (R36, R82). -/
def Enc.ofBase (form : Form) (xop : Nat) (mod : BitVec 10) (w : Base) : Enc :=
  { xop := xop, size := if w.lit.isSome then 12 else 4, sub := w.sub false form xop mod,
    wok := inProfile xop && w.sub true form xop mod = 0, x := w.expand form mod }

/-- One past the greatest window index a class-0 field touches; 0 for other classes and for tiles. -/
def topOf (cls : Cls) (idx : BitVec 8) (wide : Bool) (tiles : Nat) : Nat :=
  if cls = .v && tiles = 0 then idx.toNat + (if wide then 2 else 1) else 0

/-- One past the greatest window index an instruction names (R41). -/
def vTopOf (xop : Nat) (x : Ext) : Nat :=
  match shape xop x with
  | none => 0
  | some sh =>
    let movS : Bool := xop = 0x082 && bit 0 x.mod
    let f (r : SrcRule) (s : Src) : Nat :=
      if r.cls.isEmpty then 0 else topOf s.cls s.idx r.wide r.tiles
    let d := if sh.d.cls.isEmpty || (sh.d.orZero && x.d = Dst.zero) then 0
      else topOf x.d.cls x.d.idx sh.d.wide sh.d.tiles
    let a := if movS then 0 else f sh.a x.a
    let b := if sh.bZero && x.b = Src.zero then 0 else f sh.b x.b
    let c := match sh.c with
      | .third r => f r x.cSrc
      | _ => 0
    max (max d a) (max b c)

/-- The register keys a source field reads. -/
def srcKeys (g : Group) (e : Src × Bool) : List Nat := clsKeys g e.1.cls e.1.idx.toNat e.2

/-- The in ports among some source fields (R46). -/
def inPorts (l : List (Src × Bool)) : List Nat :=
  ((l.filter (fun e => e.1.cls = .port && e.1.idx.toNat ≤ 1)).map (fun e => e.1.idx.toNat)).eraseDups

/-- The out port a destination names (R46). -/
def outPorts (d : Dst) : List Nat :=
  if d.cls = .port && (d.idx = 2 || d.idx = 3) then [d.idx.toNat] else []

/-- The common part of an instruction's issue, from its fields: guard, stall count, literal, sub-codes,
window. -/
def Enc.op (e : Enc) (act : State → Run → State) : Op :=
  { sub := e.sub, size := e.size, stall := e.x.stall.toNat, gp := e.x.gp.toNat, gn := e.x.gn,
    lit := e.x.lit, vTop := vTopOf e.xop e.x, act := act }

/-- The same with the registers and ports it reads per field (field, 64-bit) and its destination. -/
def Enc.laneOp (e : Enc) (wd : Bool) (srcs : List (Src × Bool)) (act : State → Run → State) : Op :=
  { e.op act with
    reads := fun g => srcs.flatMap (srcKeys g),
    writes := fun g => clsKeys g e.x.d.cls e.x.d.idx.toNat wd,
    portsIn := inPorts srcs, portsOut := outPorts e.x.d }

/-- The common part of an instruction of the walker profile. -/
def Enc.walk (e : Enc) (act : State → Nat → Walker → State) : WalkOp :=
  { ok := e.wok, size := e.size, gp := e.x.gp.toNat, gn := e.x.gn, act := act }

/-- Registers a variable-latency destination scoreboards (R56). -/
def scoreOf (d : Dst) (wide : Bool) : Nat :=
  match d.cls with
  | .v | .o => if wide then 2 else 1
  | .g | .p => 1
  | _ => 0

/-- The same for an instruction whose result is scoreboarded. -/
def Enc.varOp (e : Enc) (wd : Bool) (srcs : List (Src × Bool)) (act : State → Run → State) : Op :=
  { e.laneOp wd srcs act with score := scoreOf e.x.d wd }

/-- The result function of a fixed-latency instruction evaluated in the effective lanes. -/
def evalLanes (eff : Mask) (f : Nat → Nat) : List (Nat × DWord) :=
  (lanesOf eff).map (fun i => (i, BitVec.ofNat 64 (f i)))

/-- A split's instruction put into a wait of the machine (R311). -/
def State.park (s : State) (r : Run) (w : Wait) (p : Pend) : State :=
  let g := s.group r.gid
  s.setGroup r.gid (g.setSplit r.sid { g.split r.sid with wait := w, pend := some p })

/-- The waiting record of an instruction. -/
def Run.pend (r : Run) (t : Target) : Pend :=
  { size := r.size, stall := r.stall, eff := r.eff, active := r.active, target := t, raised := r.raised }

/-- A waiting instruction takes effect: what `effect` does for one that issues (R33, R55, R232, R381). -/
def State.serve (s : State) (gid sid : Nat) (p : Pend) (memory ends : Bool) (act : State → Run → State) :
    State :=
  let g := s.group gid
  let r : Run := { gid := gid, sid := sid, pc := (g.split sid).pc, size := p.size, lit := none, eff := p.eff,
                   active := p.active, g := g, stall := p.stall, raised := p.raised }
  s.effect { sub := 0, size := p.size, stall := p.stall, memory := memory, ends := ends, act := act } r act

/-- An instruction issued by a split or a walker, as a step's outcome. -/
def State.run (s : State) (op : Op) (w : WalkOp) : Res := .next (s.issue op w)

end Sys2Proof.Machine
end

