-- ==== Sys2Proof/Machine/IntArith.lean ====
section
/-! DEFINITION. Per-lane integer work shared by classes 0 to 2, and the meanings of class 0 (R113 to R118), for
splits and for walkers. -/

namespace Sys2Proof.Machine

/-- i types are signed (R50). -/
def isSignedTy (t : Nat) : Bool := t ≤ 3 || t = 16

/-- A w-bit number as a signed or unsigned integer. -/
def numOf (isSigned : Bool) (w x : Nat) : Int :=
  if isSigned && 2 ^ (w - 1) ≤ x % 2 ^ w then (x % 2 ^ w : Nat) - (2 ^ w : Nat) else (x % 2 ^ w : Nat)

/-- wrap(x) (R115). -/
def wrapTo (w : Nat) (x : Int) : Nat := (x % (2 ^ w : Nat)).toNat

/-- The least and greatest values of a type. -/
def tyMin (isSigned : Bool) (w : Nat) : Int := if isSigned then -(2 ^ (w - 1) : Nat) else 0
def tyMax (isSigned : Bool) (w : Nat) : Int :=
  if isSigned then (2 ^ (w - 1) : Nat) - 1 else (2 ^ w : Nat) - 1

/-- clamp(x) (R115). -/
def clampTo (isSigned : Bool) (w : Nat) (x : Int) : Int :=
  min (max x (tyMin isSigned w)) (tyMax isSigned w)

/-- An exact result written: clamped under .sat, wrapped (R116, R117). -/
def settleInt (isSigned sat : Bool) (w : Nat) (x : Int) : Nat :=
  wrapTo w (if sat then clampTo isSigned w x else x)

/-- A per-lane computation: widths of D, A, B, C, how sources are read, the number of sources, the latency of
R55, and the result's bits from the sources' bits. -/
structure Alu where
  wd : Bool
  wa : Bool
  wb : Bool := false
  wc : Bool := false
  n : Nat
  how : As := .int
  howB : As := .int
  latency : Nat := 4
  f : Nat → Nat → Nat → Nat

/-- The source fields an Alu reads. -/
def Alu.srcs (u : Alu) (x : Ext) : List (Src × Bool) :=
  [(x.a, u.wa), (x.b, u.wb), (x.cSrc, u.wc)].take u.n

/-- The bits of a result as a register takes them: a 32-bit result extended by the type (R113, R114). -/
def Alu.result (u : Alu) (isSigned : Bool) (v : Nat) : DWord :=
  if u.wd then BitVec.ofNat 64 v else extend32 isSigned v

/-- The effect on a split's lanes (R39, R45, R116). -/
def Alu.core (u : Alu) (x : Ext) (s : State) (r : Run) : State :=
  let pv := s.portView r.gid
  let g := r.g
  let one (i : Nat) : Nat × DWord :=
    let a := readSrc g pv r.lit u.how u.wa x.a i
    let b := if 2 ≤ u.n then readSrc g pv r.lit u.howB u.wb x.b i else 0
    let c := if 3 ≤ u.n then readSrc g pv r.lit u.how u.wc x.cSrc i else 0
    (i, u.result (isSignedTy x.ty) (u.f a b c))
  s.writeFixed r.gid r.sid x.d u.wd u.latency ((lanesOf r.eff).map one)

/-- The effect on a walker (R114). -/
def Alu.walker (u : Alu) (x : Ext) (s : State) (id : Nat) (k : Walker) : State :=
  let a := walkSrc k x.lit u.how u.wa x.a
  let b := if 2 ≤ u.n then walkSrc k x.lit u.howB u.wb x.b else 0
  let c := if 3 ≤ u.n then walkSrc k x.lit u.how u.wc x.cSrc else 0
  { s with walkers := s.walkers.put id (walkWrite k x.d (u.result (isSignedTy x.ty) (u.f a b c))) }

/-- An instruction that computes per lane, for whoever issues it. -/
def Enc.alu (e : Enc) (u : Alu) (s : State) : Res :=
  s.run (e.laneOp u.wd (u.srcs e.x) (u.core e.x)) (e.walk (u.walker e.x))

/-- Width in bits of a type of R113. -/
def wOf (x : Ext) : Nat := if isWideTy x.ty then 64 else 32

/-- Two sources of the type, an exact result, .sat (R116). -/
def arith2 (x : Ext) (f : Int → Int → Int) : Alu :=
  let w := isWideTy x.ty
  let sg := isSignedTy x.ty
  { wd := w, wa := w, wb := w, n := 2,
    f := fun a b _ => settleInt sg x.d.sat (wOf x) (f (numOf sg (wOf x) a) (numOf sg (wOf x) b)) }

/-- Three sources of the type (R116). -/
def arith3 (x : Ext) (f : Int → Int → Int → Int) : Alu :=
  let w := isWideTy x.ty
  let sg := isSignedTy x.ty
  let n (a : Nat) : Int := numOf sg (wOf x) a
  { wd := w, wa := w, wb := w, wc := w, n := 3,
    f := fun a b c => settleInt sg x.d.sat (wOf x) (f (n a) (n b) (n c)) }

/-- One source of the type (R116). -/
def arith1 (x : Ext) (f : Int → Int) : Alu :=
  let w := isWideTy x.ty
  let sg := isSignedTy x.ty
  { wd := w, wa := w, n := 1,
    f := fun a _ _ => settleInt sg x.d.sat (wOf x) (f (numOf sg (wOf x) a)) }

def Enc.iadd (e : Enc) (s : State) : Res := e.alu (arith2 e.x (· + ·)) s
def Enc.isub (e : Enc) (s : State) : Res := e.alu (arith2 e.x (· - ·)) s
def Enc.imul (e : Enc) (s : State) : Res := e.alu (arith2 e.x (· * ·)) s

/-- The high half of the 2w-bit product (R116). -/
def Enc.imulh (e : Enc) (s : State) : Res :=
  e.alu (arith2 e.x (fun a b => (a * b) / (2 ^ wOf e.x : Nat))) s

def Enc.imad (e : Enc) (s : State) : Res := e.alu (arith3 e.x (fun a b c => a * b + c)) s
def Enc.imin (e : Enc) (s : State) : Res := e.alu (arith2 e.x min) s
def Enc.imax (e : Enc) (s : State) : Res := e.alu (arith2 e.x max) s
def Enc.iabs (e : Enc) (s : State) : Res := e.alu (arith1 e.x (fun a => if a < 0 then -a else a)) s
def Enc.ineg (e : Enc) (s : State) : Res := e.alu (arith1 e.x (fun a => -a)) s

/-- Division toward zero; −1, or all ones for an n type, for a zero divisor (R116, R118). -/
def divZero (a b : Int) : Int := if b = 0 then -1 else Int.tdiv a b
/-- The remainder with the sign of A; A for a zero divisor (R116, R118). -/
def remZero (a b : Int) : Int := if b = 0 then a else Int.tmod a b

/-- Σ over four bytes of products (R116 IDOT4). -/
def dot4 (sa sb : Bool) (a b : Nat) : Int :=
  (List.range 4).foldl
    (fun t j => t + numOf sa 8 (a / 2 ^ (8 * j)) * numOf sb 8 (b / 2 ^ (8 * j))) 0

/-- IDOT4: bytes signed by type, those of B the other way under .xs; clamped to i32 when any byte is signed,
else n32 (R116). DEDUCED, log 38. -/
def idot4 (x : Ext) : Alu :=
  let sa := isSignedTy x.ty
  let sb := sa != bit 0 x.mod
  let sg := sa || sb
  { wd := false, wa := false, n := 3,
    f := fun a b c => settleInt sg x.d.sat 32 (numOf sg 32 c + dot4 sa sb a b) }

/-- LEA: A + (ext(B, 32) << s), wrapping modulo 2^64 (R116). -/
def lea (x : Ext) : Alu :=
  { wd := true, wa := true, n := 2,
    f := fun a b _ => wrapTo 64 ((a : Int) + numOf (!bit 3 x.mod) 32 b * (2 ^ x.m20 : Nat)) }

def execIadd (x : Ext) (s : State) : Res := (Enc.ofExt 0x000 x).iadd s
def execIadd3 (x : Ext) (s : State) : Res :=
  (Enc.ofExt 0x001 x).alu (arith3 x (fun a b c => a + b + c)) s
def execIsub (x : Ext) (s : State) : Res := (Enc.ofExt 0x002 x).isub s
def execImul (x : Ext) (s : State) : Res := (Enc.ofExt 0x003 x).imul s
def execImulh (x : Ext) (s : State) : Res := (Enc.ofExt 0x004 x).imulh s
def execImad (x : Ext) (s : State) : Res := (Enc.ofExt 0x005 x).imad s
def execIdiv (x : Ext) (s : State) : Res :=
  (Enc.ofExt 0x006 x).alu { arith2 x divZero with latency := 16 } s
def execIrem (x : Ext) (s : State) : Res :=
  (Enc.ofExt 0x007 x).alu { arith2 x remZero with latency := 16 } s
def execImin (x : Ext) (s : State) : Res := (Enc.ofExt 0x008 x).imin s
def execImax (x : Ext) (s : State) : Res := (Enc.ofExt 0x009 x).imax s
def execIabs (x : Ext) (s : State) : Res := (Enc.ofExt 0x00A x).iabs s
def execIneg (x : Ext) (s : State) : Res := (Enc.ofExt 0x00B x).ineg s
def execIdot4 (x : Ext) (s : State) : Res := (Enc.ofExt 0x00C x).alu (idot4 x) s
def execLea (x : Ext) (s : State) : Res := (Enc.ofExt 0x00D x).alu (lea x) s

end Sys2Proof.Machine
end

