-- ==== Sys2Proof/Machine/Sreg.lean ====
section
/-! DEFINITION. The value of every special register of R231, by number. -/

namespace Sys2Proof.Machine

/-- A special register's value in a lane of a group (R231, R318, R372, R379). DEDUCED, log 36. -/
def State.sreg (s : State) (gid n lane : Nat) : DWord :=
  let g := s.group gid
  let w := s.wg g.wg
  let nat (k : Nat) : DWord := BitVec.ofNat 64 k
  match n with
  | 0x00 => nat lane
  | 0x01 => nat g.idx
  | 0x02 => nat w.wgid
  | 0x03 => nat (w.roles.toNat / 2 ^ (2 * g.idx) % 4)
  | 0x04 => nat w.ngrp
  | 0x05 => nat g.ctx
  | 0x06 => nat (coreOf gid + 256 * (slotOf gid % 4))
  | 0x08 => (g.shape.get 0 0).setWidth 64
  | 0x09 => (g.shape.get 0 1).setWidth 64
  | 0x0A => (g.shape.get 0 2).setWidth 64
  | 0x0B => (g.shape.get 0 3).setWidth 64
  | 0x0C => g.bucket.get 0 0
  | 0x0D => g.bucket.get 0 1
  | 0x0E => g.bucket.get 0 2
  | 0x0F => g.bucket.get 0 3
  | 0x10 => g.fpflags.setWidth 64
  | 0x11 => g.fpmode.setWidth 64
  | 0x12 => g.stallchk.setWidth 64
  | 0x13 => g.cancelled.setWidth 64
  | 0x14 => g.stepen.setWidth 64
  | 0x18 => nat g.winBase
  | 0x19 => nat g.winSize
  | 0x1A => nat g.alloc
  | 0x20 => match g.handler with
    | some h => h.cause.setWidth 64
    | none => 0
  | 0x21 => g.trapPc
  | 0x22 => g.trapLanes.setWidth 64
  | 0x23 => g.trapAddr
  | 0x24 => g.trapInfo
  | 0x25 => g.trapMask.setWidth 64
  | 0x26 => (s.ctx g.ctx).trapvec
  | 0x27 => g.trapSrc
  | 0x28 => nat s.time
  | 0x30 => g.dbgfocus.setWidth 64
  | _ => 0

end Sys2Proof.Machine
end

