-- ==== Sys2Proof/Machine/LogicMove.lean ====
section
/-! DEFINITION. Class 1, logic, shifts and bit fields (R119, R120), and class 2, compare, select, moves and
predicates (R121 to R124). -/

namespace Sys2Proof.Machine

/-- An operation on the bits of two sources of the type (R119). -/
def logic2 (x : Ext) (f : Nat → Nat → Nat) : Alu :=
  let w := isWideTy x.ty
  { wd := w, wa := w, wb := w, n := 2, how := .bits, howB := .bits, f := fun a b _ => f a b }

/-- An operation on one source of the type and a 32-bit B (R119). A negated B is inverted, as R44's row for shifts has it.
DESIGN CHOICE, log 96. -/
def shiftOp (x : Ext) (f : Nat → Nat → Nat) : Alu := { logic2 x f with wb := false }

/-- An operation on one source of the type (R119). -/
def logic1 (x : Ext) (f : Nat → Nat) : Alu :=
  let w := isWideTy x.ty
  { wd := w, wa := w, n := 1, how := .bits, f := fun a _ _ => f a }

/-- A count: a 32-bit result whatever the type (R113, R119). -/
def countOp (x : Ext) (f : Nat → Nat) : Alu := { logic1 x f with wd := false }

/-- A AND NOT B at width w. -/
def andNot (w a b : Nat) : Nat := a &&& (2 ^ w - 1 - b)
/-- A shifted left; 0 from the width up. -/
def shiftLeft (w a n : Nat) : Nat := if n < w then a * 2 ^ n % 2 ^ w else 0
/-- A shifted right with zeros; 0 from the width up. -/
def shiftRight (w a n : Nat) : Nat := if n < w then a / 2 ^ n else 0
/-- A shifted right with copies of its top bit. -/
def shiftArith (w a n : Nat) : Nat := wrapTo w (numOf true w a / (2 ^ min n w : Nat))
/-- A rotated left by n mod w. -/
def rotLeft (w a n : Nat) : Nat :=
  let k := n % w
  (a * 2 ^ k + a / 2 ^ (w - k)) % 2 ^ w
/-- The number of 1 bits. -/
def popCount (w a : Nat) : Nat := ((List.range w).filter (fun i => a / 2 ^ i % 2 = 1)).length
/-- Zeros above the highest 1 bit; w of 0. -/
def leadZeros (w a : Nat) : Nat := if a = 0 then w else w - 1 - Nat.log2 a
/-- Zeros below the lowest 1 bit; w of 0. -/
def trailZeros (w a : Nat) : Nat :=
  ((List.range w).find? (fun i => a / 2 ^ i % 2 = 1)).getD w
/-- Bit j moved to bit w − 1 − j. -/
def reverseBits (w a : Nat) : Nat :=
  (List.range w).foldl (fun t j => t + a / 2 ^ j % 2 * 2 ^ (w - 1 - j)) 0

/-- The length a bit-field control word gives at width w (R120). -/
def fieldLen (w c : Nat) : Nat :=
  let pos := c % 256
  if pos < w then min (c / 256 % 256) (w - pos) else 0

/-- BFX (R120). -/
def bitExtract (isSigned : Bool) (w a c : Nat) : Nat :=
  let n := fieldLen w c
  if n = 0 then 0 else wrapTo w (numOf isSigned n (a / 2 ^ (c % 256)))

/-- BFI (R120). -/
def bitInsert (w a b c : Nat) : Nat :=
  let n := fieldLen w c
  let pos := c % 256
  if n = 0 then b
  else b / 2 ^ (pos + n) * 2 ^ (pos + n) + a % 2 ^ n * 2 ^ pos + b % 2 ^ pos

def Enc.and (e : Enc) (s : State) : Res := e.alu (logic2 e.x (· &&& ·)) s
def Enc.or (e : Enc) (s : State) : Res := e.alu (logic2 e.x (· ||| ·)) s
def Enc.xor (e : Enc) (s : State) : Res := e.alu (logic2 e.x (· ^^^ ·)) s
def Enc.andn (e : Enc) (s : State) : Res := e.alu (logic2 e.x (andNot (wOf e.x))) s
def Enc.not (e : Enc) (s : State) : Res := e.alu (logic1 e.x (fun a => 2 ^ wOf e.x - 1 - a)) s
def Enc.shl (e : Enc) (s : State) : Res := e.alu (shiftOp e.x (shiftLeft (wOf e.x))) s
def Enc.shr (e : Enc) (s : State) : Res := e.alu (shiftOp e.x (shiftRight (wOf e.x))) s
def Enc.sar (e : Enc) (s : State) : Res := e.alu (shiftOp e.x (shiftArith (wOf e.x))) s
def Enc.rotl (e : Enc) (s : State) : Res := e.alu (shiftOp e.x (rotLeft (wOf e.x))) s
def Enc.popc (e : Enc) (s : State) : Res := e.alu (countOp e.x (popCount (wOf e.x))) s

def execAnd (x : Ext) (s : State) : Res := (Enc.ofExt 0x040 x).and s
def execOr (x : Ext) (s : State) : Res := (Enc.ofExt 0x041 x).or s
def execXor (x : Ext) (s : State) : Res := (Enc.ofExt 0x042 x).xor s
def execAndn (x : Ext) (s : State) : Res := (Enc.ofExt 0x043 x).andn s
def execNot (x : Ext) (s : State) : Res := (Enc.ofExt 0x044 x).not s
def execShl (x : Ext) (s : State) : Res := (Enc.ofExt 0x045 x).shl s
def execShr (x : Ext) (s : State) : Res := (Enc.ofExt 0x046 x).shr s
def execSar (x : Ext) (s : State) : Res := (Enc.ofExt 0x047 x).sar s
def execRotl (x : Ext) (s : State) : Res := (Enc.ofExt 0x048 x).rotl s
def execPopc (x : Ext) (s : State) : Res := (Enc.ofExt 0x049 x).popc s
def execClz (x : Ext) (s : State) : Res :=
  (Enc.ofExt 0x04A x).alu (countOp x (leadZeros (wOf x))) s
def execCtz (x : Ext) (s : State) : Res :=
  (Enc.ofExt 0x04B x).alu (countOp x (trailZeros (wOf x))) s
def execBrev (x : Ext) (s : State) : Res :=
  (Enc.ofExt 0x04C x).alu (logic1 x (reverseBits (wOf x))) s
def execBfx (x : Ext) (s : State) : Res :=
  (Enc.ofExt 0x04D x).alu (shiftOp x (bitExtract (isSignedTy x.ty) (wOf x))) s
def execBfi (x : Ext) (s : State) : Res :=
  (Enc.ofExt 0x04E x).alu { logic2 x (fun a _ => a) with n := 3, f := bitInsert (wOf x) } s

/-- The condition of a comparison by its code (R121). -/
def compareInt (c : Nat) (a b : Int) : Bool :=
  match c with
  | 0 => a = b
  | 1 => a ≠ b
  | 2 => a < b
  | 3 => a ≤ b
  | 4 => b < a
  | _ => b ≤ a

/-- ICMP: all ones or zero (R121). -/
def icmp (x : Ext) : Alu :=
  let w := isWideTy x.ty
  let n (a : Nat) : Int := numOf (isSignedTy x.ty) (wOf x) a
  { wd := false, wa := w, wb := w, n := 2,
    f := fun a b _ => if compareInt x.m20 (n a) (n b) then 0xFFFF_FFFF else 0 }

/-- ISEL: A where C is not zero, else B (R122). -/
def isel (x : Ext) : Alu :=
  { logic2 x (fun a _ => a) with n := 3, f := fun a b c => if c ≠ 0 then a else b }

/-- The special-register form of MOV (R123): each lane its own LANEID, every other register a uniform
value. -/
def movSreg (x : Ext) (s : State) (r : Run) : State :=
  let w := isWideTy x.ty
  let value (i : Nat) : DWord :=
    let v := s.sreg r.gid x.a.idx.toNat i
    if w then v else extend32 (isSignedTy x.ty) (v.toNat % 2 ^ 32)
  s.writeFixed r.gid r.sid x.d w 4 ((lanesOf r.eff).map (fun i => (i, value i)))

/-- MOV (R123). A g destination takes the lowest effective lane's value. -/
def Enc.mov (e : Enc) (s : State) : Res :=
  if bit 0 e.x.mod then
    s.run (e.laneOp (isWideTy e.x.ty) [] (movSreg e.x)) (e.walk (fun s _ _ => s))
  else e.alu (logic1 e.x id) s

/-- A predicate operation on 0 or 1 (R124). -/
def predOp (n : Nat) (f : Nat → Nat → Nat) : Alu :=
  { wd := false, wa := false, n := n, how := .bits, howB := .bits, f := fun a b _ => f a b }

/-- PMOV: a copy, a mask of the effective lanes, or a bit of A by lane (R124). -/
def pmov (x : Ext) (s : State) (r : Run) : State :=
  let pv := s.portView r.gid
  let a (i : Nat) : Nat := readSrc r.g pv r.lit .bits false x.a i
  let packed : Mask := maskOf (fun i => Mask.has r.eff i && a i = 1)
  let value (i : Nat) : DWord :=
    match x.m10 with
    | 0 => BitVec.ofNat 64 (a i)
    | 1 => packed.setWidth 64
    | _ => BitVec.ofNat 64 (a i / 2 ^ i % 2)
  s.writeFixed r.gid r.sid x.d false 4 ((lanesOf r.eff).map (fun i => (i, value i)))

def execIcmp (x : Ext) (s : State) : Res := (Enc.ofExt 0x080 x).alu (icmp x) s
def execIsel (x : Ext) (s : State) : Res := (Enc.ofExt 0x081 x).alu (isel x) s
def execMov (x : Ext) (s : State) : Res := (Enc.ofExt 0x082 x).mov s
def execMovl (x : Ext) (s : State) : Res := (Enc.ofExt 0x083 x).alu (logic1 x id) s
def execPand (x : Ext) (s : State) : Res := (Enc.ofExt 0x084 x).alu (predOp 2 (· &&& ·)) s
def execPor (x : Ext) (s : State) : Res := (Enc.ofExt 0x085 x).alu (predOp 2 (· ||| ·)) s
def execPxor (x : Ext) (s : State) : Res := (Enc.ofExt 0x086 x).alu (predOp 2 (· ^^^ ·)) s
def execPnot (x : Ext) (s : State) : Res :=
  (Enc.ofExt 0x087 x).alu (predOp 1 (fun a _ => 1 - a)) s
def execPmov (x : Ext) (s : State) : Res :=
  let e := Enc.ofExt 0x088 x
  s.run (e.laneOp false [(x.a, false)] (pmov x)) noWalk

end Sys2Proof.Machine
end

