-- ==== Sys2Proof/Machine/Lanes.lean ====
section
/-! DEFINITION. Class 3: votes, shuffles, reductions, scans (R125 to R127) and exchanges between groups (R128,
R129, R301). -/

namespace Sys2Proof.Machine

/-- VOTE (R125): the predicate reduced over the effective lanes. -/
def vote (x : Ext) (s : State) (r : Run) : State :=
  let p (i : Nat) : Bool := readSrc r.g r.lanes r.lit .bits false x.a i = 1
  let l := lanesOf r.eff
  let v : DWord :=
    match x.m10 with
    | 0 => if l.all p then 1 else 0
    | 1 => if l.any p then 1 else 0
    | 2 => if l.all p || l.all (fun i => !p i) then 1 else 0
    | _ => (maskOf (fun i => Mask.has r.eff i && p i)).setWidth 64
  s.writeFixed r.gid r.sid x.d false 8 (spread r.eff v)

/-- The source lane of SHFL (R126). -/
def shflLane (mode b i : Nat) : Nat :=
  match mode with
  | 0 => b % 32
  | 1 => if i < b then i else i - b
  | 2 => if 31 < i + b then i else i + b
  | _ => i ^^^ (b % 32)

/-- A result of the instruction's type as its register takes it (R113). -/
def typed (x : Ext) (v : Nat) : DWord :=
  if isWideTy x.ty then BitVec.ofNat 64 v else extend32 (isSignedTy x.ty) v

/-- SHFL (R126). A negated B is inverted, as R44's row for lane operations has it. DESIGN CHOICE, log 96. -/
def shfl (x : Ext) (s : State) (r : Run) : State :=
  let pv := s.portView r.gid
  let w := isWideTy x.ty
  let one (i : Nat) : Nat × DWord :=
    let b := readSrc r.g pv r.lit .bits false x.b i
    (i, typed x (readSrc r.g pv r.lit .bits w x.a (shflLane x.m10 b i)))
  s.writeFixed r.gid r.sid x.d w 8 ((lanesOf r.eff).map one)

/-- The operation of REDUX and SCAN at the instruction's type (R127). -/
def combine (x : Ext) (a b : Nat) : Nat :=
  let n (a : Nat) : Int := numOf (isSignedTy x.ty) (wOf x) a
  match x.m20 with
  | 0 => (a + b) % 2 ^ wOf x
  | 1 => if n b < n a then b else a
  | 2 => if n a < n b then b else a
  | 3 => a &&& b
  | 4 => a ||| b
  | _ => a ^^^ b

/-- The identity of an operation (R127). -/
def identityOf (x : Ext) : Nat :=
  let w := wOf x
  match x.m20 with
  | 1 => wrapTo w (tyMax (isSignedTy x.ty) w)
  | 2 => wrapTo w (tyMin (isSignedTy x.ty) w)
  | 3 => 2 ^ w - 1
  | _ => 0

/-- Running combinations of a list of lane values: (lane, before, through). -/
def scanAux (x : Ext) (acc : Nat) : List (Nat × Nat) → List (Nat × Nat × Nat)
  | [] => []
  | (i, a) :: t => (i, acc, combine x acc a) :: scanAux x (combine x acc a) t

/-- The values of A in the effective lanes. -/
def laneVals (x : Ext) (s : State) (r : Run) : List (Nat × Nat) :=
  let pv := s.portView r.gid
  (lanesOf r.eff).map (fun i => (i, readSrc r.g pv r.lit .bits (isWideTy x.ty) x.a i))

/-- REDUX (R127). -/
def redux (x : Ext) (s : State) (r : Run) : State :=
  let v := (laneVals x s r).foldl (fun t e => combine x t e.2) (identityOf x)
  s.writeFixed r.gid r.sid x.d (isWideTy x.ty) 8 (spread r.eff (typed x v))

/-- SCAN, or SCAN.excl (R127). -/
def scan (x : Ext) (s : State) (r : Run) : State :=
  let l := scanAux x (identityOf x) (laneVals x s r)
  s.writeFixed r.gid r.sid x.d (isWideTy x.ty) 8
    (l.map (fun e => (e.1, typed x (if bit 3 x.mod then e.2.1 else e.2.2))))

/-- The slice whose rendezvous buffer a tag selects (R301). -/
def tagSlice (t : Word) : Nat :=
  ((t ^^^ (t >>> 5) ^^^ (t >>> 10) ^^^ (t >>> 15) ^^^ (t >>> 20) ^^^ (t >>> 25) ^^^ (t >>> 30)) &&&
    31).toNat

/-- The packet of a request or of its reply, on channel 2: 3 flits for n32, 5 for n64 (R301). -/
def Xchg.cargo (q : Xchg) : Cargo := .message (if q.wide then 256 else 128)

/-- The request's packet leaves its cluster for the slice of the tag; the reply's comes back (R301). -/
def State.sendXchg (s : State) (q : Xchg) : State :=
  s.post q.cargo (coreOf q.gid / 4) (tagSlice q.tag) (coreOf q.gid % 4) (pathUp (coreOf q.gid / 4) (tagSlice q.tag))
    (some q.reply)
def State.answerXchg (s : State) (q : Xchg) : State :=
  s.post q.cargo (coreOf q.gid / 4) (tagSlice q.tag) 0 (pathDown (coreOf q.gid / 4) (tagSlice q.tag))

/-- XCHG: a request with the tag, the width, the effective lanes and every lane's A is sent (R128, R301). -/
def xchg (x : Ext) (s : State) (r : Run) : State :=
  let w := isWideTy x.ty
  let t := targetOf (s.group r.gid) (s.gens r.gid) x.d w
  let (id, s) := s.nextId
  let q : Xchg :=
    { gid := r.gid, sid := r.sid, target := t, ctx := r.g.ctx,
      tag := BitVec.ofNat 32 (readUni r.g r.lit .bits false x.b), wide := w, mask := r.eff,
      vals := (laneVals x s r).map (fun e => (e.1, BitVec.ofNat 64 e.2)), reply := id, stage := 0 }
  let s := { (s.expect r.gid r.sid id t).sendXchg q with xchgs := s.xchgs ++ [q] }
  match t with
  | .port i =>
    let g := s.group r.gid
    let a := { g.portAcc i with id := id, kind := .push, po := 1#4 <<< r.sid }
    if i = 2 || i = 3 then s.setGroup r.gid { g with accs := g.accs ++ [{ a with after := s.afterOf g r.sid a }] } else s
  | _ => s

/-- What one partner receives from the other (R128, R301). -/
def xchgResult (own other : Xchg) : List (Nat × DWord) :=
  let fit (v : DWord) : DWord := if own.wide then v else v &&& 0xFFFF_FFFF
  own.vals.map (fun e =>
    match other.vals.find? (fun o => o.1 = e.1) with
    | some o => (e.1, fit o.2)
    | none => e)

/-- A matched request's reply. -/
def Xchg.answer (own other : Xchg) : Reply :=
  { id := own.reply, split := own.sid, target := own.target, vals := xchgResult own other }

/-- The first pair among the requests of one slice in arrival order: a buffered one (the first 64) and a
later one of the same context and tag (R128, R129, R301). DEDUCED, log 41. -/
def firstPair : Nat → List Xchg → Option (Xchg × Xchg)
  | _, [] => none
  | 0, _ => none
  | n + 1, a :: t =>
    match t.find? (fun b => b.ctx = a.ctx && b.tag = a.tag) with
    | some b => some (a, b)
    | none => firstPair n t

/-- Requests paired as long as two pair. -/
def State.pairXchg : Nat → Nat → State → State
  | 0, _, s => s
  | n + 1, h, s =>
    match firstPair 64 (s.xchgs.filter (fun q => q.stage = 1 && tagSlice q.tag = h)) with
    | none => s
    | some (a, b) =>
      let done (q : Xchg) : Xchg :=
        if q.reply = a.reply || q.reply = b.reply then { q with stage := 2 } else q
      let s := { s with xchgs := s.xchgs.map done }
      let s := (s.answerXchg a).answerXchg b
      State.pairXchg n h ((s.reply a.gid (a.answer b)).reply b.gid (b.answer a))

/-- Requests withdrawn: where that frees buffer entries, the held requests are served in arrival order (R129). -/
def State.withdraw (s : State) (gone : Xchg → Bool) : State :=
  let l := s.xchgs.filter (fun q => !gone q)
  let freed := (s.xchgs.filter (fun q => q.stage = 1 && gone q)).map (fun q => tagSlice q.tag)
  freed.foldl (fun s h => s.pairXchg l.length h) { s with xchgs := l }

/-- A request sent before another from the same core to the same slice: they keep their order on channel 2 (R301). -/
def Xchg.follows (q : Xchg) (p : Xchg) : Bool :=
  p.stage = 0 && coreOf p.gid = coreOf q.gid && tagSlice p.tag = tagSlice q.tag

/-- XCHG_REQUEST_ARRIVAL: a sent request whose packet the fabric has delivered reaches its slice, after those its core sent
there before it: it pairs, or waits in the buffer, or is held while the buffer is full, in arrival order (R128, R129, R301). -/
def execXchgRequestArrival (k : Nat) (s : State) : Res :=
  match s.xchgs[k]? with
  | none => .next s
  | some q =>
    if q.stage ≠ 0 || s.onTheWay q.reply || (s.xchgs.take k).any q.follows then .next s
    else
      let l := s.xchgs.eraseIdx k ++ [{ q with stage := 1 }]
      .next ({ s with xchgs := l }.pairXchg l.length (tagSlice q.tag))

def execVote (x : Ext) (s : State) : Res :=
  s.run ((Enc.ofExt 0x0C0 x).laneOp false [(x.a, false)] (vote x)) noWalk
def execShfl (x : Ext) (s : State) : Res :=
  let w := isWideTy x.ty
  s.run ((Enc.ofExt 0x0C1 x).laneOp w [(x.a, w), (x.b, false)] (shfl x)) noWalk
def execRedux (x : Ext) (s : State) : Res :=
  let w := isWideTy x.ty
  s.run ((Enc.ofExt 0x0C2 x).laneOp w [(x.a, w)] (redux x)) noWalk
def execScan (x : Ext) (s : State) : Res :=
  let w := isWideTy x.ty
  s.run ((Enc.ofExt 0x0C3 x).laneOp w [(x.a, w)] (scan x)) noWalk

/-- XCHG (R128, R129): at most one outstanding per group; a second waits before issue. -/
def execXchg (x : Ext) (s : State) : Res :=
  let w := isWideTy x.ty
  let e := Enc.ofExt 0x0C4 x
  s.run { e.varOp w [(x.a, w), (x.b, false)] (xchg x) with
    ends := true
    held := fun s r => if s.xchgs.any (fun q => q.gid = r.gid) then some (1, s) else none } noWalk

end Sys2Proof.Machine
end

