-- ==== Sys2Proof/Machine/ControlSpace.lean ====
section
/-! DEFINITION. Control space: its registers and tables, who reaches them, what their writes do (R27, R299, R324, R337,
R339, R341, R353, R356, R357, R376 to R379, R385, R387, R392 to R394). -/

namespace Sys2Proof.Machine

/-! ### Registers of a context's block -/

/-- The fabric weight register (R299): all zero is ignored. -/
def Context.setWeights (c : Context) (v : Word) : Context :=
  if v &&& 0xFFFF = 0 then c else { c with weights := v &&& 0xFFFF }

/-- The scheduling register (R324): a zero field is ignored. -/
def Context.setSched (c : Context) (v : DWord) : Context :=
  if bits 63 52 v = 0 || bits 51 40 v = 0 || bits 39 20 v = 0 || bits 3 0 v = 0 then c
  else { c with sched := v &&& 0xFFFF_FFFF_FFF0_000F }

/-- The migration control register (R341): a zero PROM or WIN is ignored; FREE is the pool's size. -/
def Context.setMigration (c : Context) (v : DWord) : Context :=
  if bits 63 48 v = 0 || bits 47 36 v = 0 then c else { c with migration := v &&& 0xFFFF_FFF0_0000_0001 }
def Context.migrationReg (c : Context) : DWord := c.migration ||| BitVec.ofNat 64 (2 * c.pool.length)

/-- A frame granted to the context's pool: an HBM page, of either window that names one; a pool holds at most 65,535, those that
promoted pages have now among them (R341). DESIGN CHOICE, log 69. -/
def State.grantFrame (s : State) (ctx pa : Nat) : State :=
  let c := s.ctx ctx
  if (s.window pa = some 0 || s.window pa = some 1) && pa % 65536 = 0 &&
      c.pool.length + c.promoted.length + (s.moves.filter (fun m => m.ctx = ctx && !m.down)).length < 65535 then
    s.setCtx ctx { c with pool := c.pool ++ [pa] }
  else s

/-- A shootdown of the entry that translates an address begins (R339). -/
def State.startShootdown (s : State) (ctx va : Nat) : State :=
  let c := s.ctx ctx
  s.setCtx ctx { c with shootdowns := c.shootdowns ++ [va] }

/-- A queue that may be bound to a queue pair: the checks of R214 for the context, and scope .sys (R356); no launch queue,
since work enters by ENQ waybills and QENQ alone (R4, R392). DEDUCED, log 81. -/
def State.bindable (s : State) (ctx va : Nat) : Bool :=
  match s.settledPa ctx 1 va with
  | some pa =>
    let bs := s.peekBytes pa 64
    (queueFails bs ctx (some 2) false false).isNone && !(QBlock.read bs).lq && !s.supervisorBlock ctx pa
  | none => false

/-- Entry q of the queue-pair bindings, its low half written (R356, R357): a refused queue leaves V 0 and sets ERR. -/
def State.bindQp (s : State) (ctx q : Nat) (v : DWord) : State :=
  let c := s.ctx ctx
  let k := 0x10000 + 2 * q
  let ok := s.bindable ctx (c.tables.get 0 (k + 1)).toNat
  let e : DWord := if bit 0 v then (if ok then 1 else 2) else 0
  s.setCtx ctx { c with tables := c.tables.set 0 k e }

/-! ### Debug (R378, R379) -/

/-- RESUME: the halt line falls; every engine goes on. -/
def State.resume (s : State) (ctx : Nat) : State :=
  let c := s.ctx ctx
  if c.debugHalt then
    let go (g : Group) : Group := { g with splits := g.splits.map (fun e => (e.1, { e.2 with atBreak := false })) }
    let s : State := s.setCtx ctx { c with halted := false, debugHalt := false, stopping := [], stepReq := none }.settleSteps
    let s : State := { s with groups := s.groups.map (fun e => (e.1, if e.2.ctx = ctx then go e.2 else e.2)) }
    (s.groups.filter (fun e => e.2.live && e.2.ctx = ctx)).foldl (fun s e => s.deliver e.1) s
  else s

/-- HALT: a debug halt when DBGEN is 1, else cause 0xC3 (R375, R378). DEDUCED, log 23. -/
def State.haltRequest (s : State) (ctx : Nat) : State :=
  if bit 0 (s.ctx ctx).debug then s.haltDebug ctx 809 else s.halt ctx 0xC3 0 809

/-- The focused group (R378), and the split that STEP advances (R262). -/
def Context.focus (c : Context) : Nat := (bits 31 25 c.debug * 4 + bits 24 23 c.debug) * 16 + bits 22 19 c.debug

/-- The instruction of a group's DBGFOCUS split can be stepped: the split exists, is not parked, and does not wait
before issue (R262), nor for a handler's end (R365). -/
def State.canStep (s : State) (ctx gid : Nat) : Bool :=
  let g := s.group gid
  let x := g.split g.dbgfocus.toNat
  g.live && g.ctx = ctx && g.dbgfocus.toNat < 4 && x.live && !x.parked && g.handler.all (fun h => h.split = g.dbgfocus.toNat) &&
    (match x.wait with | .none | .retry _ => true | _ => false)

/-- A STEP of a group is under way (R262). -/
def State.steps (s : State) (gid : Nat) : Bool :=
  let c := s.ctx (s.group gid).ctx
  c.stepReq.isSome && c.focus = gid

/-- STEP: one instruction of the focused split is to issue, with STEPS set by what it did; a step that can issue
nothing reports 0 (R262, R379). -/
def State.stepRequest (s : State) (ctx : Nat) : State :=
  let c := (s.ctx ctx).setSteps 0
  if !c.debugHalt || !c.stopping.isEmpty then s
  else s.setCtx ctx { c with stepReq := if s.canStep ctx c.focus then some none else none }

/-- The debug control register written. -/
def State.debugWrite (s : State) (ctx : Nat) (m v : DWord) : State :=
  let c := s.ctx ctx
  let keep : DWord := 0x0000_0000_FFF8_0001 &&& m
  let s := s.setCtx ctx { c with debug := (c.debug &&& ~~~keep) ||| (v &&& keep) }
  let s := if bit 1 (v &&& m) then s.haltRequest ctx else s
  let s := if bit 2 (v &&& m) then s.resume ctx else s
  if bit 3 (v &&& m) then s.stepRequest ctx else s

/-! ### Release (R376) -/

/-- A slot without a context's groups. -/
def Slot.without (x : Slot) (gone : Nat → Bool) : Slot :=
  { x with claims := x.claims.filter (fun c => !gone c.gid), rotation := x.rotation.filter (fun e => !gone e.1) }

/-! ### Search admission counters (R347) -/

/-- The snapshot of a search. -/
def Search.snap (q : Search) : Nat := field q.desc 287 256

/-- LIVE and OAS of an index (R347). -/
def State.indexLive (s : State) (ipa : Nat) : List Search :=
  (s.searches.filter (fun e => e.2.admitted && e.2.ipa = ipa)).map (·.2)
def State.indexOas (s : State) (ipa : Nat) : Nat :=
  (s.indexLive ipa).foldl (fun m q => min m q.snap) 0xFFFF_FFFF

/-- Mirror pair j of a context: index record address, mirror address (R27, R347). -/
def Context.mirror (c : Context) (j : Nat) : Nat × Nat :=
  ((c.tables.get 0 (0x400 + 2 * j)).toNat, (c.tables.get 0 (0x400 + 2 * j + 1)).toNat)

/-- One mirror pair of a context at a change of an index (R347): OAS and LIVE as one store at .dev at the mirror's home slice. An
address that does not translate halts the context (R26). DEDUCED, log 74. -/
def State.storeMirror (ipa v : Nat) (s : State) (e : Nat × Nat × Nat) : State :=
  let (ctx, idx, mir) := e
  let fault (want va : Nat) : Option (BitVec 8) := match s.translate ctx true false want va with
    | .fault c => some c
    | _ => none
  if idx = 0 then s
  else
    match fault 0 idx, s.settledPa ctx 0 idx with
    | some c, _ => s.halt ctx c (BitVec.ofNat 64 idx) 809
    | none, none => s
    | none, some pa =>
      if pa ≠ ipa || mir % 8 ≠ 0 then s
      else
        match fault 1 mir, s.settledPa ctx 1 mir with
        | some c, _ => s.halt ctx c (BitVec.ofNat 64 mir) 809
        | none, none => s
        | none, some pm => s.homeWrite (pm / 32) (byteMask (pm % 32) 8) ((BitVec.ofNat 256 v) <<< (8 * (pm % 32)))

/-- The mirrors of an index stored (R347). -/
def State.storeMirrors (s : State) (ipa : Nat) : State :=
  let v := s.indexOas ipa + 2 ^ 32 * (s.indexLive ipa).length
  (s.ctxs.flatMap (fun e => (List.range 64).map (fun j => (e.1, e.2.mirror j)))).foldl (State.storeMirror ipa v) s

/-- Everything a context holds freed (R376): cores, slots, engine state, save records, counters, launches. -/
def State.release (s : State) (ctx : Nat) : State :=
  let gone (i : Nat) : Bool := (s.group i).ctx = ctx && (s.group i).live
  let mine (w : Nat) : Bool := (s.wg w).ctx = ctx
  let core (c : Core) : Core :=
    { c with
      copies := c.copies.filter (fun k => k.ctx ≠ ctx), matrix := c.matrix.filter (fun k => !mine k.wg),
      near := c.near.filter (fun k => k.ctx ≠ ctx),
      hold := match c.hold with | some h => if gone h.gid then none else some h | none => none }
  let dead (w : Nat) : Bool := (s.search (s.walker w).search).ctx = ctx
  let c := s.ctx ctx
  let indexes := ((s.searches.filter (fun e => e.2.ctx = ctx && e.2.admitted)).map (·.2.ipa)).eraseDups
  let s : State := { s with
    groups := s.groups.filter (fun e => e.2.ctx ≠ ctx), wgs := s.wgs.filter (fun e => e.2.ctx ≠ ctx),
    slots := s.slots.map (fun (e : Nat × Slot) => (e.1, e.2.without gone)),
    cores := s.cores.map (fun (e : Nat × Core) => (e.1, core e.2)),
    saved := s.saved.filter (fun v => v.wg.ctx ≠ ctx), launches := s.launches.filter (fun e => e.2.ctx ≠ ctx),
    waiters := s.waiters.filter (fun w => !gone w.gid), enqs := s.enqs.filter (fun e => !gone e.gid),
    arrivals := s.arrivals.filter (fun a => a.ctx ≠ ctx),
    msgs := s.msgs.filter (fun m => !dead m.walker), stops := s.stops.filter (fun m => !dead m.walker),
    walkers := s.walkers.filter (fun e => (s.search e.2.search).ctx ≠ ctx),
    searches := s.searches.filter (fun e => e.2.ctx ≠ ctx) }
  let t := (s.withdraw (fun q => q.ctx = ctx)).setCtx ctx { c with
    halted := false, stopping := [], live := false, counters := [], preemptEnd := none, stepReq := none }
  indexes.foldl State.storeMirrors t

/-- Bit 0 of a context's control register written by the owner context (R376, R394): a context that has halted, and
whose engines have all stopped, is released. DEDUCED, log 23. -/
def State.releaseWrite (s : State) (writer ctx : Nat) : State :=
  let c := s.ctx ctx
  if writer = s.owner && c.halted && !c.debugHalt && c.stopping.isEmpty then s.release ctx else s

/-! ### Device-wide registers -/

/-- Resident workgroups stand in a cluster (R393). -/
def State.clusterBusy (s : State) (cl : Nat) : Bool := s.wgs.any (fun e => e.2.core / 4 = cl)

/-- A byte of the partition table written (R393). -/
def State.assign (s : State) (cl : Nat) (v : BitVec 8) : State :=
  let v := v &&& 0x87
  let k := s.cluster cl
  if 32 ≤ cl || (k.owner ≠ v && s.clusterBusy cl) then s else s.setCluster cl { k with owner := v }

/-- A trigger of Camp (R387): placement stops, and every resident workgroup of every context that has not halted is
to be saved. A trigger during entry, or in Camp, has no further effect. DEDUCED, log 18. `board`: the trigger is the board's,
after which a low warning input ends Camp (R389). -/
def State.campTrigger (s : State) (board : Bool := false) : State :=
  if s.power.entering || s.power.state = .camp then s
  else
    let take (w : Workgroup) : Workgroup :=
      if (s.ctx w.ctx).dead then w else { w with preempt := some (3, s.time) }
    let power := { s.power with entering := true, state := .run, campByWarning := s.power.warning || board }
    { s with power := power, wgs := s.wgs.map (fun e => (e.1, take e.2)) }

/-- A power state's code (R385). -/
def PowerState.code : PowerState → Nat
  | .run => 0
  | .idle1 => 1
  | .idle2 => 2
  | .idle3 => 3
  | .camp => 4

/-- The power control register (R385). -/
def Power.reg (p : Power) : DWord :=
  BitVec.ofNat 64 (p.campcnt.toNat * 2 ^ 48 + p.lastDeep * 2 ^ 33 + p.ltol.toNat)

def State.powerWrite (s : State) (m v : DWord) : State :=
  let p := s.power
  let keep : BitVec 20 := m.setWidth 20
  let s := { s with power := { p with ltol := (p.ltol &&& ~~~keep) ||| (v.setWidth 20 &&& keep) } }
  if bit 32 (v &&& m) then s.campTrigger else s

/-- A read of the power control register clears LAST (R385). -/
def State.clearLast (s : State) : State := { s with power := { s.power with lastDeep := 0 } }

/-- The key of the bank error register at an address of R368. -/
def bankErrKey (pa : Nat) : Option Nat :=
  let o := pa - 0x0440_0000_0000
  let (stack, unit, b) := (o / 2 ^ 20, o % 2 ^ 20 / 256, o % 256 / 8)
  if 0x0440_0000_0000 ≤ pa && stack < 8 && unit < 64 then some (stack * 2048 + unit * 32 + b) else none

/-- The device configuration (R27). -/
def State.configuration (s : State) : List Byte :=
  let list := (List.range 16).flatMap (fun i => toBytes 2 (s.mgmtList.getD i 0xFFFF).toNat)
  toBytes 2 s.device.toNat ++ toBytes 2 s.live ++ toBytes 1 s.populated ++ toBytes 1 s.owner ++ [0, 0] ++
    toBytes 6 s.mac0.toNat ++ [0, 0] ++ toBytes 6 s.mac1.toNat ++ List.replicate 10 0 ++ list

/-! ### Stop records (R377) -/

/-- What a stop record says of an engine. -/
structure StopRecord where
  lastPc : Nat := 0
  tstop : Nat
  skid : Nat := 0
  opened : Nat := 0
  groups : Nat := 0
  valid : Bool := false

/-- Its 512 bits, in eight words. -/
def StopRecord.words (r : StopRecord) (ctx engine : Nat) (c : Context) : List DWord :=
  let dbg := c.records = some true
  let faddr := ((c.faddrs.find? (fun e => e.1 = engine)).map (·.2)).getD 0
  let w (n : Nat) : DWord := BitVec.ofNat 64 n
  [w ((if r.valid then 1 else 0) + (if c.origin = engine then 2 else 0) + (if dbg then 4 else 0) +
      2 ^ 21 * ctx + (if dbg then 0 else 2 ^ 24 * c.cause.toNat) + 2 ^ 32 * engine),
   0,
   w (r.groups * 2 ^ 48),
   w (r.opened % 2 ^ 32 + 2 ^ 32 * (r.skid % 2 ^ 32)),
   w c.haltTime, w r.tstop, faddr, w r.lastPc]

/-- An engine's record as the stop area reads: an engine that held no work wrote VALID 0 when the line rose. DEDUCED, log 66. -/
def State.stopWord (s : State) (ctx k : Nat) : DWord :=
  let c := s.ctx ctx
  let engine := k / 8 - 0x400
  if c.records.isNone || 808 < engine then 0
  else if c.tables.any (fun e => e.1 / 8 = k / 8) || c.stopping.contains engine then c.tables.get 0 k
  else
    let last := if engine < 512 then (s.slot engine).lastPc.toNat else 0
    (({ lastPc := last, tstop := c.haltTime } : StopRecord).words ctx engine c).getD (k % 8) 0

/-! ### Reads -/

/-- The 8-byte word at offset 8k of context n's block. -/
def State.blockWord (s : State) (n k : Nat) : DWord :=
  let c := s.ctx n
  if k = 0 then c.root
  else if k = 1 then c.sched
  else if k = 2 then c.weights.setWidth 64
  else if k = 3 then c.migrationReg
  else if k = 5 then c.network.setWidth 64
  else if k = 6 then c.debug
  else if 8 ≤ k && k < 12 then c.bpa.get 0 (k - 8)
  else if k = 12 then (if c.shootdowns.isEmpty then 0 else 1)
  else if k = 13 then BitVec.ofNat 64 (256 * c.cause.toNat + (if c.halted then 2 else 0))
  else if k = 14 then c.trapvec
  else if inStopArea k then s.stopWord n k
  else c.tables.get 0 k

/-- The 8-byte word of the device-wide entries. -/
def State.deviceWord (s : State) (pa : Nat) : DWord :=
  match bankErrKey pa with
  | some k => s.bankErr.get (BitVec.ofNat 64 (k % 32)) k
  | none =>
    let o := pa - 0x0480_0000_0000
    if pa < 0x0480_0000_0000 then 0
    else if o < 0x20 then BitVec.ofNat 64 (ofBytes ((List.range 8).map (fun i => (s.cluster (o + i)).owner)))
    else if o = 0x100 then s.power.reg
    else if o = 0x108 then s.power.campns
    else if 0x1000 ≤ o && o < 0x2000 then (s.slot ((o - 0x1000) / 8)).discarded.setWidth 64
    else if o = 0x2000 || o = 0x2008 then BitVec.ofNat 64 (s.frames.get 0 ((o - 0x2000) / 8))
    else if o = 0x2010 then BitVec.ofNat 64 s.waybillsDropped
    else if 0x10000 ≤ o && o < 0x10040 then
      BitVec.ofNat 64 (ofBytes ((s.configuration.drop (o - 0x10000)).take 8))
    else 0

/-- The context's block and word number of an address, if it lies in a block. -/
def blockOf (pa : Nat) : Option (Nat × Nat) :=
  let o := pa - ctlBase
  if o < 8 * 2 ^ 24 then some (o / 2 ^ 24, o % 2 ^ 24 / 8) else none

/-- Words of the peer table (R353, R394). -/
def isPeer (k : Nat) : Bool := 0x4000 ≤ k && k < 0x8000

/-- What S-level code of a context reads in a block: its own; of the others, what R394 calls device-wide. DEDUCED, log 68. -/
def State.reads (s : State) (ctx n k : Nat) : Bool := n = ctx || isPeer k || (k = 13 && ctx = s.owner)

/-- A naturally aligned read in control space by S-level code of a context (R27). -/
def State.ctlRead (s : State) (ctx pa _n : Nat) : DWord :=
  let w : DWord := match blockOf (pa / 8 * 8) with
    | some (n, k) => if s.reads ctx n k then s.blockWord n k else 0
    | none => s.deviceWord (pa / 8 * 8)
  w >>> (8 * (pa % 8))

/-- What a read does beside answering (R385). -/
def State.ctlTouch (s : State) (pa _n : Nat) : State :=
  if pa / 8 * 8 = 0x0480_0000_0100 then s.clearLast else s

/-! ### Writes -/

/-- Bits a write keeps in the words of the tables that are plain memory: queue table, mirrors, peers, reductions, regions,
queue-pair words (R27). Bits that R357 gives as zero keep nothing. -/
def tableKeep (k : Nat) : Option DWord :=
  let all := BitVec.allOnes 64
  if (0x200 ≤ k && k < 0x211) || (0x400 ≤ k && k < 0x480) || (0x10000 ≤ k && k < 0x12000) then some all
  else if isPeer k then some (if k % 4 = 0 then 0x3 else if k % 4 = 1 then 0xFFFF_FFFF_0000_0000 else all)
  else if 0x8000 ≤ k && k < 0x8400 then some (if k % 4 = 0 then 1 else all)
  else if 0xC000 ≤ k && k < 0x10000 then some (if k % 4 = 0 then 0x1F else if k % 4 = 1 then 0xFFFF_FFFF_0000_0000 else all)
  else none

/-- A write of masked bits to word k of context n's block. -/
def State.blockWrite (s : State) (writer n k : Nat) (m v : DWord) : State :=
  let c := s.ctx n
  let mix (old keep : DWord) : DWord := (old &&& ~~~(m &&& keep)) ||| (v &&& m &&& keep)
  if k = 0 then s.setCtx n { c with root := mix c.root 0x000F_FFFF_FFFE_0000 }
  else if k = 1 then s.setCtx n (c.setSched (mix c.sched (BitVec.allOnes 64)))
  else if k = 2 then s.setCtx n (c.setWeights ((mix (c.weights.setWidth 64) (BitVec.allOnes 64)).setWidth 32))
  else if k = 3 then s.setCtx n (c.setMigration (mix c.migration (BitVec.allOnes 64)))
  else if k = 4 then s.grantFrame n (v &&& m).toNat
  else if k = 5 then s.setCtx n { c with network := (mix (c.network.setWidth 64) 0x000F_FFFF).setWidth 32 }
  else if k = 6 then s.debugWrite n m v
  else if 8 ≤ k && k < 12 then
    s.setCtx n { c with bpa := c.bpa.set 0 (k - 8) (mix (c.bpa.get 0 (k - 8)) 0x00FF_FFFF_FFFF_FFFD) }
  else if k = 12 then s.startShootdown n (v &&& m).toNat
  else if k = 13 then (if bit 0 (v &&& m) then s.releaseWrite writer n else s)
  else if k = 14 then s.setCtx n { c with trapvec := mix c.trapvec (BitVec.allOnes 64) }
  else if 0x600 ≤ k && k < 0x608 then
    s.setCtx n { c with tables := c.tables.set 0 k (c.tables.get 0 k &&& ~~~(v &&& m)) }
  else if 0x10000 ≤ k && k < 0x12000 && k % 2 = 0 then s.bindQp n ((k - 0x10000) / 2) (mix 0 (BitVec.allOnes 64))
  else
    match tableKeep k with
    | some keep => s.setCtx n { c with tables := c.tables.set 0 k (mix (c.tables.get 0 k) keep) }
    | none => s

/-- A write of masked bits to a device-wide word by the owner context's code (R394); LV and TV are sticky (R14, R368). -/
def State.deviceWrite (s : State) (pa : Nat) (m v : DWord) : State :=
  match bankErrKey pa with
  | some k =>
    let old := s.bankErr.get (BitVec.ofNat 64 (k % 32)) k
    let keep : DWord := 0x00FF_FF00_0000_0000 &&& m
    let clear : DWord := 0xC000_0000_0000_0000 &&& m &&& ~~~v
    { s with bankErr := s.bankErr.put k (((old &&& ~~~keep) ||| (v &&& keep)) &&& ~~~clear) }
  | none =>
    let o := pa - 0x0480_0000_0000
    if pa < 0x0480_0000_0000 then s
    else if o < 0x20 then
      (List.range 8).foldl (fun s i =>
        if (m >>> (8 * i)).setWidth 8 = (0 : BitVec 8) then s else s.assign (o + i) ((v >>> (8 * i)).setWidth 8)) s
    else if o = 0x100 then s.powerWrite m v
    else s

/-- A naturally aligned write of n bytes in control space by S-level code of a context (R27). -/
def State.ctlWrite (s : State) (ctx pa n : Nat) (v : DWord) : State :=
  let m : DWord := BitVec.ofNat 64 (2 ^ (8 * n) - 1) <<< (8 * (pa % 8))
  let v : DWord := v <<< (8 * (pa % 8))
  match blockOf (pa / 8 * 8) with
  | some (b, k) =>
    if k = 13 || isPeer k then (if ctx = s.owner then s.blockWrite ctx b k m v else s)
    else if b = ctx then s.blockWrite ctx b k m v else s
  | none => if ctx = s.owner then s.deviceWrite (pa / 8 * 8) m v else s

end Sys2Proof.Machine
end

