-- ==== Sys2Proof/Machine/Float.lean ====
section
/-! DEFINITION. Classes 5 and 7, floating-point arithmetic and packed dot products (R145 to R150, R157 to R159),
and rounding, conversion and scaling of class 6 (R153 to R156). -/

namespace Sys2Proof.Machine

/-- A per-lane floating-point computation: widths, how sources are read, their number, the latency of R55,
whether D is read too, and the result's bits and flags from flushing, the sources and the old D. -/
structure Fpu where
  wd : Bool := false
  wa : Bool := false
  how : As := .fp 8
  howB : As := .fp 8
  howC : As := .fp 8
  n : Nat
  latency : Nat := 6
  readsD : Bool := false
  flush : Bool
  f : Bool → Nat → Nat → Nat → Nat → Nat × Flags

/-- The effect on a split's lanes; the flags are the OR over the effective lanes (R146). -/
def Fpu.core (u : Fpu) (x : Ext) (s : State) (r : Run) : State :=
  let pv := s.portView r.gid
  let g := r.g
  let t := targetOf g (s.gens r.gid) x.d false
  let fl := g.flushes u.flush
  let one (i : Nat) : (Nat × DWord) × Flags :=
    let a := readSrc g pv r.lit u.how u.wa x.a i
    let b := if 2 ≤ u.n then readSrc g pv r.lit u.howB false x.b i else 0
    let c := if 3 ≤ u.n then readSrc g pv r.lit u.howC false x.cSrc i else 0
    let d := if u.readsD then (readTarget g t i).toNat else 0
    let (v, f) := u.f fl a b c d
    ((i, BitVec.ofNat 64 v), f)
  let l := (lanesOf r.eff).map one
  s.writeFixed r.gid r.sid x.d u.wd u.latency (l.map (·.1)) (orAll (l.map (·.2)))

/-- The source fields an Fpu reads. -/
def Fpu.srcs (u : Fpu) (x : Ext) : List (Src × Bool) :=
  [(x.a, u.wa), (x.b, false), (x.cSrc, false)].take u.n

def Enc.fpu (e : Enc) (u : Fpu) (s : State) : Res :=
  let op := e.laneOp u.wd (u.srcs e.x) (u.core e.x)
  s.run { op with
    reads := fun g => op.reads g ++
      (if u.readsD then clsKeys g e.x.d.cls e.x.d.idx.toNat false else []) } noWalk

/-- An f32 result of three f32 sources (R147). -/
def fp32 (x : Ext) (n latency : Nat) (f : FVal → FVal → FVal → FVal × Flags) : Fpu :=
  { n := n, latency := latency, flush := x.ftz,
    f := fun fl a b c _ =>
      let v (y : Nat) : FVal := FVal.read f32 fl y
      let (y, flags) := f (v a) (v b) (v c)
      let (bits, more) := y.round f32 x.m43 fl false
      (bits, flags ||| more) }

def Enc.fadd (e : Enc) (s : State) : Res :=
  e.fpu (fp32 e.x 2 6 (fun a b _ => (FVal.add e.x.m43 a b, 0))) s
def Enc.fsub (e : Enc) (s : State) : Res :=
  e.fpu (fp32 e.x 2 6 (fun a b _ => (FVal.add e.x.m43 a b.negate, 0))) s
def Enc.fmul (e : Enc) (s : State) : Res :=
  e.fpu (fp32 e.x 2 6 (fun a b _ => (FVal.mul a b, 0))) s
def Enc.ffma (e : Enc) (s : State) : Res :=
  e.fpu (fp32 e.x 3 6 (fun a b c => (FVal.add e.x.m43 (FVal.mul a b) c, 0))) s

/-- A subnormal pattern of f32 as zero of its sign. -/
def flush32 (fl : Bool) (x : Nat) : Nat :=
  if fl && x / 2 ^ 23 % 256 = 0 then x / 2 ^ 31 * 2 ^ 31 else x

/-- FMIN and FMAX (R148): `swap` decides, of two numbers, that B is the answer. -/
def pick32 (swap : FVal → FVal → Bool) (fl : Bool) (x y : Nat) : Nat × Flags :=
  let a := FVal.read f32 fl x
  let b := FVal.read f32 fl y
  let nv : Flags := if a.isSig || b.isSig then flNV else 0
  if a.isPoison || b.isPoison then (poisonWord.toNat, nv)
  else if a.isNan && b.isNan then (0x7FC0_0000, nv)
  else if a.isNan then (flush32 fl y, nv)
  else if b.isNan then (flush32 fl x, nv)
  else (flush32 fl (if swap a b then y else x), nv)

def Enc.fmin (e : Enc) (s : State) : Res :=
  e.fpu { n := 2, flush := e.x.ftz,
          f := fun fl a b _ _ => pick32 (fun a b => FVal.lt true b a) fl a b } s
def Enc.fmax (e : Enc) (s : State) : Res :=
  e.fpu { n := 2, flush := e.x.ftz,
          f := fun fl a b _ _ => pick32 (fun a b => FVal.lt true a b) fl a b } s

/-- FCMP (R149). A poison source is a NaN to it: .lt and .le raise NV. DESIGN CHOICE, log 79. -/
def fcmp (cond : Nat) (fl : Bool) (x y : Nat) : Nat × Flags :=
  let a := FVal.read f32 fl x
  let b := FVal.read f32 fl y
  let un := a.isNan || b.isNan
  let sig := a.isSig || b.isSig
  let holds : Bool :=
    match cond with
    | 0 => !un && FVal.eqv a b
    | 1 => !un && FVal.lt false a b
    | 2 => !un && (FVal.lt false a b || FVal.eqv a b)
    | _ => un
  let nv : Bool := if cond = 1 || cond = 2 then un else sig
  (if holds then 0xFFFF_FFFF else 0, if nv then flNV else 0)

/-- The class number of an f32 pattern (R150). -/
def classOf (x : Nat) : Nat :=
  let neg : Bool := x / 2 ^ 31 % 2 = 1
  let e := x / 2 ^ 23 % 256
  let m := x % 2 ^ 23
  if e = 255 then
    if m = 0 then (if neg then 0 else 7)
    else if m < 2 ^ 22 then 8
    else if x % 2 ^ 31 = poisonWord.toNat then 10 else 9
  else if e = 0 then
    if m = 0 then (if neg then 3 else 4) else (if neg then 2 else 5)
  else (if neg then 1 else 6)

/-- FCLASS (R150): the class as a bit, or its test against B. -/
def fclass (test : Bool) (x b : Nat) : Nat :=
  let k := classOf x
  if test then (if b / 2 ^ k % 2 = 1 then 0xFFFF_FFFF else 0) else 2 ^ k

def execFadd (x : Ext) (s : State) : Res := (Enc.ofExt 0x140 x).fadd s
def execFsub (x : Ext) (s : State) : Res := (Enc.ofExt 0x141 x).fsub s
def execFmul (x : Ext) (s : State) : Res := (Enc.ofExt 0x142 x).fmul s
def execFfma (x : Ext) (s : State) : Res := (Enc.ofExt 0x143 x).ffma s
def execFmin (x : Ext) (s : State) : Res := (Enc.ofExt 0x144 x).fmin s
def execFmax (x : Ext) (s : State) : Res := (Enc.ofExt 0x145 x).fmax s
def execFcmp (x : Ext) (s : State) : Res :=
  (Enc.ofExt 0x146 x).fpu
    { n := 2, flush := x.ftz, f := fun fl a b _ _ => fcmp x.m10 fl a b } s
def execFclass (x : Ext) (s : State) : Res :=
  (Enc.ofExt 0x147 x).fpu
    { n := if x.m10 = 1 then 2 else 1, howB := .bits, flush := false,
      f := fun _ a b _ _ => (fclass (x.m10 = 1) a b, 0) } s
def execFdiv (x : Ext) (s : State) : Res :=
  (Enc.ofExt 0x148 x).fpu (fp32 x 2 16 (fun a b _ => FVal.div a b)) s

/-- FRND (R153): rounded to an integral value, the sign kept. -/
def frnd (x : Ext) (fl : Bool) (a : Nat) : Nat × Flags :=
  match FVal.read f32 fl a with
  | .fin neg m e _ =>
    let (n, inexact) := roundAt x.m43 neg m e false 0
    (((FVal.fin neg n 0 false).round f32 x.m43 false false).1,
      if inexact && x.m10 = 1 then flNX else 0)
  | v => v.round f32 x.m43 fl false

def execFrnd (x : Ext) (s : State) : Res :=
  (Enc.ofExt 0x187 x).fpu
    { n := 1, flush := x.ftz, f := fun fl a _ _ _ => frnd x fl a } s

/-! ### Conversion -/

/-- Element s of a source of a type (R155). -/
def element (ty slot a : Nat) : Nat :=
  if tyElems ty = 1 then a % 2 ^ tyBits ty else a / 2 ^ (tySlot ty * slot) % 2 ^ tyBits ty

/-- A number converted between types (R154, R95, R96, R98). -/
def convert (src dst mode : Nat) (fl sat : Bool) (x : Nat) : Nat × Flags :=
  if isFloatTy src then
    let v := FVal.read (fmtOf src) fl x
    if isFloatTy dst then convertFloat (fmtOf dst) mode fl sat v
    else toIntTy mode (tyBits dst) (isSignedTy dst) v
  else
    let n := numOf (isSignedTy src) (tyBits src) x
    if isFloatTy dst then (FVal.ofInt n).round (fmtOf dst) mode fl sat
    else (settleInt (isSignedTy dst) sat (tyBits dst) n, 0)

/-- A narrow result as it fills D: an i type sign-extended, anything else zero-filled (R155). -/
def fillNarrow (ty v : Nat) : Nat :=
  if tyBits ty < 32 && isSignedTy ty && !isFloatTy ty then
    wrapTo 64 (numOf true (tyBits ty) v)
  else v

/-- How the A field of a conversion reads its negate bit: per element; a narrow integer is read as it is, and
its element is negated afterwards (R44, R155). -/
def cvtHow (ty : Nat) : As := if isFloatTy ty then .fp ty else .int

/-- CVT (R154, R155). A narrow integer source written as an immediate is extended to 32 bits (R43), and the slot picks an element
of those. DESIGN CHOICE, log 102. -/
def cvt (x : Ext) : Fpu :=
  let s := x.srcTy
  let t := x.ty
  let k := x.b.idx.toNat
  let ins : Bool := x.m10 = 1
  { wd := isWideTy t, wa := isWideTy s, how := cvtHow s, n := 1, readsD := ins, flush := x.ftz,
    f := fun fl a _ _ d =>
      let narrowNeg : Bool := x.a.neg && x.a.cls ≠ .p && !isFloatTy s && tyElems s ≠ 1
      let e := if narrowNeg then (2 ^ tyBits s - element s k ((2 ^ 32 - a) % 2 ^ 32)) % 2 ^ tyBits s
        else element s k a
      let (v, f) := convert s t x.m43 fl x.d.sat e
      if ins then
        let w := tySlot t
        let lo := w * k
        (d - d / 2 ^ lo % 2 ^ w * 2 ^ lo + v * 2 ^ lo, f)
      else (fillNarrow t v, f) }

/-- CVTSC (R156). A NaN times a scale has lost its sign before it is converted. DESIGN CHOICE, log 80. -/
def cvtsc (x : Ext) : Fpu :=
  let s := x.srcTy
  let t := x.ty
  { how := .fp s, howB := if x.m10 = 0 then .bits else .fp 8, n := if x.m10 = 2 then 1 else 2,
    flush := x.ftz,
    f := fun fl a b _ _ =>
      let v := FVal.read (fmtOf s) fl (element s 0 a)
      match x.m10 with
      | 0 => convertFloat (fmtOf t) x.m43 fl x.d.sat (FVal.mul v (ofE8M0 b))
      | 1 => convertFloat (fmtOf t) x.m43 fl x.d.sat (FVal.mul v (FVal.read f32 fl b))
      | _ => toE8M0 x.m43 x.d.sat v }

def execCvt (x : Ext) (s : State) : Res := (Enc.ofExt 0x188 x).fpu (cvt x) s
def execCvtsc (x : Ext) (s : State) : Res := (Enc.ofExt 0x189 x).fpu (cvtsc x) s

/-! ### Packed halves and dot products -/

/-- Half or byte j of a word. -/
def partOf (w j x : Nat) : Nat := x / 2 ^ (w * j) % 2 ^ w

/-- A packed 16-bit operation on both halves (R157). -/
def packed (x : Ext) (n : Nat) (f : FVal → FVal → FVal → FVal) : Fpu :=
  let fmt := fmtOf x.ty
  { n := n, how := .fp x.ty, howB := .fp x.ty, howC := .fp x.ty, flush := x.ftz,
    f := fun fl a b c _ =>
      let one (j : Nat) : Nat × Flags :=
        let v (y : Nat) : FVal := FVal.read fmt fl (partOf 16 j y)
        (f (v a) (v b) (v c)).round fmt x.m43 fl false
      ((one 0).1 + 2 ^ 16 * (one 1).1, (one 0).2 ||| (one 1).2) }

def Enc.hadd2 (e : Enc) (s : State) : Res :=
  e.fpu (packed e.x 2 (fun a b _ => FVal.add e.x.m43 a b)) s
def Enc.hmul2 (e : Enc) (s : State) : Res :=
  e.fpu (packed e.x 2 (fun a b _ => FVal.mul a b)) s
def Enc.hfma2 (e : Enc) (s : State) : Res :=
  e.fpu (packed e.x 3 (fun a b c => FVal.add e.x.m43 (FVal.mul a b) c)) s

/-- An exact sum of terms: opposite infinities anywhere are an invalid NaN (R158). -/
def FVal.total (mode : Mode) (l : List FVal) : FVal :=
  let both := l.contains (.inf true) && l.contains (.inf false)
  match FVal.sum mode l with
  | .nan nv p s => .nan (nv || both) p s
  | v => v

/-- HDOT2 and QDOT4: C and the products of n parts of w bits, summed exactly and rounded once (R158,
R159). -/
def dotOp (x : Ext) (ta tb w n : Nat) (flushParts : Bool) : Fpu :=
  { n := 3, how := .fp ta, howB := .fp tb, flush := x.ftz,
    f := fun fl a b c _ =>
      let part (t y j : Nat) : FVal := FVal.read (fmtOf t) (fl && flushParts) (partOf w j y)
      let terms := (List.range n).map (fun j => FVal.mul (part ta a j) (part tb b j))
      (FVal.total x.m43 (FVal.read f32 fl c :: terms)).round f32 x.m43 fl false }

def execHadd2 (x : Ext) (s : State) : Res := (Enc.ofExt 0x1C0 x).hadd2 s
def execHmul2 (x : Ext) (s : State) : Res := (Enc.ofExt 0x1C1 x).hmul2 s
def execHfma2 (x : Ext) (s : State) : Res := (Enc.ofExt 0x1C2 x).hfma2 s
def execHdot2 (x : Ext) (s : State) : Res :=
  (Enc.ofExt 0x1C3 x).fpu (dotOp x x.ty x.ty 16 2 true) s
def execQdot4 (x : Ext) (s : State) : Res :=
  let tb := if bit 0 x.mod then 23 - x.ty else x.ty
  (Enc.ofExt 0x1C4 x).fpu (dotOp x x.ty tb 8 4 false) s

end Sys2Proof.Machine
end

