-- ==== Sys2Proof/Machine/MatrixShape.lean ====
section
/-! DEFINITION. What matrix instructions read and write in the scratchpad (R194, R196 to R198, R201 to R204), and the
stores that R205 holds. -/

namespace Sys2Proof.Machine

/-- Rows of bytes in the scratchpad; `waits` when the engine waits for its words to be full; `side` 1 what is read for A, 2
for B (R202). -/
structure Region where
  base : Nat
  rows : Nat
  bytes : Nat
  pitch : Nat := 128
  waits : Bool := false
  side : Nat := 0
deriving DecidableEq, Repr

/-- The byte ranges of a region. -/
def Region.parts (r : Region) : List (Nat × Nat) :=
  (List.range r.rows).map (fun i => (r.base + r.pitch * i, r.bytes))

/-- The end of a region; its base when it is empty. -/
def Region.top (r : Region) : Nat :=
  if r.rows = 0 || r.bytes = 0 then r.base else r.base + r.pitch * (r.rows - 1) + r.bytes

/-- Scratchpad words a region touches. -/
def Region.words (r : Region) : List Nat :=
  r.parts.flatMap (fun p => if p.2 = 0 then [] else
    (List.range ((p.1 % 4 + p.2 + 3) / 4)).map (fun i => p.1 / 4 + i))

/-- A region holds some of n bytes from a. -/
def Region.hits (r : Region) (a n : Nat) : Bool :=
  r.parts.any (fun p => p.2 ≠ 0 && p.1 < a + n && a < p.1 + p.2)

/-- Fields of MMA and MLOOP (R193, R196, R201). -/
def Matrix.kind (m : Matrix) : Nat := bits 4 0 m.mod
def Matrix.scale (m : Matrix) : Nat := bits 9 8 m.mod
def Matrix.clr (m : Matrix) : Bool := bit 7 m.mod
def Matrix.ctlAt (m : Matrix) (i : Nat) : DWord := m.ctl.getD i 0
def Matrix.rowsM (m : Matrix) : Nat := bits 7 0 (m.ctlAt 0)
def Matrix.colsN (m : Matrix) : Nat := bits 15 8 (m.ctlAt 0)
def Matrix.depth (m : Matrix) : Nat := bits 24 16 (m.ctlAt 0)
def Matrix.elBits (m : Matrix) : Nat := mmaBits m.kind

/-- K-block length (R107). -/
def Matrix.kb (m : Matrix) : Nat := if 7 ≤ m.kind || m.scale = 1 then 32 else 128
/-- Number of K-blocks (R198). -/
def Matrix.nb (m : Matrix) : Nat := (m.depth + m.kb - 1) / m.kb

/-- Bytes of the scale planes of one step (R198, R202). -/
def Matrix.scaleA (m : Matrix) : Nat :=
  match m.scale with | 1 => m.rowsM * m.nb | 2 => m.rowsM * m.nb * 4 | _ => 0
def Matrix.scaleB (m : Matrix) : Nat :=
  match m.scale with | 1 => m.colsN * m.nb | 2 => m.nb * 4 | _ => 0

/-- Nothing is read (R112). -/
def Matrix.empty (m : Matrix) : Bool := m.rowsM = 0 || m.colsN = 0 || m.depth = 0

/-- MLOOP's fields (R201). -/
def Matrix.steps (m : Matrix) : Nat := bits 15 0 (m.ctlAt 3)
def Matrix.nslot (m : Matrix) : Nat := bits 31 16 (m.ctlAt 3)
def Matrix.slotOf (m : Matrix) (i : Nat) : Nat := if m.nslot = 0 then i else i % m.nslot

/-- A number rounded up to a multiple of 128. -/
def up128 (n : Nat) : Nat := (n + 127) / 128 * 128

/-- Addresses of a step: A, B and their scales (R198, R202). -/
def Matrix.addrs (m : Matrix) (i : Nat) : Nat × Nat × Nat × Nat :=
  let j := if m.op = 5 then m.slotOf i else 0
  (m.a + j * bits 31 0 (m.ctlAt 2), m.b.toNat + j * bits 63 32 (m.ctlAt 2),
    bits 31 0 (m.ctlAt 1) + j * up128 m.scaleA, bits 63 32 (m.ctlAt 1) + j * up128 m.scaleB)

/-- The scratchpad regions that an instruction, or step i of an MLOOP, reads; scale planes only with a scale mode (R196). -/
def Matrix.regions (m : Matrix) (i : Nat) : List Region :=
  match m.op with
  | 0 => [{ base := m.a, rows := 1, bytes := 16384 }]
  | 6 => [{ base := m.a, rows := 1, bytes := 65536 }]
  | 4 | 5 =>
    if m.empty then []
    else
      let (pa, pb, sa, sb) := m.addrs i
      let n := (m.depth * m.elBits + 7) / 8
      let loop : Bool := m.op = 5
      let fea : Bool := loop && bit 6 m.mod
      let feb : Bool := loop && bit 5 m.mod
      (if loop then [{ base := pa, rows := m.rowsM, bytes := n, waits := fea, side := 1 }] else []) ++
        { base := pb, rows := m.colsN, bytes := n, waits := feb, side := 2 } ::
        (if m.scale = 0 then [] else
          [{ base := sa, rows := 1, bytes := m.scaleA, waits := fea, side := 1 },
            { base := sb, rows := 1, bytes := m.scaleB, waits := feb, side := 2 }])
  | _ => []

/-- Passes of an MMA or a step over 64 × 64 blocks of the output (R303), and the block of pass p. -/
def Matrix.passes (m : Matrix) : Nat := (m.rowsM + 63) / 64 * ((m.colsN + 63) / 64)
def Matrix.blockOf (m : Matrix) (p : Nat) : Nat × Nat := (p / ((m.colsN + 63) / 64), p % ((m.colsN + 63) / 64))

/-- Rows of block b of a region of n rows; a scale plane of `each` bytes for each of n rows or columns. -/
def Region.block (r : Region) (b : Nat) : Region :=
  { r with base := r.base + r.pitch * (64 * b), rows := min 64 (r.rows - 64 * b) }
def Region.scales (r : Region) (each n b : Nat) : Region :=
  { r with base := r.base + each * (64 * b), bytes := each * min 64 (n - 64 * b) }

/-- What pass p of step i reads (R303): A rows of block mb and their scales in pass (mb, 0), B rows of block nb and their
scales in pass (0, nb); the scales of .sf32 for B, the same for every column, in pass (0, 0). Other instructions have one
pass. -/
def Matrix.passRegions (m : Matrix) (i p : Nat) : List Region :=
  if m.op ≠ 4 && m.op ≠ 5 then m.regions i
  else if m.passes ≤ p then []
  else
    let (mb, nb) := m.blockOf p
    (m.regions i).filterMap (fun r =>
      let plane := r.rows = 1 && (r.base = (m.addrs i).2.2.1 && r.side = 1 && r.bytes = m.scaleA ||
        r.base = (m.addrs i).2.2.2 && r.side = 2 && r.bytes = m.scaleB)
      if r.side = 1 then
        (if nb ≠ 0 then none else some (if plane then r.scales (m.scaleA / m.rowsM) m.rowsM mb else r.block mb))
      else if mb ≠ 0 then none
      else if !plane then some (r.block nb)
      else if m.scale = 1 then some (r.scales (m.scaleB / m.colsN) m.colsN nb)
      else if nb = 0 then some r else none)

/-- The scratchpad sectors a region touches, by offset ÷ 32. -/
def Region.sectors (r : Region) : List Nat :=
  r.parts.flatMap (fun p => if p.2 = 0 then [] else
    (List.range ((p.1 % 32 + p.2 + 31) / 32)).map (fun i => p.1 / 32 + i))

/-- The region that an instruction writes. -/
def Matrix.written (m : Matrix) : List Region :=
  match m.op with
  | 1 => [{ base := m.a, rows := 128, bytes := 128 }]
  | 7 => [{ base := m.a, rows := 128, bytes := 512, pitch := 512 }]
  | 8 => let n := 16 * tyBits (bits 9 5 m.mod)
         [{ base := m.a, rows := 128, bytes := n, pitch := n }]
  | _ => []

/-- The first step of each slot that remains from some step on. -/
def Matrix.later (m : Matrix) (first : Nat) : List Nat :=
  if m.op ≠ 5 then []
  else
    let left := m.steps - first
    (List.range (if m.nslot = 0 then left else min left m.nslot)).map (fun i => first + i)

/-- The instruction has still to read some of n bytes from a, and holds a store to them; a store to a word that it waits
for under .fea or .feb, where that wait is not over and the word is not full, is not held (R205). -/
def Matrix.holds (m : Matrix) (w : Workgroup) (a n : Nat) : Bool :=
  let waits := (List.range ((a % 4 + n + 3) / 4)).any (fun i => !w.isFull (a / 4 + i))
  let waited (r : Region) : Bool := m.phase = 2 || (m.phase = 1 && r.side = 1)
  let has (t : Tab (BitVec 256)) : Bool := (List.range ((a % 32 + n + 31) / 32)).all (fun i => (t.look (a / 32 + i)).isSome)
  let read := has m.snap
  ((m.op ≠ 5 || m.step < m.steps) && !read &&
      (m.regions m.step).any (fun r => r.hits a n && !(r.waits && !waited r && waits))) ||
    (m.later (m.step + if has m.ahead then 2 else 1)).any (fun i => (m.regions i).any (fun r => r.hits a n && !(r.waits && waits)))

/-- A store of a group is held by an earlier matrix instruction of the group (R205). -/
def State.matrixHolds (s : State) (gid id a n : Nat) : Bool :=
  (s.core (coreOf gid)).matrix.any (fun m => m.gid = gid && m.id < id && m.holds (s.wgOf gid) a n)

end Sys2Proof.Machine
end

