-- ==== Sys2Proof/Machine/Access.lean ====
section
/-! DEFINITION. Classes 8 and 9: loads and stores (R160 to R166), full/empty words (R167), ports (R168 to R170),
atomics (R171 to R176), fences (R177 to R179); how an outstanding access is performed (R279 to R285, R374) and
how its result arrives (R56, R270). -/

namespace Sys2Proof.Machine

/-! ### Issue -/

/-- Streams whose engine operations an access waits for: a release those of its streams (R283), a FENCEX those of its mask,
and what orders every stream all of them (R279 rules 3 and 5). -/
def Acc.engineStreams (a : Acc) (k : Nat) : Bool :=
  match a.kind with
  | .fenceRel all | .fenceAr all => all || k = a.stream
  | .fenceAcq all => all
  | .fencex m => m.getLsbD k
  | .order => true
  | .store | .atomic | .red => (a.ord = 2 || a.ord = 3) && k = a.stream
  | .load | .push => false

/-- An access issued by a split: numbered, ordered, put among the group's outstanding ones (R279). -/
def State.issueAcc (s : State) (gid sid : Nat) (a : Acc) : State :=
  let g := s.group gid
  let (id, s) := s.nextId
  let a := { a with id := id, po := 1#4 <<< sid, super := g.super, after := s.afterOf g sid a,
                    engines := s.enginesOn gid sid a.engineStreams,
                    span := if a.kind = .red then a.lanes.map (·.addr) else [] }
  (s.setGroup gid { g with accs := g.accs ++ [a] }).expect gid sid id a.target

/-- Bytes of an access by its type. -/
def accBytes (x : Ext) : Nat := tyBits x.ty / 8

/-- A lane's address: base plus offset, modulo 2^64, or 2^32 in sp (R160). -/
def laneAddr (x : Ext) (r : Run) (offset : Int) (lane : Nat) : Nat :=
  let w := if x.space = 1 then 32 else 64
  wrapTo w ((readSrc r.g r.lanes r.lit .int (x.space ≠ 1) x.a lane : Int) + offset)

/-- The signed offset in field B (R160). -/
def offsetB (x : Ext) : Int := if x.b.cls = .imm then x.b.idx.toInt else (x.lit.getD 0).toInt

/-- The lanes that make an access: all effective lanes, or one for a uniform base (R164). -/
def accLanes (uniform : Bool) (r : Run) : List Nat :=
  if uniform then [lowLane r.eff] else lanesOf r.eff

/-- Trap 0x03 with sub-code 1 for misaligned lanes (R162). -/
def alignCheck (n : Nat) (addr : Nat → Nat) (r : Run) : Chk :=
  let bad (i : Nat) : Bool := Mask.has r.eff i && addr i % n ≠ 0
  let m := maskOf bad
  if m = 0 then .ok else .trap 0x03 m (BitVec.ofNat 64 (addr (lowLane m))) 1

/-- A destination field read as a data source: identity pattern, no negation (R45). -/
def dataSrc (d : Dst) : Src := { cls := d.cls, idx := d.idx, pat := .ident, param := 0, neg := false }

/-- An access made from an instruction's fields. -/
def mkAcc (x : Ext) (kind : AccKind) (r : Run) (lanes : List LaneAcc) : Acc :=
  { id := 0, kind := kind, po := 0, stream := x.stream, scope := x.scope, policy := x.policy,
    space := x.space, ord := x.m43, bytes := accBytes x, ty := x.ty, lanes := lanes, target := .none,
    active := r.active }

/-- A RED of the group on some streams is not yet acknowledged (R374). -/
def Group.redsOn (g : Group) (sid : Nat) (streams : Nat → Bool) : Bool :=
  g.accs.any (fun a => a.kind = .red && a.po.getLsbD sid && streams a.stream)

/-- A release raises the deferred trap of a RED on its streams, and waits for those not acknowledged before
it issues (R374). -/
def Op.releasing (op : Op) (streams : Nat → Bool) : Op :=
  { op with
    deferred := fun s r => (s.group r.gid).redTrap streams
    held := fun s r =>
      match op.held s r with
      | some h => some h
      | none => if (s.group r.gid).redsOn r.sid streams then some (11, s) else none }

/-! ### LD, ST, ATOM, RED -/

/-- LD (R165). -/
def ld (x : Ext) (s : State) (r : Run) : State :=
  let u : Bool := x.d.cls = .g
  let lanes := (accLanes u r).map (fun i => ({ lane := i, addr := laneAddr x r (offsetB x) i } : LaneAcc))
  let t := targetOf (s.group r.gid) (s.gens r.gid) x.d (isWideTy x.ty)
  s.issueAcc r.gid r.sid { mkAcc x .load r lanes with target := t, uniform := u }

/-- ST (R166): the data are read at issue (R291). -/
def st (x : Ext) (s : State) (r : Run) : State :=
  let u : Bool := x.d.cls = .g
  let pv := s.portView r.gid
  let lane (i : Nat) : LaneAcc :=
    { lane := i, addr := laneAddr x r (offsetB x) i,
      val := BitVec.ofNat 64 (readSrc r.g pv r.lit .bits (isWideTy x.ty) (dataSrc x.d) i) }
  s.issueAcc r.gid r.sid { mkAcc x .store r ((accLanes u r).map lane) with uniform := u }

/-- ATOM and RED (R172). -/
def atomic (x : Ext) (kind : AccKind) (s : State) (r : Run) : State :=
  let pv := s.portView r.gid
  let w := isWideTy x.ty
  let how : As := if 2 < x.m20 then .bits else if x.ty = 8 then .fp 8 else .int
  let lane (i : Nat) : LaneAcc :=
    { lane := i, addr := laneAddr x r 0 i,
      val := BitVec.ofNat 64 (readSrc r.g pv r.lit how w x.b i),
      cmp := BitVec.ofNat 64 (readSrc r.g pv r.lit .bits w (dataSrc x.d) i) }
  let t := if kind = .atomic then targetOf (s.group r.gid) (s.gens r.gid) x.d w else .none
  s.issueAcc r.gid r.sid { mkAcc x kind r ((lanesOf r.eff).map lane) with
    target := t, op := x.m20 }

def Enc.ld (e : Enc) (s : State) : Res :=
  let x := e.x
  s.run { e.varOp (isWideTy x.ty) [(x.a, x.space ≠ 1)] (Machine.ld x) with
    memory := true
    check := fun _ r => alignCheck (accBytes x) (laneAddr x r (offsetB x)) r } noWalk

def Enc.st (e : Enc) (s : State) : Res :=
  let x := e.x
  let op : Op :=
    { e.op (Machine.st x) with
      reads := fun g => srcKeys g (x.a, x.space ≠ 1) ++ srcKeys g ((dataSrc x.d), isWideTy x.ty)
      memory := true
      ends := x.m43 = 2 && x.scope ≠ 0
      check := fun _ r => alignCheck (accBytes x) (laneAddr x r (offsetB x)) r }
  s.run (if x.m43 = 2 then op.releasing (· = x.stream) else op) noWalk

def execLd (x : Ext) (s : State) : Res := (Enc.ofExt 0x200 x).ld s
def execSt (x : Ext) (s : State) : Res := (Enc.ofExt 0x201 x).st s

/-- ATOM (R171, R172, R176). -/
def execAtom (x : Ext) (s : State) : Res :=
  let w := isWideTy x.ty
  let srcs := [(x.a, decide (x.space ≠ 1)), (x.b, w)]
  let base := (Enc.ofExt 0x240 x).varOp w srcs (atomic x .atomic)
  let op : Op :=
    { base with
      reads := fun g => base.reads g ++ (if x.m20 = 7 then srcKeys g ((dataSrc x.d), w) else [])
      memory := true
      ends := true
      check := fun _ r => alignCheck (accBytes x) (laneAddr x r 0) r }
  s.run (if 2 ≤ x.m43 then op.releasing (· = x.stream) else op) noWalk

/-- RED (R171, R172, R176). -/
def execRed (x : Ext) (s : State) : Res :=
  let op : Op :=
    { (Enc.ofExt 0x241 x).op (atomic x .red) with
      reads := fun g => srcKeys g (x.a, x.space ≠ 1) ++ srcKeys g (x.b, isWideTy x.ty)
      memory := true
      ends := true
      check := fun _ r => alignCheck (accBytes x) (laneAddr x r 0) r }
  s.run (if x.m43 = 2 then op.releasing (· = x.stream) else op) noWalk

/-! ### Full/empty words and ports -/

/-- LDFE and STFE act at issue as one access of their words (R167). With a base of class 3 every effective lane names the
one word. DEDUCED, log 90. -/
def feAcc (x : Ext) (r : Run) (kind : AccKind) : Acc :=
  { mkAcc x kind r ((lanesOf r.eff).map (fun i =>
      ({ lane := i, addr := laneAddr x r (offsetB x) i } : LaneAcc))) with bytes := 4 }

/-- A misaligned word, or one past the granules, and the halt it gives (R161, R162). -/
def feCheck (x : Ext) (s : State) (r : Run) : Chk :=
  let addr := laneAddr x r (offsetB x)
  let past (i : Nat) : Bool := Mask.has r.eff i && (s.wgOf r.gid).spBytes < addr i + 4
  let m := maskOf past
  Chk.first [alignCheck 4 addr r,
    if m = 0 then .ok else .halt 0xC1 (BitVec.ofNat 64 (addr (lowLane m)))]

/-- LDFE (R167). -/
def ldfe (x : Ext) (s : State) (r : Run) : State :=
  let g := s.group r.gid
  let w := s.wgOf r.gid
  let l := (feAcc x r .load).lanes
  let t := targetOf g (s.gens r.gid) x.d false
  let (id, s) := s.nextId
  let vals := (lanesOf r.eff).map (fun i =>
    (i, (w.sp.get 0 (laneAddr x r (offsetB x) i / 4)).setWidth 64))
  let w := l.foldl (fun w a => w.setEmpty (a.addr / 4)) w
  let s := (s.setWg g.wg w).expect r.gid r.sid id t
  s.reply r.gid { id := id, split := r.sid, target := t, vals := vals }

/-- STFE (R167): of lanes that name one word, any one's value is stored. -/
def stfe (x : Ext) (s : State) (r : Run) : State :=
  let g := s.group r.gid
  let l := (feAcc x r .store).lanes
  let free := s.fresh * 2 ^ 16
  let one (st : Workgroup × List Nat) (a : LaneAcc) : Workgroup × List Nat :=
    let (w, seen) := st
    let k := a.addr / 4
    if x.m10 = 2 then (w.setEmpty k, seen)
    else if seen.contains k && !Config.freeBit (free + a.lane) then (w, seen)
    else
      let v := BitVec.ofNat 32 (readSrc r.g r.lanes r.lit .bits false (dataSrc x.d) a.lane)
      (w.spPut k v, k :: seen)
  s.setWg g.wg (l.foldl one (s.wgOf r.gid, [])).1

/-- What LDFE and STFE wait for (R167, R205, R279); an STFE that sets a word full releases its stream (R286). -/
def feHeld (x : Ext) (kind : AccKind) (ready : Workgroup → Nat → Bool) (s : State) (r : Run) :
    Option (Nat × State) :=
  let g := s.group r.gid
  let a := feAcc x r kind
  let releases : Bool := kind = .store && x.m10 ≠ 2
  if kind = .store && a.lanes.any (fun e => s.matrixHolds r.gid s.ids e.addr 4) then some (10, s)
  else if !(s.afterOf g r.sid a).isEmpty || (releases && !(s.enginesOn r.gid r.sid (· = x.stream)).isEmpty) then some (4, s)
  else if a.lanes.all (fun e => ready (s.wgOf r.gid) (e.addr / 4)) then none
  else some (4, s)

def execLdfe (x : Ext) (s : State) : Res :=
  s.run { (Enc.ofExt 0x202 x).varOp false [(x.a, false)] (ldfe x) with
    memory := true
    check := feCheck x
    held := feHeld x .load Workgroup.isFull } noWalk

def execStfe (x : Ext) (s : State) : Res :=
  s.run { (Enc.ofExt 0x203 x).op (stfe x) with
    reads := fun g => srcKeys g (x.a, false) ++
      (if x.m10 = 2 then [] else srcKeys g ((dataSrc x.d), false))
    memory := true
    check := feCheck x
    deferred := fun s r => if x.m10 ≠ 2 then (s.group r.gid).redTrap (· = x.stream) else none
    held := feHeld x .store (fun w k => x.m10 ≠ 0 || !w.isFull k) } noWalk

/-- SBIND's operands: ring base, and element count at 64 bits (R168). DESIGN CHOICE, log 92. -/
def bindBase (x : Ext) (r : Run) : Nat := readUni r.g r.lit .int false x.a
def bindCount (x : Ext) (r : Run) : Nat := readUni r.g r.lit .int true x.b

def sbindCheck (x : Ext) (s : State) (r : Run) : Chk :=
  let b := bindBase x r
  let n := bindCount x r
  Chk.first [
    Chk.operand (b % 128 ≠ 0) r.active (BitVec.ofNat 64 b),
    Chk.operand (n = 0 || 8192 < n) r.active 0,
    Chk.operand ((s.wgOf r.gid).spBytes < b + 128 * n) r.active (BitVec.ofNat 64 b)]

def sbind (x : Ext) (s : State) (r : Run) : State :=
  let g := s.group r.gid
  let p : Port := { bound := true, base := bindBase x r, count := bindCount x r }
  s.setGroup r.gid { g with ports := g.ports.put x.d.idx.toNat p }

def execSbind (x : Ext) (s : State) : Res :=
  s.run { (Enc.ofExt 0x204 x).op (sbind x) with
    reads := fun g => srcKeys g (x.a, false) ++ srcKeys g (x.b, true)
    memory := true
    check := sbindCheck x } noWalk

/-- SCLOSE: after every earlier write to the port has set its words full (R170). -/
def sclose (x : Ext) (s : State) (r : Run) : State :=
  let g := s.group r.gid
  s.setGroup r.gid { g with ports := g.ports.put x.d.idx.toNat {} }

def execSclose (x : Ext) (s : State) : Res :=
  let i := x.d.idx.toNat
  s.run { (Enc.ofExt 0x205 x).op (sclose x) with
    writes := fun _ => portKeys i
    dyn := fun s gid _ => (if ((s.group gid).port i).bound then 0 else 3)
    memory := true } noWalk

/-! ### Fences -/

/-- A fence put among the group's accesses. -/
def fenceAcc (x : Ext) (kind : AccKind) (r : Run) : Acc := { mkAcc x kind r [] with bytes := 0 }

/-- FENCE (R177). -/
def fence (x : Ext) (s : State) (r : Run) : State :=
  let all := bit 0 x.mod
  let kind := match x.m43 with
    | 1 => AccKind.fenceAcq all
    | 2 => .fenceRel all
    | _ => .fenceAr all
  s.issueAcc r.gid r.sid (fenceAcc x kind r)

def execFence (x : Ext) (s : State) : Res :=
  let op : Op := { (Enc.ofExt 0x242 x).op (fence x) with
    memory := true, ends := 2 ≤ x.m43 && x.scope ≠ 0 }
  s.run (if 2 ≤ x.m43 then op.releasing (fun k => bit 0 x.mod || k = x.stream) else op) noWalk

/-- Fewer than two bits of a stream mask are set: each alone, the mask leaves nothing. -/
def fewStreams (m : BitVec 16) : Bool := m &&& (m - 1) = 0

/-- FENCEX (R178). -/
def fencex (x : Ext) (s : State) (r : Run) : State :=
  let m : BitVec 16 := BitVec.ofNat 16 (readUni r.g r.lit .bits true x.b)
  if fewStreams m then s else s.issueAcc r.gid r.sid (fenceAcc x (.fencex m) r)

def execFencex (x : Ext) (s : State) : Res :=
  s.run { (Enc.ofExt 0x243 x).op (fencex x) with
    reads := fun g => srcKeys g (x.b, true)
    memory := true } noWalk

/-- The widened range of FENCEA: first byte and number (R179). -/
def fenceaRange (x : Ext) (r : Run) : Nat × Nat :=
  let a := readUni r.g r.lit .int true x.a
  let n := readUni r.g r.lit .int true x.b
  if n = 0 then (a, 0) else (a / 128 * 128, (a % 128 + n + 127) / 128 * 128)

/-- The first page of a range that does not translate, as a halt; a page in migration makes it wait. -/
def State.rangeFault (s : State) (g : Group) (bl : Bool) (want : Want) (l : List (Nat × Nat)) :
    Option (BitVec 8 × Nat) :=
  l.findSome? (fun p => match s.translate g.ctx g.super bl want p.1 with
    | .fault c => some (c, p.1)
    | _ => none)
def State.rangeBusy (s : State) (g : Group) (l : List (Nat × Nat)) : Bool :=
  l.any (fun p => s.translate g.ctx g.super false 0 p.1 = .busy)

/-- FENCEA's checks: a length above 16 MiB (R162; DESIGN CHOICE, log 27), the pages (R161). -/
def fenceaCheck (x : Ext) (s : State) (r : Run) : Chk :=
  let n := readUni r.g r.lit .int true x.b
  let (a, len) := fenceaRange x r
  if 2 ^ 24 < n then .trap 0x03 r.active 0 2
  else
    match s.rangeFault (s.group r.gid) (x.space = 2) 0 (pagesOf a len) with
    | some (c, va) => .halt c (BitVec.ofNat 64 va)
    | none => .ok

/-- A physical byte range written back to DRAM from a core's L1 and the home slices, and invalidated in
both (R179). -/
def State.fenceRange (s : State) (c pa n : Nat) : State :=
  let inRange (k : Nat) : Bool := pa < (k + 1) * 32 && k * 32 < pa + n
  let s := ((s.core c).l1.keys.filter inRange).foldl (fun s k => s.l1Flush c k) s
  (s.slice.keys.filter inRange).foldl (fun s k => s.sliceClean k true) s

/-- FENCEA (R179). -/
def fencea (x : Ext) (s : State) (r : Run) : State :=
  let g := s.group r.gid
  let (a, n) := fenceaRange x r
  (pagesOf a n).foldl (fun s p =>
    match s.translate g.ctx g.super (x.space = 2) 0 p.1 with
    | .ok pa _ leaf => (s.noteLeaf g.ctx pa leaf).fenceRange (coreOf r.gid) pa p.2
    | _ => s) s

/-- An earlier access of the group, an engine operation among them, overlaps the range of a FENCEA (R179). -/
def fenceaWaits (x : Ext) (s : State) (r : Run) : Bool :=
  let g := s.group r.gid
  let (a, n) := fenceaRange x r
  let l := rangeAccs 0 0 a n true
  g.accs.any (fun y => y.po.getLsbD r.sid && l.any (s.overlap g y)) || !(s.enginesIn r.gid r.sid l).isEmpty

/-- The deferred trap an access leaves once all of it is performed (R374). -/
def Acc.trap (a : Acc) : List Deferred :=
  match a.bad with
  | none => []
  | some (m, addr, new) =>
    [{ cause := if new then 0x10 else 0x11, lanes := if a.uniform then a.active else m,
       addr := BitVec.ofNat 64 addr, info := 1, op := a.id, engine := none, target := a.target,
       red := if a.kind = .red then some a.stream else none, space := a.space, bytes := a.bytes, span := a.span }]

/-- The bytes of the RED whose trap this is, as an access. -/
def Deferred.access (d : Deferred) : Acc :=
  { id := 0, kind := .red, po := 0, stream := 0, scope := 0, policy := 0, space := d.space, ord := 0, bytes := d.bytes, ty := 6,
    lanes := d.span.map (fun a => ⟨0, a, 0, 0⟩), target := .none }

def execFencea (x : Ext) (s : State) : Res :=
  s.run { (Enc.ofExt 0x244 x).op (fencea x) with
    reads := fun g => srcKeys g (x.a, true) ++ srcKeys g (x.b, true)
    memory := true
    check := fenceaCheck x
    deferred := fun s r =>
      let (a, n) := fenceaRange x r
      (s.group r.gid).deferred.find? (fun d => d.red.isSome &&
        (rangeAccs 0 0 a n true).any (s.overlap (s.group r.gid) d.access))
    held := fun s r =>
      let (a, n) := fenceaRange x r
      if s.rangeBusy (s.group r.gid) (pagesOf a n) then some (0, s)
      else if fenceaWaits x s r then some (11, s)
      else none } noWalk

/-! ### Performing an access -/

/-- The first failing sector and lanes of an access, more of them noted (R366, R374). -/
def Acc.poisoned (a : Acc) (lanes : Mask) (addr : Nat) (new : Bool) : Acc :=
  match a.bad with
  | none => { a with bad := some (lanes, addr, new) }
  | some (m, b, n) => { a with bad := some (m ||| lanes, min b addr, n || new) }

/-- A loaded number as its register takes it (R165): narrow i types sign-extended to 32 bits. -/
def loaded (ty v : Nat) : DWord :=
  if tyBits ty < 32 && isSignedTy ty then
    BitVec.ofNat 64 (wrapTo 32 (numOf true (tyBits ty) v))
  else BitVec.ofNat 64 v

/-- Poison in every register word of a result (R374). -/
def poisonValue (wide : Bool) : DWord := if wide then poisonWord ++ poisonWord else poisonWord.setWidth 64

/-- What an atomic stores and its flags (R172, R174): old value, operand, compare value. Poison beside a signalling NaN is
stored as poison with no flag. DESIGN CHOICE, log 103. -/
def atomicValue (a : Acc) (old val cmp : Nat) : Nat × Flags :=
  let w := 8 * a.bytes
  let n (x : Nat) : Int := numOf (isSignedTy a.ty) w x
  match a.op with
  | 0 =>
    if a.ty = 8 then
      let x := FVal.read f32 false old
      let y := FVal.read f32 false val
      let (z, f) := (FVal.add 0 x y).round f32 0 false false
      (z, if x.isPoison || y.isPoison then 0 else f)
    else ((old + val) % 2 ^ w, 0)
  | 1 => (if n val < n old then val else old, 0)
  | 2 => (if n old < n val then val else old, 0)
  | 3 => (old &&& val, 0)
  | 4 => (old ||| val, 0)
  | 5 => (old ^^^ val, 0)
  | 6 => (val, 0)
  | _ => (if old = cmp then val else old, 0)

/-- The lanes of an access in the sector a lane names. -/
def Acc.inSector (a : Acc) (addr : Nat) : List LaneAcc :=
  a.lanes.filter (fun l => l.addr / 32 = addr / 32)

/-- The lanes performed, taken from the access, with their values. -/
def Acc.took (a : Acc) (l : List LaneAcc) (vals : List (Nat × DWord)) : Acc :=
  { a with lanes := a.lanes.filter (fun e => !l.contains e), got := a.got ++ vals }

/-- The bytes that stores of some lanes give a sector: mask and data; of lanes that name one place any one's
value is stored (R163). DESIGN CHOICE, log 7. -/
def mergeStores (n free : Nat) (l : List LaneAcc) : BitVec 256 × BitVec 256 :=
  l.foldl (fun (m, d) e =>
    let bm := byteMask (e.addr % 32) n
    if m &&& bm ≠ 0 && !Config.freeBit (free + e.lane) then (m, d)
    else (m ||| bm, blend bm (BitVec.shiftLeft (e.val.setWidth 256) (8 * (e.addr % 32))) d)) (0, 0)

/-- A part of an access in the scratchpad (R161, R165, R166, R172, R175). -/
def State.performSp (s : State) (gid : Nat) (a : Acc) (lane : LaneAcc) : State × Acc :=
  let g := s.group gid
  let w := s.wg g.wg
  let free := s.fresh * 2 ^ 16
  match a.kind with
  | .load =>
    let l := a.inSector lane.addr
    (s, a.took l (l.map (fun e => (e.lane, loaded a.ty (w.spRead e.addr a.bytes)))))
  | .store =>
    let l := (a.inSector lane.addr).filter (fun e => !s.matrixHolds gid a.id e.addr a.bytes)
    let put (st : Workgroup × List Nat) (e : LaneAcc) : Workgroup × List Nat :=
      if st.2.contains e.addr && !Config.freeBit (free + e.lane) then st
      else (st.1.spWrite e.addr a.bytes e.val.toNat true, e.addr :: st.2)
    ({ s.setWg g.wg (l.foldl put (w, [])).1 with fresh := s.fresh + 1 }, a.took l [])
  | _ =>
    let old := w.spRead lane.addr a.bytes
    let (v, f) := atomicValue a old lane.val.toNat lane.cmp.toNat
    let s := s.setWg g.wg (w.spWrite lane.addr a.bytes v false)
    let got := if a.kind = .red then [] else [(lane.lane, BitVec.ofNat 64 old)]
    (s, { a.took [lane] got with flags := a.flags ||| f })

/-- An atomic's place in memory (R173, R288): the issuing core's L1 gives the line up; an MS page's line leaves
the home slice for DRAM; otherwise the slice's copy is used. Answers the state, the sector and whether a new
lasting error was found. -/
def State.atomicOpen (s : State) (core pa : Nat) (ms : Bool) (mark : Nat := 0) : State × Sector × Bool :=
  let sec := pa / 32
  let s := (lineOf sec).foldl (fun s k => s.l1Flush core k) s
  if ms then
    let s := (lineOf sec).foldl (fun s k => s.sliceClean k true) s
    let k := s.dram (sec * 32) / 32
    let (s, poison, new) := s.eccRead k
    (s, { data := dramSector s.mem k, poison := poison }, new)
  else s.homeRead sec mark

/-- An atomic's new sector stored where it was read. -/
def State.atomicClose (s : State) (pa : Nat) (ms : Bool) (x : BitVec 256) : State :=
  if ms then s.writeDram (s.dram (pa / 32 * 32) / 32) x false
  else s.homeWrite (pa / 32) (byteMask 0 32) x

/-- Flags ORed into the atomic-exception register of a context and stack (R175, R27). DEDUCED, log 55. -/
def State.atomFlags (s : State) (ctx pa : Nat) (f : Flags) : State :=
  let c := s.ctx ctx
  let k := (0x3000 + 8 * (s.home pa / 4)) / 8
  s.setCtx ctx { c with tables := c.tables.set 0 k (c.tables.get 0 k ||| f.setWidth 64) }

/-- An access of a sector makes a request that reaches the home slice (R341): an L1 fill, a read or write that bypasses the
L1, a store at .dev or .sys, an atomic. -/
def State.reachesHome (s : State) (core : Nat) (a : Acc) (sec : Nat) : Bool :=
  match a.kind with
  | .load => (s.l1Look core sec).all (fun x => a.policy = 3 && !x.dirty)
  | .store => a.scope ≠ 0 || (s.l1Look core sec).isNone
  | _ => true

/-- A part of an access at a physical address (R165, R166, R172 to R175, R280, R374). -/
def State.performMem (s : State) (gid : Nat) (a : Acc) (lane : LaneAcc) (pa : Nat) (ms : Bool) :
    State × Acc :=
  let g := s.group gid
  let c := coreOf gid
  let sec := pa / 32
  let wide := a.bytes = 8
  match a.kind with
  | .load =>
    let l := a.inSector lane.addr
    let (t, x, new) := s.l1Read c sec a.policy
    let pair := pairOf (lane.addr / 32)
    let pairNew := s.pairFailed t sec && a.lanes.any (fun e => e.addr / 32 = pair)
    let s := t
    let val (e : LaneAcc) : DWord :=
      if x.poison then poisonValue wide else loaded a.ty (sectorBytes x.data (e.addr % 32) a.bytes)
    let a := if x.poison then
        a.poisoned (maskOf (fun i => l.any (fun e => e.lane = i))) (lane.addr / 32 * 32) new else a
    let a := if pairNew then a.poisoned 0 (pair * 32) true else a
    (s, a.took l (l.map (fun e => (e.lane, val e))))
  | .store =>
    let l := a.inSector lane.addr
    let (m, d) := mergeStores a.bytes (s.fresh * 2 ^ 16) l
    let s := { s with fresh := s.fresh + 1 }
    (s.l1Write c sec a.scope a.policy m d, a.took l [])
  | _ =>
    let s := s.sendHome (.atomic (if a.op = 7 then 2 * a.bytes else a.bytes)) c pa
    let (s, x, new) := s.atomicOpen c pa ms (markOf a.policy)
    if x.poison then
      (s, (a.poisoned (maskOf (fun i => lane.lane = i)) (lane.addr / 32 * 32) new).took [lane]
        [(lane.lane, poisonValue wide)])
    else
      let old := sectorBytes x.data (pa % 32) a.bytes
      let (v, f) := atomicValue a old lane.val.toNat lane.cmp.toNat
      let bm := byteMask (pa % 32) a.bytes
      let s := s.atomicClose pa ms (blend bm (BitVec.ofNat 256 v <<< (8 * (pa % 32))) x.data)
      if a.kind = .red then (s.atomFlags g.ctx pa f, a.took [lane] [])
      else (s, { a.took [lane] [(lane.lane, BitVec.ofNat 64 old)] with flags := a.flags ||| f })

/-- A part of an access in control space, at the register's own width (R27); lanes that load one register load it at once
(R163). -/
def State.performCtl (s : State) (gid : Nat) (a : Acc) (lane : LaneAcc) (pa : Nat) : State × Acc :=
  let ctx := (s.group gid).ctx
  match a.kind with
  | .load =>
    let l := a.lanes.filter (fun e => e.addr = lane.addr)
    let v := loaded a.ty ((s.ctlRead ctx pa a.bytes).toNat % 2 ^ (8 * a.bytes))
    (s.ctlTouch pa a.bytes, a.took l (l.map (fun e => (e.lane, v))))
  | .store => (s.ctlWrite ctx pa a.bytes lane.val, a.took [lane] [])
  | _ =>
    let old := (s.ctlRead ctx pa a.bytes).toNat
    let (v, f) := atomicValue a old lane.val.toNat lane.cmp.toNat
    (s.ctlWrite ctx pa a.bytes (BitVec.ofNat 64 v),
      { a.took [lane] [(lane.lane, BitVec.ofNat 64 old)] with flags := a.flags ||| f })

/-- Everything an access must follow has been performed (R279, R283); a port write waits for its result (R292). -/
def State.canPerform (s : State) (gid : Nat) (a : Acc) : Bool :=
  let g := s.group gid
  a.kind ≠ .push && a.after.all (fun i => !(g.accs.any (fun b => b.id = i))) &&
    a.engines.all (fun i => !s.opRunning gid i)

/-- The cache steps of a release before its access, and of an acquire after it (R283, R284). DEDUCED, log 54. -/
def State.releaseStep (s : State) (gid : Nat) (a : Acc) : State :=
  let rel := match a.kind with
    | .fenceRel _ | .fenceAr _ => true
    | .store | .atomic | .red => a.ord = 2 || a.ord = 3
    | _ => false
  if rel && a.scope ≠ 0 then s.l1WritebackAll (coreOf gid) else s
def State.acquireStep (s : State) (gid : Nat) (a : Acc) : State :=
  let acq := match a.kind with
    | .fenceAcq _ | .fenceAr _ => true
    | .load | .atomic => a.ord = 1 || a.ord = 3
    | _ => false
  if acq && a.scope ≠ 0 then s.l1InvalidateClean (coreOf gid) else s

/-- The physical rows of a target have the generations it was issued with (R270). -/
def Target.current (t : Target) (gens : Tab Nat) : Bool :=
  match t with
  | .v _ ph gen => gens.get 0 ph = gen
  | .vPair _ _ ph ph2 gen gen2 => gens.get 0 ph = gen && gens.get 0 ph2 = gen2
  | _ => true

/-- The group still holds those rows where it held them (R270). -/
def Target.held (t : Target) (g : Group) : Bool :=
  match t with
  | .v r ph _ => g.phys[r]? = some ph
  | .vPair r r2 ph ph2 _ _ => g.phys[r]? = some ph && g.phys[r2]? = some ph2
  | _ => true

/-- An access put back with what is left of it; when nothing is left it is performed: its result is on its way, a
scratchpad RED's flags join FPFLAGS (R175), and its deferred trap is noted (R56, R374), but not that of a write that will be
discarded (R270). -/
def State.settleAcc (s : State) (gid : Nat) (a : Acc) : State :=
  let g := s.group gid
  if a.lanes.isEmpty then
    let lands := a.kind = .red || (a.target ≠ .none && a.target.current (s.gens gid) && a.target.held g)
    let g := { g with
      accs := g.accs.filter (fun b => b.id ≠ a.id), deferred := if lands then g.deferred ++ a.trap else g.deferred }
    let g := if a.kind = .red then g.orFlags a.flags else g
    let s := (s.setGroup gid g).acquireStep gid a
    if a.kind = .load || a.kind = .atomic then
      let split := ([0, 1, 2, 3].find? (fun i => a.po.getLsbD i)).getD 0
      s.reply gid { id := a.id, split := split, target := a.target, vals := a.got, flags := a.flags }
    else s
  else
    s.setGroup gid { g with accs := g.accs.map (fun b => if b.id = a.id then a else b) }

/-- A halt the access meets: the context halts, the access is gone (R161, R375). -/
def State.haltAcc (s : State) (gid : Nat) (a : Acc) (cause : BitVec 8) (addr : Nat) : State :=
  let g := s.group gid
  let s := s.setGroup gid { g with accs := g.accs.filter (fun b => b.id ≠ a.id) }
  s.halt g.ctx cause (BitVec.ofNat 64 addr) (slotOf gid)

/-- A PART OF AN OUTSTANDING ACCESS IS PERFORMED: the sector a lane names, or that lane's atomic; nothing happens
while what it must follow is outstanding, its page is in migration (R161), or a matrix instruction has still
to read the bytes (R205). DESIGN CHOICE, log 9. An atomic on an MS page of the capacity tier is performed in the home slice.
DESIGN CHOICE, log 104. -/
def State.perform (s : State) (gid id lane : Nat) : State :=
  let g := s.group gid
  match g.accs.find? (fun a => a.id = id) with
  | none => s
  | some a =>
    if !s.canPerform gid a || !(s.mayWork g.ctx (slotOf gid) || s.savesHalted g.ctx) then s
    else
      match a.lanes.find? (fun e => e.lane = lane) <|> a.lanes.head? with
      | none => (s.releaseStep gid a).settleAcc gid a
      | some e =>
        let s' := s.releaseStep gid a
        if a.space = 1 then
          if (s.wgOf gid).spBytes < e.addr + a.bytes then s.haltAcc gid a 0xC1 e.addr
          else if a.kind.writes && s.matrixHolds gid a.id e.addr a.bytes then s
          else
            let (t, a) := s'.performSp gid a e
            t.settleAcc gid a
        else
          let want := if a.kind.writes then 1 else 0
          match s'.coreTranslate (coreOf gid) g.ctx a.super (a.space = 2) want e.addr with
          | (_, .busy) => s
          | (_, .fault c) => s.haltAcc gid a c e.addr
          | (t, .ok pa entry leaf) =>
            if t.window pa = some 3 then
              let (t, a) := t.performCtl gid a e pa
              t.settleAcc gid a
            else
              let t := if t.reachesHome (coreOf gid) a (pa / 32) then t.countPage g.ctx pa entry leaf
                else t.noteLeaf g.ctx pa leaf
              let ms := bit 4 entry && pa < capBase
              let (t, a) := t.performMem gid a e pa ms
              t.settleAcc gid a

/-! ### Arrival of a result -/

/-- ASYNC_WRITE_ARRIVAL: a result reaches its registers, or is discarded and counted when its rows have a new
generation (R56, R270); its flags join FPFLAGS (R175), but not those of a result bound for no register, which a relay has
left behind (R101). Rows the group no longer holds, and nobody took, are in no
register file. -/
def State.arrive (s : State) (gid k : Nat) : State :=
  let g := s.group gid
  match g.replies[k]? with
  | none => s
  | some r =>
    let g := { g with replies := g.replies.eraseIdx k,
                      pending := g.pending.filter (fun e => e.1 ≠ r.id),
                      accs := g.accs.filter (fun a => !(a.kind = .push && a.id = r.id)) }
    let s := { s with xchgs := s.xchgs.filter (fun q => q.reply ≠ r.id) }
    if r.target.current (s.gens gid) then
      let s := s.setGroup gid (if r.target = .none then g else g.orFlags r.flags)
      if !r.target.held g then s
      else
        let s := s.land gid ((g.pending.find? (fun e => e.1 = r.id)).elim r.split (·.2.2)) r.target r.vals
        match r.target with
        | .port i => if i = 2 || i = 3 then s.pushPort gid i r.vals else s
        | _ => s
    else
      let sl := s.slot (slotOf gid)
      let n : Word := if sl.discarded = BitVec.allOnes 32 then sl.discarded else sl.discarded + 1
      (s.setGroup gid g).setSlot (slotOf gid) { sl with discarded := n }

def execAsyncWriteArrival (gid k : Nat) (s : State) : Res := .next (s.arrive gid k)

end Sys2Proof.Machine
end

