-- ==== Sys2Proof/Machine/Spill.lean ====
section
/-! DEFINITION. The spill area of a group and the spill engine (R259, R260, R265 to R268). -/

namespace Sys2Proof.Machine

/-- 32-byte sectors stored at the home slices from a virtual address, the core's own copies invalidated; stops
at the first address that does not translate (R265, R182). -/
def State.homeStore (s : State) (core ctx : Nat) (super : Bool) (va : Nat) :
    List (BitVec 256) → State × Tr
  | [] => (s, .ok 0 0 0)
  | x :: xs =>
    match s.translate ctx super false 1 va with
    | .ok pa e l =>
      let s := (s.countPage ctx pa e l).copyWrite core (pa / 32) x false
      s.homeStore core ctx super (va + 32) xs
    | r => (s, r)

/-- A spilled sector as it is served: with poison its words are open (R366; DESIGN CHOICE, log 43). -/
def servedSpill (n va : Nat) (x : Sector) : BitVec 256 :=
  let word (j : Nat) : BitVec 256 := (Config.freeWord (n * 2 ^ 16 + 2 ^ 15 + (va / 4 + j) % 2 ^ 15)).setWidth 256
  if x.poison then (List.range 8).foldl (fun d j => d ||| (word j <<< (32 * j))) 0 else x.data

/-- n sectors read at the home slices from a virtual address. -/
def State.homeLoad (s : State) (core ctx : Nat) (super : Bool) (va : Nat) :
    Nat → State × List (BitVec 256) × Tr
  | 0 => (s, [], .ok 0 0 0)
  | n + 1 =>
    match s.translate ctx super false 0 va with
    | .ok pa e l =>
      let (s, x, _) := ((s.countPage ctx pa e l).sendHome (.line 32) core pa).homeRead (pa / 32)
      let (s, xs, r) := s.homeLoad core ctx super (va + 32) n
      (s, servedSpill s.fresh va x :: xs, r)
    | r => (s, [], r)

/-- S, the bytes of a group's spill area, and its first address (R265). -/
def State.areaBytes (s : State) (gid : Nat) : Nat := (s.wgOf gid).spill * 4096
def State.areaBase (s : State) (gid : Nat) : Nat :=
  (s.wgOf gid).spillBase.toNat + (s.group gid).idx * s.areaBytes gid

/-- Entries the token region and the return region hold (R265). -/
def State.tokRoom (s : State) (gid : Nat) : Nat := s.areaBytes gid / 256
/-- Logical rows the row region holds (R267). -/
def State.rowRoom (s : State) (gid : Nat) : Nat := 3 * s.areaBytes gid / 4 / 128

/-- Addresses of a spilled return entry, token and row (R265). -/
def State.retAt (s : State) (gid k : Nat) : Nat := s.areaBase gid + 32 * k
def State.tokAt (s : State) (gid k : Nat) : Nat := s.areaBase gid + s.areaBytes gid / 8 + 32 * k
def State.rowAt (s : State) (gid r : Nat) : Nat := s.areaBase gid + s.areaBytes gid / 4 + 128 * r

/-- A token's 32 bytes (R260). -/
def Token.pack (t : Token) : BitVec 256 :=
  let n (b : Bool) : Nat := if b then 1 else 0
  let kind := match t.kind with | .join => 1 | .defer => 2 | .loop => 3 | .other => 0
  BitVec.ofNat 256 (t.pc1.toNat + 2 ^ 64 * t.pc2.toNat + 2 ^ 128 * t.maskA.toNat +
    2 ^ 160 * t.maskB.toNat + 2 ^ 192 * kind + 2 ^ 200 * (t.sp1 % 4) + 2 ^ 202 * (t.sp2 % 4) +
    2 ^ 204 * n t.phase + 2 ^ 206 * n t.ppk + 2 ^ 207 * n t.cpk)

/-- A token read from memory (R260). -/
def Token.unpack (x : BitVec 256) : Token :=
  { kind := match bits 199 192 x with | 1 => .join | 2 => .defer | 3 => .loop | _ => .other,
    pc1 := x.extractLsb 63 0, pc2 := x.extractLsb 127 64, sp1 := bits 201 200 x,
    sp2 := bits 203 202 x, maskA := x.extractLsb 159 128, maskB := x.extractLsb 191 160,
    phase := bit 204 x, ppk := bit 206 x, cpk := bit 207 x }

/-- A return-stack entry's 32 bytes (R266). -/
def Ret.pack (e : Ret) : BitVec 256 :=
  BitVec.ofNat 256 (e.rpc.toNat + 2 ^ 96 * (e.wbs % 2 ^ 32) + 2 ^ 128 * (e.wsz % 2 ^ 32) +
    2 ^ 160 * (e.rtops % 2 ^ 32) + 2 ^ 192 * (e.depth % 256))

/-- A return-stack entry read from memory (R266). -/
def Ret.unpack (x : BitVec 256) : Ret :=
  { rpc := x.extractLsb 63 0, wbs := bits 127 96 x, wsz := bits 159 128 x,
    rtops := bits 191 160 x, depth := bits 199 192 x }

/-- What the spill engine answers: done, a page in migration, or a halt of the context. -/
inductive Spill where
  | ok (s : State)
  | busy
  | halt (s : State)

/-- A transfer's outcome, FADDR the address it stopped at. -/
def Spill.of (gid va : Nat) (s : State) (r : Tr) : Spill :=
  match r with
  | .ok .. => .ok s
  | .busy => .busy
  | .fault c => .halt (s.halt (s.group gid).ctx c (BitVec.ofNat 64 va) (slotOf gid))

/-- Sectors stored in a group's spill area. -/
def State.areaPut (s : State) (gid va : Nat) (xs : List (BitVec 256)) : Spill :=
  let g := s.group gid
  let (t, r) := s.homeStore (coreOf gid) g.ctx g.super va xs
  Spill.of gid va t r

/-- Spilled tokens, topmost first (R259). -/
def State.spilledTokens (s : State) (gid : Nat) : List Token :=
  let g := s.group gid
  let n := g.tokSpill
  let (_, xs, _) := s.homeLoad (coreOf gid) g.ctx g.super (s.tokAt gid 0) n
  (xs.map Token.unpack).reverse

/-- The whole reconvergence stack, top first (R259). -/
def State.allTokens (s : State) (gid : Nat) : List Token :=
  (s.group gid).tokens ++ s.spilledTokens gid

/-- The first spilled token whose place cannot be reached for reading and writing, with what is met there. -/
def State.tokTrouble (s : State) (gid : Nat) : Option (Nat × Tr) :=
  let g := s.group gid
  (List.range g.tokSpill).findSome? (fun k => match s.translate g.ctx g.super false 1 (s.tokAt gid k) with
    | .ok .. => none
    | r => some (s.tokAt gid k, r))

/-- A search of the token region waits while one of its pages is in migration, and halts the context where one does not
translate (R26, R161). -/
def State.regionReady (s : State) (gid : Nat) : Spill :=
  match s.tokTrouble gid with
  | some (va, r) => Spill.of gid va s r
  | none => .ok s

/-- The transfers after a transfer that is done. -/
def Spill.andThen (r : Spill) (f : State → Spill) : Spill :=
  match r with
  | .ok s => f s
  | r => r

/-- The spilled tokens rewritten, topmost first: only places that change are stored. -/
def State.putSpilled (s : State) (gid : Nat) (l : List Token) : Spill :=
  let g := s.group gid
  let old := (s.spilledTokens gid).reverse
  let new := l.reverse
  let put (st : State × Nat) (t : Token) : State × Nat :=
    if old[st.2]? = some t then (st.1, st.2 + 1)
    else ((st.1.homeStore (coreOf gid) g.ctx g.super (s.tokAt gid st.2) [t.pack]).1, st.2 + 1)
  (s.regionReady gid).andThen (fun s =>
    let s := (new.foldl put (s, 0)).1
    .ok (s.setGroup gid { s.group gid with tokSpill := l.length }))

/-- The token at a place of the whole stack replaced, or removed: tokens above a removed one keep their
order (R255). -/
def State.editToken (s : State) (gid i : Nat) (t : Option Token) : Spill :=
  let g := s.group gid
  let edit (l : List Token) (i : Nat) : List Token :=
    match t with
    | some t => l.set i t
    | none => l.eraseIdx i
  let n := g.tokens.length
  if i < n then .ok (s.setGroup gid { g with tokens := edit g.tokens i })
  else s.putSpilled gid (edit (s.spilledTokens gid) (i - n))

/-- A token pushed; with 32 in hardware the lowest is spilled first (R259). -/
def State.pushToken (s : State) (gid : Nat) (t : Token) : Spill :=
  let g := s.group gid
  if g.tokens.length < 32 then .ok (s.setGroup gid { g with tokens := t :: g.tokens })
  else
    match s.areaPut gid (s.tokAt gid g.tokSpill) ((g.tokens.drop 31).map Token.pack) with
    | .ok s =>
      .ok (s.setGroup gid { s.group gid with
        tokens := t :: g.tokens.take 31, tokSpill := g.tokSpill + 1 })
    | r => r

/-- A return entry pushed, the same way (R266). -/
def State.pushRet (s : State) (gid : Nat) (e : Ret) : Spill :=
  let g := s.group gid
  if g.rets.length < 32 then .ok (s.setGroup gid { g with rets := e :: g.rets })
  else
    match s.areaPut gid (s.retAt gid g.retSpill) ((g.rets.drop 31).map Ret.pack) with
    | .ok s =>
      .ok (s.setGroup gid { s.group gid with
        rets := e :: g.rets.take 31, retSpill := g.retSpill + 1 })
    | r => r

/-- The state a transfer leaves: unchanged while its page is in migration. -/
def Spill.state (s : State) : Spill → State
  | .ok t => t
  | .busy => s
  | .halt t => t

/-- A transfer waits for a page in migration. -/
def Spill.waits : Spill → Bool
  | .busy => true
  | _ => false

/-- Whether the spill engine has a token to bring back (R259). -/
def Group.tokFill (g : Group) : Bool := g.tokens.length < 32 && g.tokSpill ≠ 0

/-- The topmost spilled token brought back into hardware (R259). -/
def State.fillToken (s : State) (gid : Nat) : Spill :=
  let g := s.group gid
  if !g.tokFill then .ok s
  else
    let va := s.tokAt gid (g.tokSpill - 1)
    let (t, xs, r) := s.homeLoad (coreOf gid) g.ctx g.super va 1
    match Spill.of gid va t r with
    | .ok t =>
      let g := t.group gid
      .ok (t.setGroup gid { g with tokens := g.tokens ++ xs.map Token.unpack,
                                   tokSpill := g.tokSpill - 1 })
    | r => r

/-- The same for return entries (R266). -/
def Group.retFill (g : Group) : Bool := g.rets.length < 32 && g.retSpill ≠ 0

def State.fillRet (s : State) (gid : Nat) : Spill :=
  let g := s.group gid
  if !g.retFill then .ok s
  else
    let va := s.retAt gid (g.retSpill - 1)
    let (t, xs, r) := s.homeLoad (coreOf gid) g.ctx g.super va 1
    match Spill.of gid va t r with
    | .ok t =>
      let g := t.group gid
      .ok (t.setGroup gid { g with rets := g.rets ++ xs.map Ret.unpack, retSpill := g.retSpill - 1 })
    | r => r

/-- A logical row as four sectors, word i holding lane i (R265). -/
def Group.rowSectors (g : Group) (r : Nat) : List (BitVec 256) :=
  let a := r % g.alloc
  [0, 1, 2, 3].map (fun q =>
    (List.range 8).foldl
      (fun x i => x ||| ((g.rows.get 0 (a * 32 + 8 * q + i)).setWidth 256 <<< (32 * i))) 0)

/-- A logical row filled from its four sectors. -/
def Group.setRow (g : Group) (r : Nat) (xs : List (BitVec 256)) : Group :=
  let a := r % g.alloc
  let word (t : Tab Word) (lane : Nat) : Tab Word :=
    t.set 0 (a * 32 + lane) (((xs.getD (lane / 8) 0) >>> (32 * (lane % 8))).setWidth 32)
  { g with rows := (List.range 32).foldl word g.rows }

/-- Logical rows lo, lo + 1, … (n of them) written to the row region (R267). -/
def State.spillRows (s : State) (gid lo : Nat) : Nat → Spill
  | 0 => .ok s
  | n + 1 =>
    match s.areaPut gid (s.rowAt gid lo) ((s.group gid).rowSectors lo) with
    | .ok s => s.spillRows gid (lo + 1) n
    | r => r

/-- Logical rows lo, lo + 1, … (n of them) read from the row region (R267). -/
def State.fillRows (s : State) (gid lo : Nat) : Nat → Spill
  | 0 => .ok s
  | n + 1 =>
    let g := s.group gid
    let (t, xs, r) := s.homeLoad (coreOf gid) g.ctx g.super (s.rowAt gid lo) 4
    match Spill.of gid (s.rowAt gid lo) t r with
    | .ok t => (t.setGroup gid ((t.group gid).setRow lo xs)).fillRows gid (lo + 1) n
    | r => r

/-- The allocation rows of logical rows lo to hi − 1 change hands: results not yet readable in them are
forgotten as such (R268). -/
def Group.forgetRows (g : Group) (lo hi : Nat) : Group :=
  let hit (t : Target) : Bool :=
    t.keys.any (fun k => k < 1024 && (List.range (hi - lo)).any (fun i => (lo + i) % g.alloc = k))
  let one (e : Fresh) : Fresh := if hit e.target then { e with target := .none, old := [] } else e
  { g with fresh := g.fresh.map one }

/-- An asynchronous write is outstanding to an allocation row of logical rows lo to hi − 1 (R268). -/
def Group.rowsBusy (g : Group) (lo hi : Nat) : Bool :=
  g.pending.any (fun e => e.2.1.keys.any (fun k =>
    k < 1024 && (List.range (hi - lo)).any (fun i => (lo + i) % g.alloc = k)))

/-- Tokens and return entries brought back as far as there is room and their pages can be reached: the work that a STEP's
instruction may need (R262). -/
def State.fillAll : Nat → Nat → State → State
  | 0, _, s => s
  | n + 1, gid, s =>
    match s.fillToken gid with
    | .ok t =>
      match t.fillRet gid with
      | .ok u => State.fillAll n gid u
      | _ => t
    | _ => s

/-- SPILL_ENGINE_FILL (R259, R266): one token and one return entry brought back where there is room. -/
def execSpillEngineFill (gid : Nat) (s : State) : Res :=
  let s := (s.fillToken gid).state s
  .next ((s.fillRet gid).state s)

end Sys2Proof.Machine
end

