-- ==== Sys2Proof/Machine/Control.lean ====
section
/-! DEFINITION. Class 4: branches, splits and tokens, calls, EXIT, NOP, YIELD (R130 to R142, R254, R255,
R263, R267). -/

namespace Sys2Proof.Machine

/-- A branch offset in words: the signed immediate or literal (R130). -/
def offsetOf (x : Ext) : Int :=
  if x.b.cls = .imm then x.b.idx.toInt else (x.lit.getD 0).toInt

/-- The target of a branch at an address (R130). -/
def targetPc (pc : DWord) (off : Int) : DWord := pc + BitVec.ofInt 64 (4 * off)

/-- The common part of a class-4 instruction: spilled tokens and return entries are brought back before it
issues (R259, R266). -/
def Enc.control (e : Enc) (act : State → Run → State) : Op :=
  { e.op act with
    held := fun s r =>
      let g := s.group r.gid
      if g.tokFill then some (7, (s.fillToken r.gid).state s)
      else if g.retFill then some (7, (s.fillRet r.gid).state s) else none
    fills := fun g => g.tokFill || g.retFill }

/-- An instruction whose effect searches or edits the reconvergence stack: it waits before issue while that needs a page of
the token region that is in migration, and halts the context where one does not translate (R26, R161, R255, R259). -/
def Op.searching (op : Op) (work : State → Run → Spill) : Op :=
  { op with
    act := fun s r => (work s r).state s
    held := fun s r =>
      match op.held s r with
      | some h => some h
      | none => if (work s r).waits then some (7, s) else none }

/-- A split's pc set. -/
def State.jump (s : State) (gid sid : Nat) (pc : DWord) : State :=
  let g := s.group gid
  s.setGroup gid (g.setSplit sid { g.split sid with pc := pc })

/-- BRA (R131). -/
def bra (x : Ext) (s : State) (r : Run) : State :=
  s.jump r.gid r.sid (targetPc r.pc (offsetOf x))

/-- A w register of walker code and BRA: the single walker jumps (R131). -/
def braWalker (e : Enc) (s : State) (id : Nat) (k : Walker) : State :=
  let pc := k.pc - BitVec.ofNat 64 e.size
  { s with walkers := s.walkers.put id { k with pc := targetPc pc (offsetOf e.x) } }

/-- JMPI's checks: a target that is not a multiple of 4 raises trap 0x03 (R132, R162). -/
def jmpiCheck (x : Ext) (_ : State) (r : Run) : Chk :=
  let a := readUni r.g r.lit .int true x.a
  if a % 4 ≠ 0 then .trap 0x03 r.active (BitVec.ofNat 64 a) 1 else .ok

def jmpi (x : Ext) (s : State) (r : Run) : State :=
  s.jump r.gid r.sid (BitVec.ofNat 64 (readUni r.g r.lit .int true x.a))

/-- Depth of the reconvergence stack. -/
def Group.depth (g : Group) : Nat := g.tokens.length + g.tokSpill

/-- Trap 0x50 for a token that would pass the token region (R267). -/
def tokenCheck (s : State) (r : Run) : Chk :=
  let g := s.group r.gid
  if g.tokens.length = 32 && s.tokRoom r.gid ≤ g.tokSpill then .trap 0x50 r.active 0 2 else .ok

/-- The active lanes in which a BRD's predicate holds (R134). -/
def brdTaken (x : Ext) (r : Run) : Mask :=
  maskOf (fun i => Mask.has r.active i && readSrc r.g r.lanes r.lit .bits false x.a i = 1)

/-- The lowest free split number (R133). -/
def Group.freeSplit (g : Group) : Option Nat := [0, 1, 2, 3].find? (fun i => !(g.split i).live)

/-- Where an access or an engine operation stands: `po` and the LOOP tokens it will rejoin through (R263). -/
structure Standing where
  po : BitVec 4
  parks : List (Nat × DWord)

/-- Every access and engine operation of a group placed anew. -/
def Group.replace (g : Group) (f : Standing → Standing) : Group :=
  let acc (a : Acc) : Acc :=
    let p := f ⟨a.po, a.parks⟩
    { a with po := p.po, parks := p.parks }
  let op (o : OpOrder) : OpOrder :=
    let p := f ⟨o.po, o.parks⟩
    { o with po := p.po, parks := p.parks }
  { g with accs := g.accs.map acc, ops := g.ops.map op }

/-- What a split has issued stands before what another will issue, on the same terms (R263), and what a third has written
stays open to both (R49). -/
def Group.inherit (g : Group) (sid n : Nat) : Group :=
  let bit (b : BitVec 4) : BitVec 4 := if b.getLsbD sid then 1#4 <<< n else 0
  let seen (e : Fresh) : Fresh := { e with openTo := e.openTo ||| bit e.openTo }
  { g with fresh := g.fresh.map seen }.replace
    (fun p => { p with po := p.po ||| bit p.po })

/-- BRD divides its split (R134, R254, R263). -/
def brd (x : Ext) (s : State) (r : Run) : State :=
  let t := brdTaken x r
  let f := r.active &&& ~~~t
  let target := targetPc r.pc (offsetOf x)
  let rejoin := r.pc + BitVec.ofNat 64 (4 * x.mod.toNat)
  if t = 0 then s
  else if f = 0 then s.jump r.gid r.sid target
  else
    let g := s.group r.gid
    let me := g.split r.sid
    match g.freeSplit with
    | some n =>
      let g := (g.setSplit n { live := true, pc := target, mask := t, readyAt := me.readyAt,
                               last := s.cycle }).setSplit r.sid { me with mask := f }
      let s := s.setGroup r.gid (g.inherit r.sid n)
      (s.pushToken r.gid { kind := .join, pc1 := rejoin, sp1 := r.sid, sp2 := n }).state s
    | none =>
      let next := me.pc
      let s := s.setGroup r.gid (g.setSplit r.sid { me with mask := t, pc := target })
      (s.pushToken r.gid { kind := .defer, pc1 := rejoin, pc2 := next, sp1 := r.sid,
                           maskA := f }).state s

/-- A token names a split (R133). -/
def Token.names (t : Token) (sid : Nat) : Bool :=
  match t.kind with
  | .join => t.sp1 = sid || t.sp2 = sid
  | .defer | .loop => t.sp1 = sid
  | .other => false

/-- The readable cycle of every fixed-latency result of some splits (R57). -/
def Group.readable (g : Group) (sids : List Nat) : Nat :=
  g.fresh.foldl (fun n e => if sids.contains e.split then max n e.cycle else n) 0

/-- The split no longer exists; its number is free, and what it has written is no split's that lives. -/
def Group.freeNumber (g : Group) (sid : Nat) : Group :=
  let keep : BitVec 4 := ~~~(1#4 <<< sid)
  let gone (e : Fresh) : Fresh := { e with openTo := e.openTo &&& keep, split := if e.split = sid then 4 else e.split }
  let left (p : Nat × Target × Nat) : Nat × Target × Nat := (p.1, p.2.1, if p.2.2 = sid then 4 else p.2.2)
  ({ g with fresh := g.fresh.map gone, pending := g.pending.map left }.setSplit sid {}).replace
    (fun p => { p with po := p.po &&& keep })

/-- Parent and child merged into the parent's number: the masks together, the accesses of both as if the parent had issued
them, results of the child as the parent's, no instruction before R57 allows (R135, R254, R263). -/
def Group.merge (g : Group) (p c : Nat) (mask : Mask) (pc : DWord) (readyAt now : Nat) : Group :=
  let ready := max readyAt (g.readable [p, c])
  let both (x : Standing) : Standing :=
    if x.po.getLsbD c then { x with po := x.po ||| (1#4 <<< p) } else x
  let two : BitVec 4 := (1#4 <<< p) ||| (1#4 <<< c)
  let own (e : Fresh) : Fresh :=
    if e.split = c || e.split = p then { e with split := p, openTo := e.openTo &&& ~~~two }
    else if e.openTo &&& two ≠ 0 then { e with openTo := e.openTo ||| two } else e
  let ours (e : Nat × Target × Nat) : Nat × Target × Nat := (e.1, e.2.1, if e.2.2 = c then p else e.2.2)
  let g := { g.replace both with fresh := g.fresh.map own, pending := g.pending.map ours }
  (g.freeNumber c).setSplit p
    { live := true, pc := pc, mask := mask, readyAt := ready, last := now }

/-- The lanes that BRK parked in a LOOP token rejoin the split that takes it, and so do their accesses (R263). -/
def Group.rejoin (g : Group) (sid : Nat) (t : Token) : Group :=
  g.replace (fun p => if p.parks.contains (t.sp1, t.pc1) then
    { p with po := p.po ||| (1#4 <<< sid), parks := p.parks.filter (· ≠ (t.sp1, t.pc1)) } else p)

/-- What a split does at the token with index i of the stack, its mask as it stands; lanes that have exited are in no mask
again (R135, R137, R138). -/
def State.meetToken (s : State) (gid sid i : Nat) (t : Token) : Spill :=
  let g := s.group gid
  let x := g.split sid
  let after := t.pc1 + 12
  match t.kind with
  | .join =>
    let t := if t.sp1 = sid then { t with ppk := true, maskA := x.mask }
      else { t with cpk := true, maskB := x.mask }
    if t.ppk && t.cpk then
      (s.editToken gid i none).andThen (fun s =>
        .ok (s.setGroup gid ((s.group gid).merge t.sp1 t.sp2 ((t.maskA ||| t.maskB) &&& g.alive) after x.readyAt s.cycle)))
    else
      (s.editToken gid i (some t)).andThen (fun s =>
        .ok (s.setGroup gid ((s.group gid).setSplit sid { x with parked := true, pc := t.pc1, parkPc := t.pc1 })))
  | .defer =>
    if t.phase then
      (s.editToken gid i none).andThen (fun s =>
        let g := s.group gid
        .ok (s.setGroup gid (g.setSplit sid { x with
          mask := x.mask ||| (t.maskB &&& g.alive), pc := after, readyAt := max x.readyAt (g.readable [sid]) })))
    else
      (s.editToken gid i (some { t with phase := true, maskB := x.mask })).andThen (fun s =>
        .ok (s.setGroup gid ((s.group gid).setSplit sid { x with mask := t.maskA &&& g.alive, pc := t.pc2 })))
  | .loop =>
    (s.editToken gid i none).andThen (fun s =>
      let g := (s.group gid).rejoin sid t
      .ok (s.setGroup gid (g.setSplit sid { x with
        mask := x.mask ||| (t.maskB &&& g.alive), pc := after, readyAt := max x.readyAt (g.readable [sid]) })))
  | .other => .ok s

/-- What is done with the topmost token of a kind, with its place, or without one: the search runs through the hardware
tokens and then, when they do not hold it, through the spilled ones (R259). -/
def State.withToken (s : State) (gid : Nat) (want : Token → Bool) (f : State → Option (Nat × Token) → Spill) : Spill :=
  let find (l : List Token) : Option (Nat × Token) := (l.zipIdx.find? (fun e => want e.1)).map (fun e => (e.2, e.1))
  match find (s.group gid).tokens with
  | some e => f s (some e)
  | none => (s.regionReady gid).andThen (fun s => f s (find (s.allTokens gid)))

/-- The split that goes on after a split has met a token: the parent of a merge, else itself (R135). -/
def State.goesOn (s : State) (gid sid : Nat) (t : Token) : Nat :=
  if t.kind = .join && !((s.group gid).split sid).parked then t.sp1 else sid

/-- A split without lanes behaves as if it had executed the JOIN of the topmost token that names it; with
none it is removed; a merge of empty splits again (R137). The number bounds the tokens it can meet. -/
def State.emptySplit : Nat → Nat → Nat → State → Spill
  | 0, _, _, s => .ok s
  | n + 1, gid, sid, s =>
    let x := (s.group gid).split sid
    if !x.live || x.parked || x.mask ≠ 0 then .ok s
    else
      s.withToken gid (fun t => t.names sid) (fun s e =>
        match e with
        | none =>
          let g := (s.group gid).freeNumber sid
          .ok (s.setGroup gid { g with retiring := g.liveSplits.isEmpty })
        | some (i, t) =>
          (s.meetToken gid sid i t).andThen (fun s => State.emptySplit n gid (s.goesOn gid sid t) s))

/-- Every split without lanes settled. -/
def State.emptied (s : State) (gid sid : Nat) : Spill :=
  State.emptySplit ((s.group gid).depth + 4) gid sid s

/-- JOIN (R135). -/
def join (s : State) (r : Run) : Spill :=
  s.withToken r.gid (fun t => t.names r.sid) (fun s e =>
    match e with
    | none => .ok s
    | some (i, t) =>
      if t.pc1 ≠ r.pc then .ok s
      else
        (s.meetToken r.gid r.sid i t).andThen (fun s => s.emptied r.gid (s.goesOn r.gid r.sid t)))

/-- LOOP (R136). -/
def loop (x : Ext) (s : State) (r : Run) : State :=
  (s.pushToken r.gid { kind := .loop, pc1 := targetPc r.pc (offsetOf x), sp1 := r.sid }).state s

/-- Lanes leave the split's mask. DEDUCED, log 58. -/
def State.dropLanes (s : State) (r : Run) : State :=
  let g := s.group r.gid
  let x := g.split r.sid
  s.setGroup r.gid (g.setSplit r.sid { x with mask := x.mask &&& ~~~r.eff })

/-- Sub-code 9 of BRK: no LOOP token on the group's stack (R136); tokens that cannot be reached now are looked at when the
instruction has waited for them. -/
def noLoop (s : State) (gid _ : Nat) : Nat :=
  if (s.allTokens gid).any (fun t => t.kind = .loop) || (s.tokTrouble gid).isSome then 0 else 9

/-- BRK (R136, R137). -/
def brk (s : State) (r : Run) : Spill :=
  s.withToken r.gid (fun t => t.kind = .loop) (fun s e =>
    match e with
    | none => .ok s
    | some (i, t) =>
      (s.editToken r.gid i (some { t with maskB := t.maskB ||| r.eff })).andThen (fun s =>
        let park (p : Standing) : Standing :=
          if p.po.getLsbD r.sid then { p with parks := (t.sp1, t.pc1) :: p.parks.filter (· ≠ (t.sp1, t.pc1)) } else p
        let s := s.setGroup r.gid ((s.group r.gid).replace park)
        (s.dropLanes r).emptied r.gid r.sid))

/-- EXIT (R138): the effective lanes leave the group for good, a handler's added lanes their own split too
(R365). -/
def exit (s : State) (r : Run) : Spill :=
  let g := s.group r.gid
  let leave (e : Nat × Split) : Nat × Split := (e.1, { e.2 with mask := e.2.mask &&& ~~~r.eff })
  let s := s.setGroup r.gid { g with exited := g.exited ||| r.eff, splits := g.splits.map leave }
  [0, 1, 2, 3].foldl (fun s i => s.andThen (fun s => s.emptied r.gid i)) (.ok s)

/-- The deferred trap of a RED that the EXIT which would retire the group raises (R374). -/
def exitDeferred (s : State) (r : Run) : Option Deferred :=
  if (((exit s r).state s).group r.gid).retiring then
    (s.group r.gid).deferred.find? (fun d => d.red.isSome)
  else none

/-- CALL's k, f and the top of the new window (R139, R267). -/
def callF (x : Ext) : Nat := 8 * bits 7 0 x.mod
def callTop (g : Group) (x : Ext) : Nat := g.winBase + x.d.idx.toNat + callF x

/-- CALL's conditions: sub-codes 4 and 9 (R139, R141, R267). -/
def callDyn (x : Ext) (s : State) (gid _ : Nat) : Nat :=
  let g := s.group gid
  lowestSub [if g.alloc < callF x then 4 else 0, if 1 < g.liveSplits.length then 9 else 0]

/-- Trap 0x50 with sub-code 1, then 3 (R267). -/
def callCheck (x : Ext) (s : State) (r : Run) : Chk :=
  let g := s.group r.gid
  if s.rowRoom r.gid + g.alloc < callTop g x then .trap 0x50 r.active 0 1
  else if g.rets.length = 32 && s.tokRoom r.gid ≤ g.retSpill then .trap 0x50 r.active 0 3 else .ok

/-- The rows a CALL spills: first and number (R267). -/
def callSpill (g : Group) (x : Ext) : Nat × Nat :=
  let top := max g.rtop (callTop g x)
  (g.rbot, top - g.alloc - g.rbot)

/-- CALL (R139, R267). -/
def call (x : Ext) (s : State) (r : Run) : Spill :=
  let g := s.group r.gid
  let (lo, n) := callSpill g x
  match s.pushRet r.gid ⟨(g.split r.sid).pc, g.winBase, g.winSize, g.rtop, g.depth⟩ with
  | .ok s =>
    match s.spillRows r.gid lo n with
    | .ok s =>
      let g := (s.group r.gid).forgetRows lo (lo + n)
      let g := { g with rtop := max g.rtop (callTop g x), rbot := lo + n,
                        winBase := g.winBase + x.d.idx.toNat, winSize := callF x }
      .ok ((s.setGroup r.gid g).jump r.gid r.sid (targetPc r.pc (offsetOf x)))
    | q => q
  | q => q

/-- RET's conditions: sub-code 9 (R141). -/
def retDyn (s : State) (gid _ : Nat) : Nat :=
  let g := s.group gid
  if 1 < g.liveSplits.length then 9
  else
    match g.rets with
    | e :: _ => if e.depth < g.depth then 9 else 0
    | [] =>
      if g.retSpill = 0 then 9
      else
        match s.homeLoad (coreOf gid) g.ctx g.super (s.retAt gid (g.retSpill - 1)) 1 with
        | (_, y :: _, _) => if (Ret.unpack y).depth < g.depth then 9 else 0
        | _ => 0

/-- The range a RET leaves resident, from the entry it pops: RBOT (R267). -/
def retBot (g : Group) (e : Ret) : Nat := e.rtops - g.alloc

/-- RET (R140, R267). -/
def ret (s : State) (r : Run) : Spill :=
  let g := s.group r.gid
  match g.rets with
  | [] => .ok s
  | e :: rest =>
    let nb := retBot g e
    match s.fillRows r.gid nb (g.rbot - nb) with
    | .ok s =>
      let g := (s.group r.gid).forgetRows nb g.rbot
      let g := { g with rets := rest, rtop := e.rtops, rbot := nb, winBase := e.wbs, winSize := e.wsz }
      .ok ((s.setGroup r.gid g).jump r.gid r.sid e.rpc)
    | q => q

/-- A transfer of the spill engine that must wait: for an outstanding write to a row that changes hands, or
for a page in migration (R268). -/
def spillHeld (op : Op) (rows : Group → Nat × Nat) (work : State → Run → Spill) (s : State) (r : Run) :
    Option (Nat × State) :=
  match op.held s r with
  | some h => some h
  | none =>
    let g := s.group r.gid
    let (lo, hi) := rows g
    if g.rowsBusy lo hi || (work s r).waits then some (7, s) else none

/-- No stall count and no wait keeps a split from issuing (R55, R271). -/
def Split.free (x : Split) (now : Nat) : Bool :=
  x.live && !x.parked && x.readyAt ≤ now && (match x.wait with | .none => true | .retry c => c ≤ now | _ => false)

/-- YIELD (R142): the other splits that are ready go first, for at most 64 cycles. Which are ready the slot found when it
chose this instruction. -/
def yielded (s : State) (r : Run) : State :=
  let g := s.group r.gid
  let x := g.split r.sid
  s.setGroup r.gid (g.setSplit r.sid
    { x with yieldTo := (s.slot (slotOf r.gid)).peers.filter (· ≠ 4 * r.gid + r.sid), yieldEnd := s.cycle + 64 })

/-- BRA (R131). -/
def execBra (x : Ext) (s : State) : Res :=
  let e := Enc.ofExt 0x100 x
  s.run (e.control (bra x)) (e.walk (braWalker e))

/-- BRD (R134). A token is pushed only when both sides hold lanes. -/
def execBrd (x : Ext) (s : State) : Res :=
  let op := (Enc.ofExt 0x101 x).control (brd x)
  let pushes (r : Run) : Bool := brdTaken x r ≠ 0 && r.active &&& ~~~(brdTaken x r) ≠ 0
  s.run { op with
    reads := fun g => srcKeys g (x.a, false)
    check := fun s r => if pushes r then tokenCheck s r else .ok
    held := spillHeld op (fun _ => (0, 0)) (fun s r =>
      if pushes r then s.pushToken r.gid { kind := .loop } else .ok s) } noWalk

/-- JOIN (R135). -/
def execJoin (x : Ext) (s : State) : Res :=
  s.run (((Enc.ofExt 0x102 x).control (fun s _ => s)).searching join) noWalk

/-- LOOP (R136). -/
def execLoop (x : Ext) (s : State) : Res :=
  let op := (Enc.ofExt 0x103 x).control (loop x)
  s.run { op with
    check := tokenCheck
    held := spillHeld op (fun _ => (0, 0)) (fun s r => s.pushToken r.gid { kind := .loop }) } noWalk

/-- BRK (R136). -/
def execBrk (x : Ext) (s : State) : Res :=
  s.run { ((Enc.ofExt 0x104 x).control (fun s _ => s)).searching brk with dyn := noLoop } noWalk

/-- CALL (R139, R267). -/
def execCall (x : Ext) (s : State) : Res :=
  let op := (Enc.ofExt 0x105 x).control (fun s r => (call x s r).state s)
  s.run { op with
    dyn := callDyn x
    check := callCheck x
    held := spillHeld op (fun g => let (lo, n) := callSpill g x; (lo, lo + n)) (call x) } noWalk

/-- RET (R140, R267): the rows that change hands are those it fills (R268). -/
def execRet (x : Ext) (s : State) : Res :=
  let op := (Enc.ofExt 0x106 x).control (fun s r => (ret s r).state s)
  s.run { op with
    dyn := retDyn
    held := spillHeld op (fun g => match g.rets with
      | e :: _ => (retBot g e, g.rbot)
      | [] => (0, 0)) ret } noWalk

/-- JMPI (R132). -/
def execJmpi (x : Ext) (s : State) : Res :=
  s.run { (Enc.ofExt 0x107 x).control (jmpi x) with
    reads := fun g => srcKeys g (x.a, true)
    check := jmpiCheck x } noWalk

/-- EXIT (R138). -/
def Enc.exit (e : Enc) (s : State) : Res :=
  s.run { (e.control (fun s _ => s)).searching Sys2Proof.Machine.exit with deferred := exitDeferred } noWalk

def execExit (x : Ext) (s : State) : Res := (Enc.ofExt 0x108 x).exit s

/-- NOP (R142). -/
def Enc.nop (e : Enc) (s : State) : Res :=
  s.run (e.control (fun s _ => s)) (e.walk (fun s _ _ => s))

def execNop (x : Ext) (s : State) : Res := (Enc.ofExt 0x109 x).nop s

/-- YIELD (R142). -/
def execYield (x : Ext) (s : State) : Res := s.run ((Enc.ofExt 0x10A x).control yielded) noWalk

end Sys2Proof.Machine
end

