-- ==== Sys2Proof/Machine/Special.lean ====
section
/-! DEFINITION. The special functions of class 6 (R151, R152). A value the device may choose is a free value,
kept when it lies within the bound of R151; otherwise the result is the approximation rounded (DESIGN CHOICE, log 8). -/

namespace Sys2Proof.Machine

/-- A dyadic number: m × 2^e. -/
abbrev Dy := Int × Int

/-- a ≤ b. -/
def Dy.le (a b : Dy) : Bool :=
  let q := min a.2 b.2
  a.1 * (2 ^ (a.2 - q).toNat : Nat) ≤ b.1 * (2 ^ (b.2 - q).toNat : Nat)
def Dy.sub (a b : Dy) : Dy :=
  let q := min a.2 b.2
  (a.1 * (2 ^ (a.2 - q).toNat : Nat) - b.1 * (2 ^ (b.2 - q).toNat : Nat), q)
def Dy.add (a b : Dy) : Dy := Dy.sub a (-b.1, b.2)
def Dy.mul (a b : Dy) : Dy := (a.1 * b.1, a.2 + b.2)
def Dy.abs (a : Dy) : Dy := (a.1.natAbs, a.2)

/-- The value of a finite pattern of f32. -/
def dyOf (v : FVal) : Option Dy :=
  match v with
  | .fin neg m e _ => some (signed neg m, e)
  | _ => none

/-- A dyadic number as a value to be rounded, a little more in magnitude when `more` is set. -/
def Dy.toF (a : Dy) (more : Bool) : FVal := .fin (a.1 < 0) a.1.natAbs a.2 more

/-- ulp(y) of R151 as an exponent of 2, from e = floor(log2 |y|). -/
def ulpExp (e : Int) : Int := max e (-126) - 23

/-- floor(log2 of a positive dyadic number). -/
def Dy.log2 (a : Dy) : Int := (Nat.log2 a.1.natAbs : Int) + a.2

/-! ### Series in fixed point. The constants are ln 2 and 2π. -/

/-- ln 2 × 2^192. -/
def ln2Fix : Int := 0xb17217f7d1cf79abc9e3b39803f2f6af40f343267298b62d
/-- 2π × 2^320. -/
def twoPiFix : Int :=
  0x6487ed5110b4611a62633145c06e0e68948127044533e63a0105df531d89cd9128a5043cc71a026ee

/-- Σ t^k ÷ k! from a term on, at 2^-192. -/
def expSum (t : Int) : Nat → Nat → Int → Int
  | 0, _, _ => 0
  | n + 1, k, term => term + expSum t n (k + 1) (term * t / 2 ^ 192 / (k + 1 : Nat))

/-- Σ (−1)^k term × x² ÷ ((j+1)(j+2)) from a term on, at 2^-192: sine from j = 1, cosine from j = 0. -/
def trigSum (x2 : Int) : Nat → Nat → Int → Int
  | 0, _, _ => 0
  | n + 1, j, term =>
    term + trigSum x2 n (j + 2) (-(term * x2 / 2 ^ 192 / ((j + 1) * (j + 2) : Nat)))

/-- Σ w^(2k+1) ÷ (2k+1), at 2^-192. -/
def atanhSum (w2 : Int) : Nat → Nat → Int → Int
  | 0, _, _ => 0
  | n + 1, k, p => p / (2 * k + 1 : Nat) + atanhSum w2 n (k + 1) (p * w2 / 2 ^ 192)

/-- 2^a for −200 ≤ a < 200, as an approximation. -/
def exp2Approx (a : Dy) : Dy :=
  let n : Int := if 0 ≤ a.2 then a.1 * (2 ^ a.2.toNat : Nat) else a.1 / (2 ^ (-a.2).toNat : Nat)
  let frac : Dy := Dy.sub a (n, 0)
  let f : Int := frac.1 * 2 ^ 192 / (2 ^ (-frac.2).toNat : Nat)
  let t := f * ln2Fix / 2 ^ 192
  (expSum t 48 0 (2 ^ 192), n - 192)

/-- log2 of a positive dyadic number, as an approximation at 2^-192. -/
def log2Approx (a : Dy) : Dy :=
  let k := Nat.log2 a.1.natAbs
  let z : Int := a.1 * 2 ^ 192 / (2 ^ k : Nat)
  let one : Int := 2 ^ 192
  let w := (z - one) * one / (z + one)
  let ln := 2 * atanhSum (w * w / one) 64 0 w
  (((k : Int) + a.2) * one + ln * one / ln2Fix, -192)

/-- An angle reduced below 2π, at 2^-192. -/
def reduceAngle (a : Dy) : Int :=
  let x : Int := if 0 ≤ a.2 + 320 then a.1 * (2 ^ (a.2 + 320).toNat : Nat) else a.1
  x % twoPiFix / 2 ^ 128

def sinApprox (a : Dy) : Dy :=
  let x := reduceAngle a
  (trigSum (x * x / 2 ^ 192) 40 1 x, -192)
/-- The cosine, an even function; of an angle below 2^-90 a value just below 1, which it does not reach. -/
def cosApprox (a : Dy) : Dy :=
  if !Dy.le (1, -90) (Dy.abs a) then (2 ^ 192 - 1, -192)
  else
    let x := reduceAngle (Dy.abs a)
    (trigSum (x * x / 2 ^ 192) 40 0 (2 ^ 192), -192)

/-! ### Results -/

/-- A result with the flags of R151 and R152: `y` exact or approximated, `chosen` the device's value, `ok`
whether it lies within the bound, `exact` whether a value is the exact result. -/
def finish (fl : Bool) (chosen : BitVec 32) (y : FVal) (ok : Dy → Bool) (exact : Dy → Bool) :
    Nat × Flags :=
  let (near, flags) := y.round f32 0 false false
  if flags &&& flOF ≠ 0 then (near, flOF ||| flNX)
  else
    let pick : Nat :=
      match dyOf (FVal.read f32 false chosen.toNat) with
      | some c => if ok c then chosen.toNat else near
      | none => near
    match dyOf (FVal.read f32 false pick) with
    | none => (pick, flNX)
    | some c =>
      let ex := exact c
      let small (d : Dy) : Bool := !Dy.le (1, -126) (Dy.abs d)
      let tiny := small c && (c.1 ≠ 0 || (match dyOf y with | some d => small d | none => false))
      if tiny && fl then (pick / 2 ^ 31 * 2 ^ 31, flUF ||| flNX)
      else (pick, if ex then 0 else if tiny then flUF ||| flNX else flNX)

/-- |c − y| ≤ 2^e. -/
def within (y : Dy) (e : Int) (c : Dy) : Bool := Dy.le (Dy.abs (Dy.sub c y)) (1, e)

/-- FRCP of a finite number that is not zero: exact cases, else within 1 ulp, tested as |c × A − 1| ≤ ulp × |A|. -/
def frcpFinite (fl : Bool) (chosen : BitVec 32) (a : Dy) : Nat × Flags :=
  let pow2 : Bool := a.1.natAbs = 2 ^ Nat.log2 a.1.natAbs
  let l := Dy.log2 (Dy.abs a)
  let e := if pow2 then -l else -l - 1
  let q := (FVal.div (.fin false 1 0 false) (Dy.toF a false)).1
  if pow2 && -126 ≤ e && e ≤ 127 then q.round f32 0 fl false
  else
    finish fl chosen q
      (fun c => Dy.le (Dy.abs (Dy.sub (Dy.mul c a) (1, 0))) (Dy.mul (1, ulpExp e) (Dy.abs a)))
      (fun c => (Dy.sub (Dy.mul c a) (1, 0)).1 = 0)

/-- FRSQ of a finite number above zero: exact for A = 4^n, else within 2 ulp, tested by squares. -/
def frsqFinite (fl : Bool) (chosen : BitVec 32) (a : Dy) : Nat × Flags :=
  let pow2 : Bool := a.1.natAbs = 2 ^ Nat.log2 a.1.natAbs
  let l := Dy.log2 a
  let e := if pow2 then (-l) / 2 else (-l - 1) / 2
  let y := (FVal.div (.fin false 1 0 false) (FVal.sqrt (Dy.toF a false))).1
  if pow2 && l % 2 = 0 then ((FVal.fin false 1 (-l / 2) false).round f32 0 fl false)
  else
    let u : Dy := (1, ulpExp e + 1)
    let sq (c : Dy) : Dy := Dy.mul (Dy.mul c c) a
    finish fl chosen y
      (fun c =>
        let lo := Dy.sub c u
        let hi := Dy.add c u
        0 < hi.1 && Dy.le (1, 0) (sq hi) && (lo.1 ≤ 0 || Dy.le (sq lo) (1, 0)))
      (fun c => 0 < c.1 && (Dy.sub (sq c) (1, 0)).1 = 0)

/-- An integer dyadic number's value. -/
def Dy.isInt (a : Dy) : Bool := 0 ≤ a.2 || a.1 % (2 ^ (-a.2).toNat : Nat) = 0
def Dy.floor (a : Dy) : Int :=
  if 0 ≤ a.2 then a.1 * (2 ^ a.2.toNat : Nat) else a.1 / (2 ^ (-a.2).toNat : Nat)

/-- FEX2 of a finite number: exact for an integer with a normal result, else within 2 ulp. Below 2^-200 the result is a
positive number smaller than every other that the test meets: 2 ulp, 2^-148, is reached from above and not from below. -/
def fex2Finite (fl : Bool) (chosen : BitVec 32) (a : Dy) : Nat × Flags :=
  if Dy.le (200, 0) a then ((FVal.fin false 1 200 false).round f32 0 fl false)
  else if Dy.le a (-200, 0) then
    finish fl chosen (.fin false 1 (-200) false)
      (fun c => within (0, 0) (-148) c && !(c.1 < 0 && Dy.le (1, -148) (Dy.abs c))) (fun _ => false)
  else
    let n := a.floor
    if a.isInt && -126 ≤ n then ((FVal.fin false 1 n false).round f32 0 fl false)
    else
      let y := exp2Approx a
      finish fl chosen (Dy.toF y (!a.isInt)) (within y (ulpExp n + 1))
        (fun c => a.isInt && (Dy.sub c (1, n)).1 = 0)

/-- FLG2 of a finite number above zero: exact for A = 2^n, else within 2 ulp, or 2^-22 for 0.5 ≤ A ≤ 2. -/
def flg2Finite (fl : Bool) (chosen : BitVec 32) (a : Dy) : Nat × Flags :=
  let l := Dy.log2 a
  if a.1.natAbs = 2 ^ Nat.log2 a.1.natAbs then ((FVal.ofInt l).round f32 0 fl false)
  else
    let y := log2Approx a
    let mid := Dy.le (1, -1) a && Dy.le a (2, 0)
    let e := if mid then -22 else ulpExp (Dy.log2 (Dy.abs y)) + 1
    finish fl chosen (Dy.toF y true) (within y e) (fun _ => false)

/-- FSIN and FCOS of a finite number: within 2^-21. -/
def trigFinite (fl : Bool) (chosen : BitVec 32) (y : Dy) : Nat × Flags :=
  finish fl chosen (Dy.toF y true) (within y (-21)) (fun _ => false)

/-- Infinity and one as values. -/
def fInf (neg : Bool) : FVal := .inf neg
def fOne : FVal := .fin false 1 0 false
def fNv : FVal := .nan true false false

/-- A special function on a pattern of f32 (R151, R152). -/
def special (xop mode : Nat) (fl : Bool) (x : Nat) : Nat × Flags :=
  let out (v : FVal) : Nat × Flags := v.round f32 mode fl false
  let chosen := Config.special xop (BitVec.ofNat 32 x) fl
  match FVal.read f32 fl x with
  | .nan n p s => out (.nan n p s)
  | .inf neg =>
    match xop with
    | 0x180 => out (.fin neg 0 0 false)
    | 0x181 => if neg then out fNv else out (.fin false 0 0 false)
    | 0x182 => if neg then out fNv else out (.inf false)
    | 0x183 => if neg then out (.fin false 0 0 false) else out (.inf false)
    | 0x184 => if neg then out fNv else out (.inf false)
    | _ => out fNv
  | .fin neg m e _ =>
    let a : Dy := (signed neg m, e)
    if m = 0 then
      match xop with
      | 0x180 => ((out (.inf neg)).1, flDZ)
      | 0x181 => ((out (.inf neg)).1, flDZ)
      | 0x182 => out (.fin neg 0 0 false)
      | 0x183 => out fOne
      | 0x184 => ((out (.inf true)).1, flDZ)
      | 0x185 => out (.fin neg 0 0 false)
      | _ => out fOne
    else
      match xop with
      | 0x180 => frcpFinite fl chosen a
      | 0x181 => if neg then out fNv else frsqFinite fl chosen a
      | 0x182 => if neg then out fNv else out (FVal.sqrt (.fin neg m e false))
      | 0x183 => fex2Finite fl chosen a
      | 0x184 => if neg then out fNv else flg2Finite fl chosen a
      | 0x185 => trigFinite fl chosen (sinApprox a)
      | _ => trigFinite fl chosen (cosApprox a)

/-- A special function as an instruction (R151). -/
def sfu (xop : Nat) (x : Ext) : Fpu :=
  { n := 1, latency := 16, flush := x.ftz, f := fun fl a _ _ _ => special xop x.m43 fl a }

def execFrcp (x : Ext) (s : State) : Res := (Enc.ofExt 0x180 x).fpu (sfu 0x180 x) s
def execFrsq (x : Ext) (s : State) : Res := (Enc.ofExt 0x181 x).fpu (sfu 0x181 x) s
def execFsqrt (x : Ext) (s : State) : Res := (Enc.ofExt 0x182 x).fpu (sfu 0x182 x) s
def execFex2 (x : Ext) (s : State) : Res := (Enc.ofExt 0x183 x).fpu (sfu 0x183 x) s
def execFlg2 (x : Ext) (s : State) : Res := (Enc.ofExt 0x184 x).fpu (sfu 0x184 x) s
def execFsin (x : Ext) (s : State) : Res := (Enc.ofExt 0x185 x).fpu (sfu 0x185 x) s
def execFcos (x : Ext) (s : State) : Res := (Enc.ofExt 0x186 x).fpu (sfu 0x186 x) s

end Sys2Proof.Machine
end

