-- ==== Sys2Proof/Machine/BaseForms.lean ====
section
/-! DEFINITION. The base forms of R82: each does what the extended instruction it stands for does (R36), and
the unassigned opcodes of R80 and R84. -/

namespace Sys2Proof.Machine

/-- IADD_I32_REG (R82, R116). -/
def execIaddI32Reg (w : Base) (s : State) : Res :=
  (Enc.ofBase .reg 0x000 0x040 w).iadd s
/-- IADD_I32_IMM (R82, R116). -/
def execIaddI32Imm (w : Base) (s : State) : Res :=
  (Enc.ofBase .imm 0x000 0x040 w).iadd s
/-- ISUB_I32_REG (R82, R116). -/
def execIsubI32Reg (w : Base) (s : State) : Res :=
  (Enc.ofBase .reg 0x002 0x040 w).isub s
/-- ISUB_I32_IMM (R82, R116). -/
def execIsubI32Imm (w : Base) (s : State) : Res :=
  (Enc.ofBase .imm 0x002 0x040 w).isub s
/-- IMUL_I32_REG (R82, R116). -/
def execImulI32Reg (w : Base) (s : State) : Res :=
  (Enc.ofBase .reg 0x003 0x040 w).imul s
/-- IMUL_I32_IMM (R82, R116). -/
def execImulI32Imm (w : Base) (s : State) : Res :=
  (Enc.ofBase .imm 0x003 0x040 w).imul s
/-- IMAD_I32_BASE (R82, R116). -/
def execImadI32Base (w : Base) (s : State) : Res :=
  (Enc.ofBase .ternary 0x005 0x040 w).imad s
/-- IMULH_I32_BASE (R82, R116). -/
def execImulhI32Base (w : Base) (s : State) : Res :=
  (Enc.ofBase .reg 0x004 0x040 w).imulh s
/-- IMULH_N32_BASE (R82, R116). -/
def execImulhN32Base (w : Base) (s : State) : Res :=
  (Enc.ofBase .reg 0x004 0x0C0 w).imulh s
/-- IMIN_I32_BASE (R82, R116). -/
def execIminI32Base (w : Base) (s : State) : Res :=
  (Enc.ofBase .reg 0x008 0x040 w).imin s
/-- IMAX_I32_BASE (R82, R116). -/
def execImaxI32Base (w : Base) (s : State) : Res :=
  (Enc.ofBase .reg 0x009 0x040 w).imax s
/-- IMIN_N32_BASE (R82, R116). -/
def execIminN32Base (w : Base) (s : State) : Res :=
  (Enc.ofBase .reg 0x008 0x0C0 w).imin s
/-- IMAX_N32_BASE (R82, R116). -/
def execImaxN32Base (w : Base) (s : State) : Res :=
  (Enc.ofBase .reg 0x009 0x0C0 w).imax s
/-- IABS_I32_BASE (R82, R116). -/
def execIabsI32Base (w : Base) (s : State) : Res :=
  (Enc.ofBase .unary 0x00A 0x040 w).iabs s
/-- INEG_I32_BASE (R82, R116). -/
def execInegI32Base (w : Base) (s : State) : Res :=
  (Enc.ofBase .unary 0x00B 0x040 w).ineg s
/-- IADD_I64_BASE (R82, R116). -/
def execIaddI64Base (w : Base) (s : State) : Res :=
  (Enc.ofBase .reg 0x000 0x060 w).iadd s
/-- AND_N32_REG (R82, R119). -/
def execAndN32Reg (w : Base) (s : State) : Res :=
  (Enc.ofBase .reg 0x040 0x0C0 w).and s
/-- AND_N32_IMM (R82, R119). -/
def execAndN32Imm (w : Base) (s : State) : Res :=
  (Enc.ofBase .imm 0x040 0x0C0 w).and s
/-- OR_N32_REG (R82, R119). -/
def execOrN32Reg (w : Base) (s : State) : Res :=
  (Enc.ofBase .reg 0x041 0x0C0 w).or s
/-- OR_N32_IMM (R82, R119). -/
def execOrN32Imm (w : Base) (s : State) : Res :=
  (Enc.ofBase .imm 0x041 0x0C0 w).or s
/-- XOR_N32_REG (R82, R119). -/
def execXorN32Reg (w : Base) (s : State) : Res :=
  (Enc.ofBase .reg 0x042 0x0C0 w).xor s
/-- XOR_N32_IMM (R82, R119). -/
def execXorN32Imm (w : Base) (s : State) : Res :=
  (Enc.ofBase .imm 0x042 0x0C0 w).xor s
/-- ANDN_N32_BASE (R82, R119). -/
def execAndnN32Base (w : Base) (s : State) : Res :=
  (Enc.ofBase .reg 0x043 0x0C0 w).andn s
/-- NOT_N32_BASE (R82, R119). -/
def execNotN32Base (w : Base) (s : State) : Res :=
  (Enc.ofBase .unary 0x044 0x0C0 w).not s
/-- SHL_N32_REG (R82, R119). -/
def execShlN32Reg (w : Base) (s : State) : Res :=
  (Enc.ofBase .reg 0x045 0x0C0 w).shl s
/-- SHL_N32_IMM (R82, R119). -/
def execShlN32Imm (w : Base) (s : State) : Res :=
  (Enc.ofBase .imm 0x045 0x0C0 w).shl s
/-- SHR_N32_REG (R82, R119). -/
def execShrN32Reg (w : Base) (s : State) : Res :=
  (Enc.ofBase .reg 0x046 0x0C0 w).shr s
/-- SHR_N32_IMM (R82, R119). -/
def execShrN32Imm (w : Base) (s : State) : Res :=
  (Enc.ofBase .imm 0x046 0x0C0 w).shr s
/-- SAR_I32_REG (R82, R119). -/
def execSarI32Reg (w : Base) (s : State) : Res :=
  (Enc.ofBase .reg 0x047 0x040 w).sar s
/-- SAR_I32_IMM (R82, R119). -/
def execSarI32Imm (w : Base) (s : State) : Res :=
  (Enc.ofBase .imm 0x047 0x040 w).sar s
/-- ROTL_N32_IMM (R82, R119). -/
def execRotlN32Imm (w : Base) (s : State) : Res :=
  (Enc.ofBase .imm 0x048 0x0C0 w).rotl s
/-- POPC_N32_BASE (R82, R119). -/
def execPopcN32Base (w : Base) (s : State) : Res :=
  (Enc.ofBase .unary 0x049 0x0C0 w).popc s
/-- MOV_N32_BASE (R82, R123). -/
def execMovN32Base (w : Base) (s : State) : Res :=
  (Enc.ofBase .unary 0x082 0x0C0 w).mov s
/-- MOV_N64_BASE (R82, R123). -/
def execMovN64Base (w : Base) (s : State) : Res :=
  (Enc.ofBase .unary 0x082 0x0E0 w).mov s
/-- FADD_F32_REG (R82, R147). -/
def execFaddF32Reg (w : Base) (s : State) : Res :=
  (Enc.ofBase .reg 0x140 0x100 w).fadd s
/-- FADD_F32_IMM (R82, R147). -/
def execFaddF32Imm (w : Base) (s : State) : Res :=
  (Enc.ofBase .imm 0x140 0x100 w).fadd s
/-- FSUB_F32_BASE (R82, R147). -/
def execFsubF32Base (w : Base) (s : State) : Res :=
  (Enc.ofBase .reg 0x141 0x100 w).fsub s
/-- FMUL_F32_REG (R82, R147). -/
def execFmulF32Reg (w : Base) (s : State) : Res :=
  (Enc.ofBase .reg 0x142 0x100 w).fmul s
/-- FMUL_F32_IMM (R82, R147). -/
def execFmulF32Imm (w : Base) (s : State) : Res :=
  (Enc.ofBase .imm 0x142 0x100 w).fmul s
/-- FFMA_F32_BASE (R82, R147). -/
def execFfmaF32Base (w : Base) (s : State) : Res :=
  (Enc.ofBase .ternary 0x143 0x100 w).ffma s
/-- FMIN_F32_BASE (R82, R148). -/
def execFminF32Base (w : Base) (s : State) : Res :=
  (Enc.ofBase .reg 0x144 0x100 w).fmin s
/-- FMAX_F32_BASE (R82, R148). -/
def execFmaxF32Base (w : Base) (s : State) : Res :=
  (Enc.ofBase .reg 0x145 0x100 w).fmax s
/-- HADD2_F16_BASE (R82, R157). -/
def execHadd2F16Base (w : Base) (s : State) : Res :=
  (Enc.ofBase .reg 0x1C0 0x120 w).hadd2 s
/-- HMUL2_F16_BASE (R82, R157). -/
def execHmul2F16Base (w : Base) (s : State) : Res :=
  (Enc.ofBase .reg 0x1C1 0x120 w).hmul2 s
/-- HFMA2_F16_BASE (R82, R157). -/
def execHfma2F16Base (w : Base) (s : State) : Res :=
  (Enc.ofBase .ternary 0x1C2 0x120 w).hfma2 s
/-- HADD2_BF16_BASE (R82, R157). -/
def execHadd2Bf16Base (w : Base) (s : State) : Res :=
  (Enc.ofBase .reg 0x1C0 0x140 w).hadd2 s
/-- HFMA2_BF16_BASE (R82, R157). -/
def execHfma2Bf16Base (w : Base) (s : State) : Res :=
  (Enc.ofBase .ternary 0x1C2 0x140 w).hfma2 s
/-- LD_N32_BASE (R82, R165). -/
def execLdN32Base (w : Base) (s : State) : Res :=
  (Enc.ofBase .mem 0x200 0x0C0 w).ld s
/-- ST_N32_BASE (R82, R166). -/
def execStN32Base (w : Base) (s : State) : Res :=
  (Enc.ofBase .mem 0x201 0x0C0 w).st s
/-- LD_N64_BASE (R82, R165). -/
def execLdN64Base (w : Base) (s : State) : Res :=
  (Enc.ofBase .mem 0x200 0x0E0 w).ld s
/-- ST_N64_BASE (R82, R166). -/
def execStN64Base (w : Base) (s : State) : Res :=
  (Enc.ofBase .mem 0x201 0x0E0 w).st s
/-- EXIT_BASE (R82, R138). -/
def execExitBase (w : Base) (s : State) : Res :=
  (Enc.ofBase .none 0x108 0x000 w).exit s
/-- NOP_BASE (R82, R142). -/
def execNopBase (w : Base) (s : State) : Res :=
  (Enc.ofBase .none 0x109 0x000 w).nop s

/-- Bytes of an instruction by the length code of its first word (R33, R86). -/
def sizeOfWord (w : BitVec 32) : Nat := 4 * lengthWords w

/-- UNASSIGNED_OPCODE: trap 0x01 with sub-code 1, in walker code a walker fault (R60, R80, R84). -/
def execUnassignedOpcode (word : BitVec 32) (s : State) : Res :=
  s.run { sub := 1, size := sizeOfWord word, stall := 0, act := fun s _ => s } noWalk

end Sys2Proof.Machine
end

