-- ==== Sys2Proof/Machine/Counters.lean ====
section
/-! DEFINITION. Counters of launches, graphs and jobs (R227, R321), and cancelling a level (R323). -/

namespace Sys2Proof.Machine

/-- The scheduling register's fields (R324). -/
def Context.deadline (c : Context) : Nat := bits 63 52 c.sched
def Context.drain (c : Context) : Nat := bits 51 40 c.sched
def Context.grace (c : Context) : Nat := bits 39 20 c.sched
def Context.dweight (c : Context) : Nat := bits 3 0 c.sched

def State.launch (s : State) (l : Nat) : Launch := s.launches.get {} l
def State.setLaunch (s : State) (l : Nat) (x : Launch) : State := { s with launches := s.launches.put l x }

/-- n workgroups of a launch counted complete with a status, at every level (R321). -/
def State.countDone (s : State) (l n status : Nat) : State :=
  let x := s.launch l
  let c := s.ctx x.ctx
  let count (k : Counter) : Counter :=
    if k.launches.contains l then { k with done := k.done + n, status := max k.status status } else k
  (s.setLaunch l { x with done := x.done + n, status := max x.status status }).setCtx x.ctx
    { c with counters := c.counters.map count }

/-- A live counter of a context (R321); id 0 names none. -/
def Context.counter (c : Context) (level : Nat) (id : Word) : Option Counter :=
  if id = 0 then none else c.counters.find? (fun k => k.level = level && k.id = id)

/-- What CNTRD reads (R227). -/
def Context.cntrd (c : Context) (level : Nat) (id : Word) : DWord :=
  match c.counter level id with
  | none => 0
  | some k => BitVec.ofNat 64 (k.done % 2 ^ 32 + 2 ^ 32 * ((k.expect - k.done) % 2 ^ 31) +
      (if k.complete then 2 ^ 63 else 0))

/-- The workgroups of a launch that are not placed complete with status 1 (R323). -/
def State.dropUnplaced (s : State) (l : Nat) : State :=
  let x := s.launch l
  let n := x.grid - x.next + x.again.length
  if n = 0 then s
  else
    (s.setLaunch l { x with next := x.grid, again := [] }).countDone l n 1

/-- CANCEL of a level (R227, R323): placement stops, running and saved groups receive CANCELLED, the grace
period begins. -/
def State.cancelLevel (s : State) (ctx level : Nat) (id : Word) : State :=
  let c := s.ctx ctx
  match c.counter level id with
  | none => s
  | some k =>
    let mark (q : Counter) : Counter :=
      if q.level = level && q.id = id then
        { q with cancelled := true, graceEnd := q.graceEnd <|> some (s.time + c.grace * 1000) }
      else q
    let s := s.setCtx ctx { c with counters := c.counters.map mark }
    let s := k.launches.foldl State.dropUnplaced s
    let hit (g : Group) : Group :=
      if g.live && k.launches.contains (s.wg g.wg).launch then { g with cancelled := 1 } else g
    let saved (v : Saved) : Saved :=
      if k.launches.contains v.wg.launch then
        { v with groups := v.groups.map (fun e => (e.1, { e.2 with cancelled := 1 })) }
      else v
    { s with groups := s.groups.map (fun e => (e.1, hit e.2)), saved := s.saved.map saved }

end Sys2Proof.Machine
end

