-- ==== Sys2Proof/Machine/Batch.lean ====
section
/-! DEFINITION. Batches of engine operations (R210, R211), their deferred traps (R183, R236, R374), and the copy
engine's pieces of memory (R182). -/

namespace Sys2Proof.Machine

/-- An operation of a split joins the open batch of an engine (R210), and the split's program order (R263). -/
def Group.joinBatch (g : Group) (engine sid id : Nat) : Group :=
  { g with unfenced := g.unfenced ++ [(id, engine)], ops := g.ops ++ [{ id := id, po := 1#4 <<< sid }] }

/-- The number of the closed batch an operation is in. -/
def Group.batchOf (g : Group) (id : Nat) : Option (BitVec 16) :=
  (g.batches.find? (fun b => b.ops.contains id && !b.gone)).map (·.num)

/-- Complete batches leave the list: those without operations that follow no incomplete one of their engine.
Answers what is left and the arrivals made (R210). -/
def sweepBatches (blocked : List (Nat × Bool)) : List Batch → List Batch × List Arrival
  | [] => ([], [])
  | b :: bs =>
    if b.ops.isEmpty && !blocked.contains (b.engine, b.gone) then
      let (l, m) := sweepBatches blocked bs
      (l, b.muster.toList ++ m)
    else
      let (l, m) := sweepBatches ((b.engine, b.gone) :: blocked) bs
      (b :: l, m)

/-- Batch n of an engine is complete (R210): it and every earlier one are off the list. -/
def Group.batchDone (g : Group) (engine : Nat) (n : BitVec 16) : Bool :=
  !g.batches.any (fun b => b.engine = engine && !b.gone && (n - b.num).toNat < 32768)

/-- Engine flags whose batch is complete join FPFLAGS now at the latest (R100). -/
def Group.joinLate (g : Group) : Group :=
  let due (x : Late) : Bool := match x.batch with
    | some n => g.batchDone x.engine n
    | none => false
  { g.orFlags (orAll ((g.late.filter due).map (·.flags))) with late := g.late.filter (fun x => !due x) }

/-- The batches of a group settled (R210). -/
def State.settleBatches (s : State) (gid : Nat) : State :=
  let g := s.group gid
  let (l, m) := sweepBatches [] g.batches
  { s.setGroup gid { g with batches := l }.joinLate with arrivals := s.arrivals ++ m }

/-- The k-th of a group's engine flags joins FPFLAGS at a moment the device chooses (R100). -/
def State.joinFlags (s : State) (gid k : Nat) : State :=
  let g := s.group gid
  match g.late[k]? with
  | some x => s.setGroup gid { g.orFlags x.flags with late := g.late.eraseIdx k }
  | none => s

/-- An engine operation is complete: its flags are to join FPFLAGS, its deferred traps are noted, its batch is one less
(R100, R183, R210). -/
def State.opDone (s : State) (gid id : Nat) (traps : List Deferred) (flags : Option (Nat × Flags) := none) : State :=
  let g := s.group gid
  let late : List Late := match flags with
    | some (e, f) => if f = 0 then [] else [⟨e, g.batchOf id, f⟩]
    | none => []
  let traps := traps.map (fun d => { d with batch := g.batchOf id })
  let leave (b : Batch) : Batch := { b with ops := without b.ops id }
  let g := { g with
    deferred := g.deferred ++ traps, late := g.late ++ late,
    unfenced := g.unfenced.filter (fun e => e.1 ≠ id),
    ops := g.ops.filter (fun e => e.id ≠ id),
    batches := g.batches.map leave }
  (s.setGroup gid g).settleBatches gid

/-- BFENCE's effect on the group (R210). -/
def Group.closeBatch (g : Group) (engine : Nat) (muster : Option Arrival) : Group :=
  let n := g.last.get 0 engine + 1
  let ops := (g.unfenced.filter (fun e => e.2 = engine)).map (·.1)
  let mark (d : Deferred) : Deferred :=
    if d.engine = some engine && d.batch.isNone then { d with batch := some n } else d
  let close (x : Late) : Late := if x.engine = engine && x.batch.isNone then { x with batch := some n } else x
  { g with
    last := g.last.set 0 engine n,
    unfenced := g.unfenced.filter (fun e => e.2 ≠ engine),
    batches := g.batches ++ [{ engine := engine, num := n, ops := ops, muster := muster }],
    deferred := g.deferred.map mark, late := g.late.map close }

/-- The batches left of a group that retires or relays: those that have still to arrive at a muster, and those of their
engines that their completion follows (R210). -/
def Group.lastBatches (g : Group) : List Batch :=
  (g.batches.filter (fun b => g.batches.any (fun c => c.engine = b.engine && c.muster.isSome))).map
    (fun b => { b with gone := true })

/-- An access or an engine operation with this number is not yet performed, of a resident group or a saved one. -/
def State.underWay (s : State) (id : Nat) : Bool :=
  s.groups.any (fun e => e.2.accs.any (fun a => a.id = id)) ||
    s.cores.any (fun e => e.2.copies.any (fun k => k.id = id) || e.2.near.any (fun k => k.id = id)) ||
    s.searches.any (fun e => e.2.id = id) ||
    s.saved.any (fun v => v.groups.any (fun e => e.2.accs.any (fun a => a.id = id)) ||
      v.copies.any (fun k => k.id = id) || v.near.any (fun k => k.id = id))

/-- The deferred trap that a wait for batch n of an engine raises, once that batch is complete (R183, R236,
R374). DEDUCED, log 59. -/
def Group.batchTrap (g : Group) (engine : Nat) (n : BitVec 16) : Option Deferred :=
  if g.batchDone engine n then
    g.deferred.find? (fun d => d.engine = some engine && (match d.batch with
      | some m => (n - m).toNat < 32768
      | none => false))
  else none

/-! ### Pieces of memory -/

/-- What an engine's access of memory meets: bytes with their poison, a page in migration, or a halt. -/
inductive Got where
  | ok (bytes : List (Byte × Bool))
  | busy
  | fault (cause : BitVec 8) (addr : Nat)

/-- Who an engine works for: core, context, privilege, workgroup; `ctl` for an agent of the memory side, which has
no L1 and no translation cache. -/
structure For where
  core : Nat
  ctx : Nat
  super : Bool
  wg : Nat
  ctl : Bool := false
  /-- it reads as a load does, through the L1 (R245). -/
  load : Bool := false
  /-- the mark its lines are allocated with in a slice (R54); the line it has already requested (R306); a speculative
  fetch, which is not counted (R340). -/
  mark : Nat := 0
  line : Option Nat := none
  quiet : Bool := false
  /-- it goes on into the other sector of the 64-byte pair (R367). -/
  pair : Bool := false

/-- A translation for an engine (R337, R339). -/
def State.forTranslate (s : State) (f : For) (bl : Bool) (want : Want) (va : Nat) : State × Tr :=
  if f.ctl then (s, s.translate f.ctx f.super bl want va)
  else s.coreTranslate f.core f.ctx f.super bl want va

/-- A sector read and written for an engine (R182). DEDUCED, log 45. -/
def State.forRead (s : State) (f : For) (sec : Nat) : State × Sector × Bool :=
  if f.ctl then s.homeRead sec else if f.load then s.l1Read f.core sec 0 else s.copyRead f.core sec f.mark
def State.forWrite (s : State) (f : For) (sec : Nat) (x : BitVec 256) (poison : Bool) : State :=
  if f.ctl then s.homePut sec x poison else s.copyWrite f.core sec x poison f.mark

/-- A read of an engine is a request that reaches the home slice and is counted there (R341): not when the core's L1 serves
it, when the request of its line has been made, or when it is speculative. -/
def State.forCounts (s : State) (f : For) (va pa : Nat) : Bool :=
  !f.quiet && f.line ≠ some (va / 128) && (f.ctl || (s.l1Look f.core (pa / 32)).isNone)

/-- Up to a sector's end: n bytes (within one 32-byte sector) from a place; whether the read found a new lasting
error (R366), in the other sector of the pair too where the same access goes on into it. -/
def State.getPiece (s : State) (f : For) (l : Loc) (n : Nat) : State × Got × Bool :=
  if l.space = 1 then
    let w := s.wg f.wg
    if w.spBytes < l.addr + n then (s, .fault 0xC1 l.addr, false)
    else (s, .ok ((List.range n).map (fun i => (w.spByte (l.addr + i), false))), false)
  else
    match s.forTranslate f (l.space = 2) 0 l.addr with
    | (_, .busy) => (s, .busy, false)
    | (_, .fault c) => (s, .fault c l.addr, false)
    | (t, .ok pa e leaf) =>
      if t.window pa = some 3 then
        let x := (List.range 4).foldl (fun (x : Nat) i =>
          x + (t.ctlRead f.ctx (pa / 32 * 32 + 8 * i) 8).toNat * 2 ^ (64 * i)) 0
        (t.ctlTouch pa n, .ok ((List.range n).map (fun i => (BitVec.ofNat 8 (x / 2 ^ (8 * (pa % 32 + i))), false))),
          false)
      else
        let counts := t.forCounts f l.addr pa
        let t := if counts then t.countPage f.ctx pa e leaf else t.noteLeaf f.ctx pa leaf
        let t := if counts && !f.ctl && !f.load then t.sendHome (.line 128) f.core pa else t
        let (u, x, new) := t.forRead f (pa / 32)
        (u, .ok ((List.range n).map (fun i =>
          (BitVec.ofNat 8 (sectorBytes x.data (pa % 32 + i) 1), x.poison))),
          new || (f.pair && t.pairFailed u (pa / 32)))

/-- n bytes from a place, sector by sector. `k` bounds the sectors. Answers also the lowest failing sector. -/
def State.getBytes : Nat → State → For → Loc → Nat → State × Got × Option (Nat × Bool)
  | 0, s, _, _, _ => (s, .ok [], none)
  | k + 1, s, f, l, n =>
    if n = 0 then (s, .ok [], none)
    else
      let m := min n (32 - l.addr % 32)
      match s.getPiece { f with pair := f.load && l.addr / 32 % 2 = 0 && m < n } l m with
      | (t, .ok bs, new) =>
        let bad := if bs.any (·.2) then some (l.addr / 32 * 32, new)
          else if new then some (l.addr / 32 * 32 + 32, true) else none
        match t.getBytes k { f with line := some (l.addr / 128) } { l with addr := l.addr + m } (n - m) with
        | (t, .ok cs, bad') =>
          let both := match bad, bad' with
            | some (a, x), some (_, y) => some (a, x || y)
            | some x, none => some x
            | none, y => y
          (t, .ok (bs ++ cs), both)
        | r => r
      | (t, r, _) => (t, r, none)

/-- The number of sectors that n bytes from an address touch. -/
def sectorsOf (a n : Nat) : Nat := (a % 32 + n + 31) / 32

/-- Bytes put at a place within one sector. In sp the words are set full and poison becomes poison words; a
whole sector in memory is written whole with its mark, part of one keeps the old mark (R182, R374). -/
def State.putPiece (s : State) (f : For) (l : Loc) (bs : List (Byte × Bool)) : State × Got :=
  let n := bs.length
  let poison := bs.any (·.2)
  let o := l.addr % 32
  let mask := byteMask o n
  let data : BitVec 256 := BitVec.ofNat 256 (ofBytes (bs.map (·.1)) * 2 ^ (8 * o))
  if l.space = 1 then
    let w := s.wg f.wg
    if w.spBytes < l.addr + n then (s, .fault 0xC1 l.addr)
    else
      let base := l.addr / 32 * 32
      let x := blend mask data (w.spSector base)
      let put (w : Workgroup) (i : Nat) : Workgroup :=
        if 4 * i < o + n && o < 4 * i + 4 then
          w.spPut (base / 4 + i) (if poison then poisonWord else (x >>> (32 * i)).setWidth 32)
        else w
      (s.setWg f.wg ((List.range 8).foldl put w), .ok [])
  else
    match s.forTranslate f (l.space = 2) 1 l.addr with
    | (_, .busy) => (s, .busy)
    | (_, .fault c) => (s, .fault c l.addr)
    | (t, .ok pa e leaf) =>
      if t.window pa = some 3 then
        if n = 32 then
          ((List.range 4).foldl (fun t i =>
            t.ctlWrite f.ctx (pa + 8 * i) 8 ((data >>> (64 * i)).setWidth 64)) t, .ok [])
        else (t, .ok [])
      else
        let t := t.countPage f.ctx pa e leaf
        if n = 32 then (t.forWrite f (pa / 32) data poison, .ok [])
        else
          let t := (if f.ctl then t else t.l1Flush f.core (pa / 32)).homeWrite (pa / 32) mask data
          if poison then
            match t.slice.look (pa / 32) with
            | some x => (t.homePut (pa / 32) x.data true, .ok [])
            | none => (t, .ok [])
          else (t, .ok [])

/-- Bytes put at a place, sector by sector. `k` bounds the sectors. -/
def State.putBytes : Nat → State → For → Loc → List (Byte × Bool) → State × Got
  | 0, s, _, _, _ => (s, .ok [])
  | k + 1, s, f, l, bs =>
    if bs.isEmpty then (s, .ok [])
    else
      let m := min bs.length (32 - l.addr % 32)
      match s.putPiece f l (bs.take m) with
      | (t, .ok _) => t.putBytes k f { l with addr := l.addr + m } (bs.drop m)
      | r => r

end Sys2Proof.Machine
end

