-- ==== Sys2Proof/Machine/Copy.lean ====
section
/-! DEFINITION. Class A: the copy engine (R180 to R188, R306, R307) and the expansion of stored tiles (R102 to
R105). -/

namespace Sys2Proof.Machine

/-- Kinds of copy, by the XOP's last digit: 0 CPY, 1 CPYT, 2 CPYG, 3 CPYR. -/
def Copy.ordered (c : Copy) : Bool := c.kind ≠ 1 && bit 7 c.mod
/-- Its pieces need not fall on whole sectors: those of a CPYR and of a gather to an address that is no multiple of 32. They are
put together, so that each sector is written whole (R182, R187). -/
def Copy.gathers (c : Copy) : Bool := c.kind = 3 || (c.kind = 2 && !bit 0 c.mod && c.dst.addr % 32 ≠ 0)
/-- Its pieces are written one after another. -/
def Copy.inOrder (c : Copy) : Bool := c.ordered || c.gathers
def Copy.fe (c : Copy) : Bool := if c.kind = 1 then bit 2 c.mod else c.kind ≠ 3 && bit 6 c.mod

/-- Who a copy works for. -/
def Copy.who (c : Copy) (core : Nat) : For :=
  { core := core, ctx := c.ctx, super := c.super, wg := c.wg, mark := markOf c.policy, line := c.line }

/-- A range of 32-byte units from a source to a destination. -/
def sectorUnits (src dst : Loc) (n : Nat) : List CUnit :=
  (List.range (n / 32)).map (fun i =>
    .sector { src with addr := src.addr + 32 * i } { dst with addr := dst.addr + 32 * i })

/-! ### Control fields -/

/-- CPYT's fields (R186). -/
def tPitch (ctl : List DWord) : Nat := bits 63 32 (ctl.getD 0 0)
def tNsc (ctl : List DWord) : Nat := bits 31 17 (ctl.getD 0 0)
def tCols (ctl : List DWord) : Nat := bits 16 8 (ctl.getD 0 0) + 1
def tRows (ctl : List DWord) : Nat := bits 7 0 (ctl.getD 0 0) + 1
def tPlane2 (ctl : List DWord) : Nat := (ctl.getD 1 0).toNat
def tScSrc (ctl : List DWord) : Nat := (ctl.getD 2 0).toNat
def tScDst (ctl : List DWord) : Nat := bits 31 0 (ctl.getD 3 0)

/-- The stored type and the scale mode of a CPYT: 0 none, 1 .se8, 2 .sf32 (R180). -/
def Copy.ty (c : Copy) : Nat := bits 9 5 c.mod
def Copy.scale (c : Copy) : Nat := bits 4 3 c.mod
/-- Bytes of a scale. -/
def Copy.scBytes (c : Copy) : Nat := if c.scale = 2 then 4 else 1

/-- A type stored in two planes (R104). -/
def sixBit (ty : Nat) : Bool := tyBits ty = 6

/-- Bytes of n stored elements in the first plane. -/
def planeBytes (ty n : Nat) : Nat := if sixBit ty then n / 2 else n * tyBits ty / 8

/-- CPYT's checks (R183, R186). -/
def cpytCheck (ty sc a b : Nat) (ctl : List DWord) (m : Mask) : Chk :=
  let cols := tCols ctl
  let maxCols := match tyBits ty with | 4 => 256 | 16 => 64 | _ => 128
  let six := sixBit ty
  let al := if six then max 16 (cols / 2) else 16
  let field (bad : Bool) : Chk := Chk.operand bad m 0
  let addr (x al : Nat) : Chk := Chk.operand (x % al ≠ 0) m (BitVec.ofNat 64 x)
  Chk.first [
    addr a 128,
    field (128 < tRows ctl || maxCols < cols),
    field (tyBits ty = 4 && cols % 2 ≠ 0),
    field (six && !([4, 8, 16, 32, 64, 128].contains cols)),
    addr b al,
    field (tPitch ctl % al ≠ 0),
    (if six then addr (tPlane2 ctl) (max 8 (cols / 4)) else field (tPlane2 ctl ≠ 0)),
    field (bits 63 32 (ctl.getD 3 0) ≠ 0),
    field (sc = 0 && (tNsc ctl ≠ 0 || tScSrc ctl ≠ 0 || tScDst ctl ≠ 0)),
    (if sc = 2 then addr (tScSrc ctl) 4 else .ok),
    addr (tScDst ctl) 128]

/-- The E4M3 element of equal value (R105). -/
def toE4M3 (ty x : Nat) : Nat := ((FVal.read (fmtOf ty) false x).round (fmtOf 11) 0 false false).1

/-- A canonical row's bytes from its stored bytes; the second plane's for two-plane types (R102 to R105). -/
def expandRow (ty cols : Nat) (p q : List (Byte × Bool)) : List (Byte × Bool) :=
  let z : Byte × Bool := (0, false)
  let row : List (Byte × Bool) :=
    if sixBit ty then
      (List.range cols).map (fun c =>
        let (x, bx) := p.getD (c / 2) z
        let (y, bY) := q.getD (c / 4) z
        let e := x.toNat / 2 ^ (4 * (c % 2)) % 16 + 16 * (y.toNat / 2 ^ (2 * (c % 4)) % 4)
        (BitVec.ofNat 8 (toE4M3 ty e), bx || bY))
    else p
  row ++ List.replicate (128 - row.length) z

/-! ### Issue -/

/-- Control registers read at issue. -/
def ctlRegs (g : Group) (d : Dst) (n : Nat) : List DWord :=
  (List.range n).map (fun i => g.gReg (d.idx.toNat + i))

/-- Address operands of a copy by their space. -/
def copyA (x : Ext) (space : Nat) (r : Run) : Nat := readUni r.g r.lit .int (space ≠ 1) x.a
def copyB (x : Ext) (space : Nat) (r : Run) : Nat := readUni r.g r.lit .int (space ≠ 1) x.b

/-- A copy issued: it stands before those that higher-numbered slots issued in the same cycle (R306), and joins the open
batch of engine C (R181). -/
def State.issueCopy (s : State) (r : Run) (c : Copy) (ranges : List Acc) : State :=
  let g := s.group r.gid
  let (id, s) := s.nextId
  let c := { c with id := id, gid := r.gid, wg := g.wg, ctx := g.ctx, super := g.super,
                    ranges := ranges, after := s.engineAfter r.gid r.sid c.stream ranges ++ s.opsAfter r.gid r.sid c.stream ranges, since := s.cycle + 1 }
  let k := coreOf r.gid
  let copies := inOrder (s.core k).copies (fun x => x.since = c.since && slotOf c.gid < slotOf x.gid) c
  let s := s.setCore k { s.core k with copies := copies }
  s.setGroup r.gid (g.joinBatch 0 r.sid id)

/-- A copy with its common fields. -/
def mkCopy (x : Ext) (kind : Nat) (src dst : Loc) (ctl : List DWord) (units : List CUnit) : Copy :=
  { id := 0, gid := 0, wg := 0, ctx := 0, super := false, stream := x.stream, scope := x.scope,
    policy := x.policy, kind := kind, mod := x.mod, dst := dst, src := src, ctl := ctl, units := units }

/-- The common part of a copy instruction: its fields, the control registers, the limit of 128 (R180, R181). -/
def copyOp (xop : Nat) (x : Ext) (wa wb : Bool) (n : Nat) (check : Run → Chk)
    (act : State → Run → State) : Op :=
  { (Enc.ofExt xop x).op act with
    reads := fun g => srcKeys g (x.a, wa) ++ srcKeys g (x.b, wb) ++
      (List.range n).map (fun i => keyG (x.d.idx.toNat + i))
    memory := true
    check := fun _ r => check r
    held := fun s r => if 128 ≤ (s.core (coreOf r.gid)).copies.length then some (9, s) else none }

/-- Lengths of R185 and R188. -/
def lengthBad (n : Nat) : Bool := n % 32 ≠ 0 || 2 ^ 24 < n

/-- A misaligned address operand. -/
def Chk.aligned (a n : Nat) (m : Mask) : Chk := Chk.operand (a % n ≠ 0) m (BitVec.ofNat 64 a)

/-- CPY (R185): of length 0 it is complete at once, an operation of the batch with nothing left to do. -/
def cpySpace (x : Ext) : Nat := bits 9 8 x.mod
def cpyLen (x : Ext) (r : Run) : Nat := bits 31 0 (r.g.gReg x.d.idx.toNat)

def cpy (x : Ext) (s : State) (r : Run) : State :=
  let dst : Loc := ⟨x.space, copyA x x.space r⟩
  let src : Loc := ⟨cpySpace x, copyB x (cpySpace x) r⟩
  let n := cpyLen x r
  if n = 0 then s.nextId.2
  else
    s.issueCopy r (mkCopy x 0 src dst [] (sectorUnits src dst n))
      (rangeAccs x.stream dst.space dst.addr n true ++ rangeAccs x.stream src.space src.addr n false)

def execCpy (x : Ext) (s : State) : Res :=
  s.run (copyOp 0x280 x (x.space ≠ 1) (cpySpace x ≠ 1) 1 (fun r => Chk.first [
    Chk.aligned (copyA x x.space r) 32 r.active,
    Chk.aligned (copyB x (cpySpace x) r) 32 r.active,
    Chk.operand (lengthBad (cpyLen x r)) r.active 0]) (cpy x)) noWalk

/-- Pieces of the scale plane: offset and bytes, one 32-byte destination sector each. -/
def scaleUnits (n : Nat) : List CUnit :=
  (List.range ((n + 31) / 32)).map (fun i => .tscale (32 * i) (min 32 (n - 32 * i)))

/-- CPYT (R186). -/
def cpyt (x : Ext) (s : State) (r : Run) : State :=
  let ctl := ctlRegs r.g x.d 4
  let dst : Loc := ⟨1, copyA x 1 r⟩
  let src : Loc := ⟨x.space, copyB x x.space r⟩
  let c := mkCopy x 1 src dst ctl []
  let nsc := tNsc ctl * c.scBytes
  let rows := (List.range (tRows ctl)).flatMap (fun i =>
    rangeAccs x.stream x.space (src.addr + i * tPitch ctl) (planeBytes c.ty (tCols ctl)) false ++
      (if sixBit c.ty then
        rangeAccs x.stream x.space (tPlane2 ctl + i * tPitch ctl / 2) (tCols ctl / 4) false else []))
  s.issueCopy r { c with units := (List.range 128).map CUnit.trow ++ scaleUnits nsc }
    (rangeAccs x.stream 1 dst.addr 16384 true ++ rangeAccs x.stream 1 (tScDst ctl) nsc true ++
      rangeAccs x.stream x.space (tScSrc ctl) nsc false ++ rows)

def execCpyt (x : Ext) (s : State) : Res :=
  s.run (copyOp 0x281 x false true 4 (fun r =>
    cpytCheck x.ty x.m43 (copyA x 1 r) (copyB x x.space r) (ctlRegs r.g x.d 4) r.active) (cpyt x)) noWalk

/-- The number of entries of a CPYG's list (R187). -/
def cpygCount (x : Ext) (r : Run) : Nat := bits 31 0 (r.g.gReg x.d.idx.toNat)

/-- The ranges of a CPYG's list as memory shows it at issue, for the order of R181; what it turns out to name is waited for
when the list is read. -/
def State.listAccs (s : State) (g : Group) (x : Ext) (b n : Nat) : List Acc :=
  (List.range n).flatMap (fun j =>
    match s.translate g.ctx g.super false 0 (b + 16 * j) with
    | .ok pa _ _ =>
      let e := s.peekBytes pa 16
      let len := field e 95 64
      if lengthBad len then []
      else rangeAccs x.stream (bits 9 8 x.mod) (field e 63 0) len (bit 0 x.mod)
    | _ => [])

def cpyg (x : Ext) (s : State) (r : Run) : State :=
  let n := cpygCount x r
  let dst : Loc := ⟨x.space, copyA x x.space r⟩
  let list : Loc := ⟨0, copyB x 0 r⟩
  let g := s.group r.gid
  let listed := s.listAccs g x list.addr n
  let total := listed.foldl (fun t a => t + a.bytes) 0
  s.issueCopy r (mkCopy x 2 list dst [BitVec.ofNat 64 n] (if n = 0 then [] else [.entry 0]))
    (rangeAccs x.stream x.space dst.addr (min total (2 ^ 24)) (!bit 0 x.mod) ++
      rangeAccs x.stream 0 list.addr (16 * n) false ++ listed)

/-- CPYG (R187): the list is read entry by entry as the copy reaches it. The contiguous side may have any address: the spec
asks for a multiple of 32 of the entries and of 16 of the list alone. DESIGN CHOICE, log 98. -/
def execCpyg (x : Ext) (s : State) : Res :=
  s.run (copyOp 0x282 x (x.space ≠ 1) true 1 (fun r => Chk.first [
    Chk.aligned (copyB x 0 r) 16 r.active,
    Chk.operand (65536 < cpygCount x r) r.active 0]) (cpyg x)) noWalk

/-- CPYR (R188): its units are the sectors that travel as waybills (R362). -/
def cpyr (x : Ext) (s : State) (r : Run) : State :=
  let ctl := ctlRegs r.g x.d 2
  let n := bits 31 0 (ctl.getD 0 0)
  let dst : Loc := ⟨x.space, copyA x x.space r⟩
  let src : Loc := ⟨0, copyB x 0 r⟩
  let unit (i : Nat) : CUnit := if bit 0 x.mod then .put (32 * i) else .get (32 * i)
  s.issueCopy r (mkCopy x 3 src dst ctl ((List.range (n / 32)).map unit))
    (rangeAccs x.stream dst.space dst.addr n (!bit 0 x.mod))

def execCpyr (x : Ext) (s : State) : Res :=
  let op := copyOp 0x283 x (x.space ≠ 1) true 2 (fun r =>
    let ctl := ctlRegs r.g x.d 2
    Chk.first [
      Chk.aligned (copyA x x.space r) 32 r.active,
      Chk.aligned (copyB x 0 r) 32 r.active,
      Chk.operand (lengthBad (bits 31 0 (ctl.getD 0 0))) r.active 0,
      Chk.operand (bits 63 32 (ctl.getD 0 0) ≠ 0 || bits 63 19 (ctl.getD 1 0) ≠ 0) r.active 0]) (cpyr x)
  s.run { op with ends := true } noWalk

/-! ### The engine's work -/

/-- A copy of a core replaced. -/
def State.setCopy (s : State) (core k : Nat) (c : Copy) : State :=
  s.setCore core { s.core core with copies := (s.core core).copies.set k c }

/-- Poison a copy met (R374): noted, and the copy goes on (R183). DESIGN CHOICE, log 88. -/
def Copy.poisoned (c : Copy) : Option (Nat × Bool) → Copy
  | none => c
  | some (a, new) =>
    match c.bad with
    | none => { c with bad := some (a, new) }
    | some (b, n) => { c with bad := some (min a b, new || n) }

/-- The words of a scratchpad range are all empty, as .fe waits for (R182, R307); true outside sp. -/
def State.feReady (s : State) (c : Copy) (l : Loc) (n : Nat) : Bool :=
  !c.fe || l.space ≠ 1 ||
    (List.range ((l.addr % 4 + n + 3) / 4)).all (fun i => !(s.wg c.wg).isFull (l.addr / 4 + i))

/-- A halt the engine meets (R161, R183): the copy does no more. -/
def State.haltCopy (s : State) (core k : Nat) (c : Copy) (cause : BitVec 8) (addr : Nat) : State :=
  (s.setCopy core k { c with units := [] }).halt c.ctx cause (BitVec.ofNat 64 addr) (640 + core)

/-- Where a copy's next bytes go with what it has of the sector before them, and the bytes it writes now: whole sectors, and a
sector's beginning only when nothing more comes to it (R182). -/
def Copy.gathered (c : Copy) (last : Bool) (dst : Loc) (bs : List (Byte × Bool)) : Loc × List (Byte × Bool) × List (Byte × Bool) :=
  let at_ : Loc := { dst with addr := dst.addr - c.tail.length }
  let all := c.tail ++ bs
  let n := if last || !c.gathers || (at_.addr + all.length) % 32 = 0 then all.length
    else all.length - min all.length ((at_.addr + all.length) % 32)
  (at_, all.take n, all.drop n)

/-- One write of a copy: bytes read earlier are put at a place, and the rest of the copy is stored; bytes of a sector that is
not whole yet are kept until it is (R182). -/
def State.copyPut (s0 s : State) (core k : Nat) (c rest : Copy) (dst : Loc) (bs : List (Byte × Bool))
    (bad : Option (Nat × Bool)) : State :=
  let (at_, now, tail) := c.gathered (rest.units.isEmpty && rest.staged.isEmpty) dst bs
  if !s0.feReady c at_ now.length then s0
  else
    match s.putBytes (sectorsOf at_.addr now.length) (c.who core) at_ now with
    | (t, .ok _) =>
      let t := t.setCopy core k { rest.poisoned bad with tail := tail, next := dst.addr + bs.length }
      t.setCore core { t.core core with wroteAt := s.cycle + 1 }
    | (_, .busy) => s0
    | (_, .fault cause a) => s0.haltCopy core k c cause a

/-- What reading a piece of a copy's work gives: its bytes as they are to be written, and where. -/
inductive Load where
  | ok (dst : Loc) (bytes : List (Byte × Bool)) (bad : Option (Nat × Bool))
  | busy
  | fault (cause : BitVec 8) (addr : Nat)

/-- The bytes of a read, made into what is written. -/
def Load.of (dst : Loc) (f : List (Byte × Bool) → List (Byte × Bool)) : Got → Option (Nat × Bool) → Load
  | .ok bs, bad => .ok dst (f bs) bad
  | .busy, _ => .busy
  | .fault c a, _ => .fault c a

/-- Source places of row i of a CPYT block: its bytes, and those of the second plane (R186). -/
def Copy.rowAt (c : Copy) (i : Nat) : Loc := { c.src with addr := c.src.addr + i * tPitch c.ctl }
def Copy.planeAt (c : Copy) (i : Nat) : Loc := { c.src with addr := tPlane2 c.ctl + i * tPitch c.ctl / 2 }
def Copy.rowBytes (c : Copy) : Nat := planeBytes c.ty (tCols c.ctl)
def Copy.planeBytes (c : Copy) : Nat := if sixBit c.ty then tCols c.ctl / 4 else 0

/-- A row of a CPYT block read and expanded (R186). -/
def State.loadRow (s : State) (w : For) (c : Copy) (i : Nat) : State × Load :=
  let dst : Loc := { c.dst with addr := c.dst.addr + 128 * i }
  if tRows c.ctl ≤ i then (s, .ok dst (List.replicate 128 (0, false)) none)
  else
    let p := c.rowAt i
    let q := c.planeAt i
    match s.getBytes (sectorsOf p.addr c.rowBytes) w p c.rowBytes with
    | (t, .ok bs, bad) =>
      match t.getBytes (sectorsOf q.addr c.planeBytes) w q c.planeBytes with
      | (t, .ok cs, bad') =>
        let both := match bad, bad' with
          | some (a, x), some (b, y) => some (min a b, x || y)
          | some x, none => some x
          | none, y => y
        (t, .ok dst (expandRow c.ty (tCols c.ctl) bs cs) both)
      | (t, r, bad') => (t, Load.of dst id r bad')
    | (t, r, bad) => (t, Load.of dst id r bad)

/-- A sector, a row or a piece of the scale plane read (R182, R185, R186). -/
def State.copyLoad (s : State) (w : For) (c : Copy) (u : CUnit) : State × Load :=
  match u with
  | .sector src dst =>
    let (t, r, bad) := s.getBytes (sectorsOf src.addr 32) w src 32
    (t, Load.of dst id r bad)
  | .trow i => s.loadRow w c i
  | .tscale o n =>
    let p : Loc := { c.src with addr := tScSrc c.ctl + o }
    let (t, r, bad) := s.getBytes (sectorsOf p.addr n) w p n
    (t, Load.of ⟨1, tScDst c.ctl + o⟩ id r bad)
  | _ => (s, .busy)

/-- The 128-byte lines that n bytes at a place touch; none in the scratchpad (R306). -/
def Loc.lines (l : Loc) (n : Nat) : List Nat :=
  if l.space = 1 || n = 0 then [] else (List.range ((l.addr % 128 + n + 127) / 128)).map (fun i => l.addr / 128 + i)

/-- The lines that a piece of a copy's work requests (R306). -/
def CUnit.lines (u : CUnit) (c : Copy) : List Nat :=
  match u with
  | .sector src _ => src.lines 32
  | .trow i => if tRows c.ctl ≤ i then [] else (c.rowAt i).lines c.rowBytes ++ (c.planeAt i).lines c.planeBytes
  | .tscale o n => ({ c.src with addr := tScSrc c.ctl + o } : Loc).lines n
  | .entry j => ({ c.src with addr := c.src.addr + 16 * j } : Loc).lines 16
  | .put o => ({ c.dst with addr := c.dst.addr + o } : Loc).lines 32
  | _ => []

/-- A copy that has requested the lines of a piece. -/
def Copy.asked (c : Copy) (u : CUnit) : Copy := { c with line := (u.lines c).getLast? <|> c.line }

/-- Lines a copy holds in the staging window, and those of a core together (R306). -/
def Copy.held (c : Copy) : Nat := (c.staged.flatMap (·.lines)).eraseDups.length
def Core.window (c : Core) : Nat := c.copies.foldl (fun n k => n + k.held) 0

/-- The lines of a piece have room in the core's staging window (R306, R307). -/
def State.hasRoom (s : State) (core : Nat) (c : Copy) (u : CUnit) : Bool :=
  (s.core core).window + (((c.staged.flatMap (·.lines) ++ u.lines c).eraseDups.length) - c.held) ≤ 1024

/-- Everything a copy must follow has been performed, and its engine works for it (R181). -/
def State.copyGoes (s : State) (core : Nat) (c : Copy) : Bool :=
  s.mayWork c.ctx (640 + core) && s.allDone c.gid c.after

/-- Lines are requested in the issue order of the core's copies (R306): none before this one has a request to make. -/
def State.mayRequest (s : State) (core k : Nat) : Bool :=
  ((s.core core).copies.take k).all (fun b =>
    !s.mayWork b.ctx (640 + core) || b.units.all (fun u => (u.lines b).isEmpty))

/-- An access of the group stands before a copy and names some bytes (R181). -/
def State.copyWaits (s : State) (c : Copy) (l : List Acc) : Bool :=
  let g := s.group c.gid
  let po : BitVec 4 := ((g.ops.find? (fun o => o.id = c.id)).map (·.po)).getD (BitVec.allOnes 4)
  g.accs.any (fun x => decide (x.id < c.id) && x.po &&& po ≠ 0 && l.any (s.overlap g x))

/-- A sector put among others by its destination's address, after its equals. -/
def placeUnit (u : CUnit) : List CUnit → List CUnit
  | [] => [u]
  | v :: l =>
    match u, v with
    | .sector _ d, .sector _ e => if d.addr < e.addr then u :: v :: l else v :: placeUnit u l
    | _, _ => v :: placeUnit u l

/-- The work of a copy with an entry replaced by its sectors and the next entry: in list order; for .sct.ord the rest of
the list is read first and the sectors are taken in ascending address order (R182, R187, R289). -/
def Copy.expanded (c : Copy) (u : Nat) (work more : List CUnit) : List CUnit :=
  if c.ordered && bit 0 c.mod then more ++ work.foldl (fun l x => placeUnit x l) (c.units.eraseIdx u)
  else c.units.take u ++ work ++ more ++ c.units.drop (u + 1)

/-- Entry j of a CPYG list (R187): its sectors join the work, then the next entry; a bad entry ends the copy
there under sub-code 4. Earlier accesses to the bytes it names are waited for (R181). -/
def State.copyEntry (s : State) (core k u : Nat) (c : Copy) (j : Nat) : State :=
  let at_ : Nat := c.src.addr + 16 * j
  match s.getBytes (sectorsOf at_ 16) (c.who core) { c.src with addr := at_ } 16 with
  | (_, .busy, _) => s
  | (_, .fault cause a, _) => s.haltCopy core k c cause a
  | (t, .ok bs, bad) =>
    let e := bs.map (·.1)
    let addr := field e 63 0
    let len := field e 95 64
    if addr % 32 ≠ 0 || len % 32 ≠ 0 || field e 127 96 ≠ 0 || 2 ^ 24 < c.done + len then
      t.setCopy core k ({ c with fail := some (4, BitVec.ofNat 64 at_), units := c.units.eraseIdx u }.poisoned bad)
    else
      let side : Loc := { c.dst with addr := c.dst.addr + c.done }
      let other : Loc := ⟨bits 9 8 c.mod, addr⟩
      let l := rangeAccs c.stream other.space addr len (bit 0 c.mod) ++
        rangeAccs c.stream side.space side.addr len (!bit 0 c.mod)
      if s.copyWaits c l then s
      else
        let work := if bit 0 c.mod then sectorUnits side other len else sectorUnits other side len
        let more := if j + 1 < (c.ctl.getD 0 0).toNat then [CUnit.entry (j + 1)] else []
        t.setCopy core k ({ c with done := c.done + len, ranges := c.ranges ++ l,
                                   units := c.expanded u work more }.poisoned bad)

/-- The beginning of a sector that nothing more comes to is written (R182, R187). -/
def State.copyFlush (s : State) (core k : Nat) (c : Copy) : State :=
  if c.tail.isEmpty || !c.staged.isEmpty || !s.copyGoes core c then s
  else s.copyPut s core k c c { c.dst with addr := c.next } [] none

/-- The pieces at the head of a copy's work that one line request serves (R306). -/
def Copy.onLine (c : Copy) (lines : List Nat) : List CUnit := c.units.takeWhile (fun u => decide (u.lines c = lines))

/-- The pieces that one request serves read, one after another, and staged. -/
def State.stageLine (core k : Nat) (lines : List Nat) (quiet : Bool) : List CUnit → State → Option State
  | [], s => some s
  | unit :: more, s =>
    match (s.core core).copies[k]? with
    | none => none
    | some c =>
      match s.copyLoad { c.who core with quiet := quiet } c unit with
      | (t, .ok dst bs bad) =>
        if quiet && bad.isSome then some t
        else
          State.stageLine core k lines quiet more
            (t.setCopy core k { (if quiet then c else c.asked unit) with
              units := c.units.drop 1, staged := c.staged ++ [⟨unit, dst, bs, bad, lines⟩] })
      | (_, .busy) => none
      | (_, .fault cause a) => if quiet then none else some (s.haltCopy core k c cause a)

/-- A staged piece is written (R306, R307). -/
def State.copyStaged (s : State) (core k j : Nat) : State :=
  match (s.core core).copies[k]? with
  | none => s
  | some c =>
    let j := if c.inOrder then 0 else j
    match c.staged[j]? with
    | none => s
    | some x =>
      if !s.copyGoes core c then s
      else s.copyPut s core k c { c with staged := c.staged.eraseIdx j } x.dst x.bytes x.bad

/-- A copy requests the lines of its next piece (R306, R307): they wait in the staging window, where there is room, with the
following pieces that the same lines hold. -/
def State.copyRequest (s : State) (core k : Nat) : State :=
  match (s.core core).copies[k]? with
  | none => s
  | some c =>
    match c.units with
    | [] => s
    | unit :: _ =>
      let lines := unit.lines c
      if lines.isEmpty || c.kind = 3 || !s.copyGoes core c || !s.mayRequest core k || !s.hasRoom core c unit then s
      else
        match unit with
        | .entry j => s.copyEntry core k 0 c j
        | _ => (State.stageLine core k lines false (c.onLine lines) s).getD s

/-- A PIECE OF A COPY'S WORK: unit u. One whose bytes lie in memory is requested, when it is the first, and what has come is
written at once; another is read from the scratchpad and written (R181, R182, R306). Units that travel over the network are
not done here. -/
def State.copyUnit (s : State) (core k u : Nat) : State :=
  match (s.core core).copies[k]? with
  | none => s
  | some c =>
    let u := if c.inOrder then 0 else u
    match c.units[u]? with
    | none => if c.units.isEmpty then s.copyFlush core k c else s
    | some unit =>
      if !s.copyGoes core c then s
      else if !(unit.lines c).isEmpty then
        if u ≠ 0 then s
        else
          let t := s.copyRequest core k
          if c.staged.length < ((t.core core).copies.getD k c).staged.length then t.copyStaged core k c.staged.length else t
      else
        match unit with
        | .sector .. | .trow _ | .tscale .. =>
          if c.inOrder && !c.staged.isEmpty then s
          else
            match s.copyLoad (c.who core) c unit with
            | (t, .ok dst bs bad) => s.copyPut t core k c { c.asked unit with units := c.units.eraseIdx u } dst bs bad
            | (_, .busy) => s
            | (_, .fault cause a) => s.haltCopy core k c cause a
        | _ => s

/-- The translation of a speculative fetch (R340): one that the core or its cluster holds, of a page with neither NS nor MB
set, and that the access is allowed. -/
def State.speculative (s : State) (core ctx : Nat) (super bl : Bool) (want : Want) (va : Nat) : Option Nat :=
  match findTlb (s.core core).tlb ctx va <|> findTlb (s.cluster (core / 4)).tlb ctx va with
  | some t =>
    if bit 5 t.entry || bit 8 t.entry then none
    else
      match s.checkLeaf super bl want t.entry t.large t.leaf va with
      | .ok pa _ _ => if s.window pa = some 3 then none else some pa
      | _ => none
  | none => none

/-- Read-ahead (R340): the engine requests the lines of a copy's next piece before the copy's turn; a failing sector's
lines are discarded (R367). -/
def State.readAhead (s : State) (core k : Nat) : State :=
  match (s.core core).copies[k]? with
  | none => s
  | some c =>
    match c.units with
    | [] => s
    | unit :: _ =>
      let lines := unit.lines c
      let entry := match unit with | .entry _ => true | _ => false
      let space := match unit with | .sector src _ => src.space | _ => c.src.space
      if lines.isEmpty || entry || c.kind = 3 || s.mayRequest core k || !s.copyGoes core c || !s.hasRoom core c unit ||
          lines.any (fun l => (s.speculative core c.ctx c.super (space = 2) 0 (128 * l)).isNone) then s
      else (State.stageLine core k lines true (c.onLine lines) s).getD s

/-- What a save records of a copy (R184): lines read and not written are requested anew. -/
def Copy.unstaged (c : Copy) : Copy := { c with units := c.staged.map (·.unit) ++ c.units, staged := [] }

/-- The deferred traps of a copy: poison first, as R236 has it, and a late condition (R183, R374). DEDUCED, log 44. -/
def Copy.traps (c : Copy) : List Deferred :=
  (match c.bad with
    | some (a, new) => [{ cause := if new then 0x10 else 0x11, lanes := 0, addr := BitVec.ofNat 64 a,
                          info := 4, op := c.id, engine := some 0, target := .none }]
    | none => []) ++
  (match c.fail with
    | some (sub, a) => [{ cause := 0x03, lanes := 0, addr := a, info := BitVec.ofNat 64 sub, op := c.id,
                          engine := some 0, target := .none }]
    | none => [])

/-- A copy leaves its engine, complete (R181). -/
def State.endCopy (s : State) (core k : Nat) (c : Copy) : State :=
  (s.setCore core { s.core core with copies := (s.core core).copies.eraseIdx k }).opDone c.gid c.id c.traps

/-- COPY_COMPLETION (R181): every sector has been written. -/
def execCopyCompletion (core k : Nat) (s : State) : Res :=
  match (s.core core).copies[k]? with
  | none => .next s
  | some c =>
    if c.units.isEmpty && c.staged.isEmpty && c.tail.isEmpty && !c.sent && s.copyGoes core c
    then .next (s.endCopy core k c) else .next s

/-- COPY_FE_ROW_WRITE (R307): the next staged row of a .fe copy whose destination words are empty is
written; with none staged, the next row is requested and written at once. -/
def execCopyFeRowWrite (core k : Nat) (s : State) : Res :=
  match (s.core core).copies[k]? with
  | none => .next s
  | some c =>
    if !c.fe then .next s
    else
      match c.staged.findIdx? (fun x => s.feReady c x.dst x.bytes.length) with
      | some j => .next (s.copyStaged core k j)
      | none => .next (s.copyUnit core k 0)

end Sys2Proof.Machine
end

