-- ==== Sys2Proof/Machine/Queue.lean ====
section
/-! DEFINITION. Queues (R212 to R218): the control block, its checks, QINIT, QENQ, QDEQ, QSTAT, the publication of
an element, parked waiters and pollers. -/

namespace Sys2Proof.Machine

/-- A core's die is not the die of an address's home (R214). -/
def State.farDie (s : State) (gid pa : Nat) : Bool := coreOf gid / 64 ≠ s.home pa / 16

/-- The block's translation and R214's checks; a page in migration passes here and makes the instruction wait
before it issues. A QENQ of U-level code on the block of the supervisor queue (R392) takes the trap of R315. DESIGN CHOICE,
log 95. -/
def State.queueChk (s : State) (g : Group) (gid va : Nat) (m : Mask) (want : Want) (scope : Option Nat)
    (deq : Bool) : Chk :=
  match s.translate g.ctx g.super false want va with
  | .fault c => .halt c (BitVec.ofNat 64 va)
  | .busy => .ok
  | .ok pa _ _ =>
    if !g.super && !deq && scope.isSome && s.supervisorBlock g.ctx pa then .trap 0x02 m 0 0
    else
    match queueFails (s.peekBytes pa 64) g.ctx scope (s.farDie gid pa) deq with
    | some (c, sub) => .trap c m (BitVec.ofNat 64 va) (BitVec.ofNat 64 sub)
    | none => .ok

/-- The physical address of a virtual one, when it translates now. -/
def State.pa? (s : State) (g : Group) (va : Nat) : Option Nat :=
  match s.translate g.ctx g.super false 0 va with
  | .ok pa _ _ => some pa
  | _ => none

/-- An object's page is being migrated (R161). -/
def State.objBusy (s : State) (g : Group) (va : Nat) : Bool := (s.pa? g va).isNone

/-! ### Listed ranges -/

/-- The region list of an element's header: virtual address and length of each used entry (R215). -/
def regionList (header : List Byte) : List (Nat × Nat) :=
  ((List.range 4).map (fun j =>
    (field header (64 * j + 39) (64 * j) * 256, field header (64 * j + 63) (64 * j + 40) * 256))).filter
      (fun e => e.2 ≠ 0)

/-- The first byte of some virtual ranges that does not translate, as a halt (R26); a page of theirs is in migration.
DEDUCED, log 60. -/
def State.listFault (s : State) (g : Group) (l : List (Nat × Nat)) : Option (BitVec 8 × Nat) :=
  s.rangeFault g false 0 (l.flatMap (fun e => pagesOf e.1 e.2))
def State.listBusy (s : State) (g : Group) (l : List (Nat × Nat)) : Bool :=
  s.rangeBusy g (l.flatMap (fun e => pagesOf e.1 e.2))

/-- The physical parts of some virtual ranges. -/
def State.physParts (s : State) (g : Group) (l : List (Nat × Nat)) : List (Nat × Nat) :=
  l.flatMap (fun e => (pagesOf e.1 e.2).filterMap (fun p => (s.pa? g p.1).map (fun pa => (pa, p.2))))

/-- Sectors of a core's L1 that lie in some physical ranges. -/
def State.l1In (s : State) (core : Nat) (parts : List (Nat × Nat)) : List Nat :=
  (s.core core).l1.keys.filter (fun k => parts.any (fun p => p.1 < (k + 1) * 32 && k * 32 < p.1 + p.2))

/-- A core's dirty sectors of some ranges written back (R215). -/
def State.writebackRanges (s : State) (g : Group) (core : Nat) (l : List (Nat × Nat)) : State :=
  (s.l1In core (s.physParts g l)).foldl (fun s k => s.l1Writeback core k) s

/-- The same, and their lines invalidated (R216). -/
def State.flushRanges (s : State) (g : Group) (core : Nat) (l : List (Nat × Nat)) : State :=
  (s.l1In core (s.physParts g l)).foldl (fun s k => s.l1Flush core k) s

/-! ### QINIT -/

def qinitBlock (x : Ext) (r : Run) : Nat := readUni r.g r.lit .int true x.a
def qinitSlots (x : Ext) (r : Run) : Nat := readUni r.g r.lit .int true x.b

/-- QINIT's checks in the order of R213. -/
def qinitCheck (x : Ext) (s : State) (r : Run) : Chk :=
  let a := qinitBlock x r
  let b := qinitSlots x r
  let g := s.group r.gid
  let corrupt (sub : Nat) : Chk := .trap 0x20 r.active (BitVec.ofNat 64 a) (BitVec.ofNat 64 sub)
  Chk.first [
    Chk.aligned a 64 r.active,
    Chk.operand (b % 256 ≠ 0 || 2 ^ 56 ≤ b) r.active (BitVec.ofNat 64 b),
    match s.translate g.ctx g.super false 1 a with
    | .fault c => .halt c (BitVec.ofNat 64 a)
    | .busy => .ok
    | .ok pa _ _ =>
      let bs := s.peekBytes pa 64
      let q := QBlock.read bs
      if !blockValid bs then .ok
      else if q.lq && !g.super then .trap 0x02 r.active 0 0
      else if q.owner ≠ g.ctx then corrupt 3
      else if q.enqw ≠ 0 || q.deqw ≠ 0 || q.penq ≠ 0 || q.pdeq ≠ 0 then corrupt 5
      else .ok]

/-- QINIT (R213). -/
def qinit (x : Ext) (s : State) (r : Run) : State :=
  let g := s.group r.gid
  match s.pa? g (qinitBlock x r) with
  | none => s
  | some pa =>
    let cap := bits 7 3 x.mod
    s.qWrite pa
      { esz := bits 9 8 x.mod, scope := x.scope, blk := bit 2 x.mod, md := bit 1 x.mod, logcap := cap,
        owner := g.ctx, lq := false, head := 0, tail := 0, free := 2 ^ cap, enqw := 0, deqw := 0,
        penq := 0, pdeq := 0, slots := qinitSlots x r / 256 }

/-- Earlier accesses of the group on a stream, engine operations among them, are outstanding (R213, R221). -/
def State.streamBusy (s : State) (r : Run) (stream : Nat) : Bool :=
  !(s.engineAfter r.gid r.sid stream []).isEmpty || !(s.enginesOn r.gid r.sid (· = stream)).isEmpty

def execQinit (x : Ext) (s : State) : Res :=
  s.run { (Enc.ofExt 0x303 x).op (qinit x) with
    reads := fun g => srcKeys g (x.a, true) ++ srcKeys g (x.b, true)
    memory := true
    ends := true
    check := qinitCheck x
    held := fun s r =>
      if s.objBusy (s.group r.gid) (qinitBlock x r) then some (0, s)
      else if s.streamBusy r x.stream then some (9, s) else none }
    noWalk

/-! ### QENQ and QDEQ -/

/-- Operands: the block, and the element's place. -/
def queueBlock (x : Ext) (r : Run) : Nat := readUni r.g r.lit .int true x.a
def queueElem (x : Ext) (r : Run) : Nat := readUni r.g r.lit .int (x.space ≠ 1) x.b

/-- Parked waiters of a block, oldest first. -/
def State.parked (s : State) (pa : Nat) (enq : Bool) : List Waiter :=
  s.waiters.filter (fun w => w.block = pa && !w.isMuster && w.enq == enq)

/-- Available now to a newcomer: beyond what parked waiters wait for (R217). -/
def State.canEnq (s : State) (pa : Nat) : Bool := (s.parked pa true).length < (s.qRead pa).free
def State.canDeq (s : State) (pa : Nat) : Bool := (s.parked pa false).length < (s.qRead pa).count

/-- A QENQ reserves a slot (R215): it waits for its publication. -/
def State.enqueue (s : State) (r : Run) (pa : Nat) (p : Pend) : State :=
  let q := s.qRead pa
  let q' := { q with free := q.free - 1, penq := q.penq + 1 }
  let (id, s) := ((s.keepFor (s.group r.gid).ctx p.block).qWrite pa q').nextId
  let e : Enq :=
    { id := id, gid := r.gid, sid := r.sid, block := pa, va := p.block, index := (q.tail + q.penq) % 2 ^ 32, size := q.elem,
      stream := p.stream, space := p.space, src := p.addr, target := p.target, lanes := r.eff }
  let g := s.group r.gid
  { s.setGroup r.gid (g.setSplit r.sid { g.split r.sid with wait := .publish, why := 6 }) with
    enqs := s.enqs ++ [e] }

/-- Who a group's queue operation works for. -/
def Group.who (g : Group) (gid : Nat) : For := { core := coreOf gid, ctx := g.ctx, super := g.super, wg := g.wg }

/-- An order on every stream put after a group's earlier accesses, when any is outstanding (R279 rule 5). -/
def State.orderAll (s : State) (gid sid : Nat) : State :=
  let y : Acc := { id := 0, kind := .order, po := 0, stream := 0, scope := 0, policy := 0, space := 0, ord := 0, bytes := 0,
                   ty := 6, lanes := [], target := .none }
  if (s.afterOf (s.group gid) sid y).isEmpty && (s.enginesOn gid sid (fun _ => true)).isEmpty then s
  else s.issueAcc gid sid y

/-- A QDEQ takes the element at HEAD (R216): HEAD and PDEQ go up, and the split waits for the element. DEDUCED, log 17. -/
def State.dequeue (s : State) (r : Run) (pa : Nat) (p : Pend) : State :=
  let q := s.qRead pa
  let (id, s) := ((s.keepFor (s.group r.gid).ctx p.block).qWrite pa
    { q with head := (q.head + 1) % 2 ^ 32, pdeq := q.pdeq + 1 }).nextId
  let e : Enq :=
    { id := id, gid := r.gid, sid := r.sid, block := pa, va := p.block, index := q.head, size := q.elem, stream := p.stream,
      space := p.space, src := p.addr, target := p.target, lanes := r.eff, deq := true }
  let g := s.group r.gid
  { s.setGroup r.gid (g.setSplit r.sid { g.split r.sid with wait := .publish, why := 6 }) with
    enqs := s.enqs ++ [e] }

/-- The 128-byte lines that hold n bytes from an address. -/
def linesOf (a n : Nat) : Nat × Nat := (a / 128 * 128, (a % 128 + n + 127) / 128 * 128)

/-- The rest of a QDEQ (R216): the element reaches its place, the listed ranges leave the core's L1, the slot is free, D
takes 1, and every later access is ordered after it (R279). -/
def State.takeElement (s : State) (k : Nat) : State :=
  match s.enqs[k]? with
  | none => s
  | some e =>
    let g := s.group e.gid
    if !e.deq || !s.mayControl g.ctx then s
    else
      let n := e.size
      let who := g.who e.gid
      match s.getBytes (n / 32) { who with ctl := true } ⟨0, (s.qRead e.block).slot e.index⟩ n with
      | (_, .fault c a, _) => s.halt g.ctx c (BitVec.ofNat 64 a) (slotOf e.gid)
      | (_, .busy, _) => s
      | (t, .ok bs, _) =>
        let l := regionList ((bs.map (·.1)).take 32)
        if s.listBusy g l then s
        else
          match s.listFault g l with
          | some (c, va) => s.halt g.ctx c (BitVec.ofNat 64 va) (slotOf e.gid)
          | none =>
            let t := if e.space = 1 then t else t.flushRanges g who.core [linesOf e.src n]
            match t.putBytes (n / 32) who ⟨e.space, e.src⟩ bs with
            | (_, .fault c a) => s.halt g.ctx c (BitVec.ofNat 64 a) (slotOf e.gid)
            | (_, .busy) => s
            | (t, .ok _) =>
              let t := t.flushRanges g who.core l
              let q := t.qRead e.block
              let t := { t.qWrite e.block { q with free := q.free + 1, pdeq := q.pdeq - 1 } with enqs := s.enqs.eraseIdx k }
              ((t.orderAll e.gid e.sid).writeNow e.gid e.sid e.target e.lanes 1).endWait e.gid e.sid .publish

/-- The record of a queue operation. -/
def queuePend (x : Ext) (s : State) (r : Run) : Pend :=
  { r.pend (orNone x s r.gid false) with
    addr := queueElem x r, block := queueBlock x r, stream := x.stream, space := x.space, scope := x.scope }

/-- 512 fabric cycles (at 2.0 GHz) in core cycles, at the core clock of the moment (R20, R217). -/
def State.pollCycles (s : State) : Nat := 512 * s.power.clock / 2000

/-- A queue operation that cannot proceed parks, or polls (R217): the stall cause and the state of its wait. -/
def State.queueWait (s : State) (r : Run) (pa : Nat) (enq : Bool) (p : Pend) : Nat × State :=
  let q := s.qRead pa
  let n := (s.parked pa enq).length
  if q.blk && n < 64 then
    let q := if enq then { q with enqw := n + 1 } else { q with deqw := n + 1 }
    let s := ((s.keepFor (s.group r.gid).ctx p.block).qWrite pa q).park r (.queue pa enq) p
    (6, { s with waiters := s.waiters ++ [{ gid := r.gid, sid := r.sid, block := pa, va := p.block, enq := enq }] })
  else
    let g := s.group r.gid
    let x := g.split r.sid
    (6, s.setGroup r.gid (g.setSplit r.sid { x with wait := .retry (s.cycle + s.pollCycles) }))

/-- A scratchpad element beyond the granules (R161). -/
def State.spPast (s : State) (r : Run) (space a n : Nat) : Chk :=
  if space = 1 && (s.wgOf r.gid).spBytes < a + n then .halt 0xC1 (BitVec.ofNat 64 a) else .ok

/-- Pages of an element in memory (R161). -/
def State.elemChk (s : State) (g : Group) (space a n : Nat) (want : Want) : Chk :=
  if space = 1 then .ok
  else
    match s.rangeFault g false want (pagesOf a n) with
    | some (c, va) => .halt c (BitVec.ofNat 64 va)
    | none => .ok

/-- The checks of QENQ and QDEQ (R209, R214, R161): the block comes first. -/
def queueCheck (x : Ext) (deq : Bool) (s : State) (r : Run) : Chk :=
  let g := s.group r.gid
  let a := queueBlock x r
  let b := queueElem x r
  let n := match s.pa? g a with
    | some pa => (s.qRead pa).elem
    | none => 0
  Chk.first [
    Chk.aligned a 64 r.active, s.queueChk g r.gid a r.active 1 (some x.scope) deq, Chk.aligned b 64 r.active,
    s.spPast r x.space b n, s.elemChk g x.space b n (if deq then 1 else 0)]

/-- Earlier accesses a QDEQ follows: its stream's, and those of its element's bytes (R216, R279). -/
def deqBusy (x : Ext) (s : State) (r : Run) (n : Nat) : Bool :=
  let l := rangeAccs x.stream x.space (queueElem x r) n true
  !(s.engineAfter r.gid r.sid x.stream l).isEmpty || !(s.enginesOn r.gid r.sid (· = x.stream)).isEmpty ||
    !(s.enginesIn r.gid r.sid l).isEmpty

/-- What a queue operation waits for before it takes effect; a page in migration counts as a dependency (R344). -/
def queueHeld (x : Ext) (enq : Bool) (s : State) (r : Run) : Option (Nat × State) :=
  let g := s.group r.gid
  match s.pa? g (queueBlock x r) with
  | none => some (0, s)
  | some pa =>
    let q := s.qRead pa
    let pages := (if x.space = 1 then [] else pagesOf (queueElem x r) q.elem) ++
      (if enq then [] else pagesOf (q.slot q.head) q.elem)
    if s.rangeBusy g pages then some (0, s)
    else if !enq && deqBusy x s r q.elem then some (6, s)
    else if (if enq then s.canEnq pa else s.canDeq pa) || bit 0 x.mod then none
    else some (s.queueWait r pa enq (queuePend x s r))

/-- QENQ's effect (R215). -/
def qenq (x : Ext) (s : State) (r : Run) : State :=
  match s.pa? (s.group r.gid) (queueBlock x r) with
  | none => s
  | some pa =>
    let p := queuePend x s r
    if s.canEnq pa then s.enqueue r pa p else s.writeNow r.gid r.sid p.target r.eff 0

/-- QDEQ's effect (R216). -/
def qdeq (x : Ext) (s : State) (r : Run) : State :=
  match s.pa? (s.group r.gid) (queueBlock x r) with
  | none => s
  | some pa =>
    let p := queuePend x s r
    if s.canDeq pa then s.dequeue r pa p else (s.orderAll r.gid r.sid).writeNow r.gid r.sid p.target r.eff 0

/-- The common part of QENQ and QDEQ; with .try D is written. -/
def queueOp (xop : Nat) (x : Ext) (enq : Bool) (act : State → Run → State) : Op :=
  { (Enc.ofExt xop x).op act with
    reads := fun g => srcKeys g (x.a, true) ++ srcKeys g (x.b, x.space ≠ 1)
    writes := fun g => if bit 0 x.mod then clsKeys g x.d.cls x.d.idx.toNat false else []
    memory := true
    ends := true
    check := queueCheck x (!enq)
    held := queueHeld x enq }

def execQenq (x : Ext) (s : State) : Res :=
  s.run ((queueOp 0x304 x true (qenq x)).releasing (· = x.stream)) noWalk
def execQdeq (x : Ext) (s : State) : Res := s.run (queueOp 0x305 x false (qdeq x)) noWalk

/-- TAIL moved past published slots (R215). -/
def State.advanceTail : Nat → Nat → State → State
  | 0, _, s => s
  | n + 1, pa, s =>
    let q := s.qRead pa
    if s.enqs.any (fun e => e.block = pa && e.published && e.index = q.tail) then
      let rest := s.enqs.filter (fun e => !(e.block = pa && e.published && e.index = q.tail))
      let s := { s with enqs := rest }
      State.advanceTail n pa (s.qWrite pa { q with tail := (q.tail + 1) % 2 ^ 32, penq := q.penq - 1 })
    else s

/-- The element's header as the enqueuer's core would read it. -/
def State.header (s : State) (g : Group) (e : Enq) : List Byte :=
  match s.getBytes 1 (g.who e.gid) ⟨e.space, e.src⟩ 32 with
  | (_, .ok bs, _) => bs.map (·.1)
  | _ => []

/-- Every earlier access that a publication waits for is performed: its stream's, those of B, those of the listed
ranges, and the engines' on the stream or of those bytes (R215, R283). -/
def State.enqReady (s : State) (e : Enq) : Bool :=
  let g := s.group e.gid
  let l := regionList (s.header g e)
  let acc := rangeAccs e.stream e.space e.src e.size false ++
    l.flatMap (fun p => rangeAccs e.stream 0 p.1 p.2 true)
  (s.engineAfter e.gid e.sid e.stream acc ++ s.enginesOn e.gid e.sid (· = e.stream) ++ s.enginesIn e.gid e.sid acc).all
    (fun i => e.id ≤ i)

/-- QENQ_PUBLISH (R215): the element is copied into its slot, the listed ranges are written back, the slot is
published and TAIL moves as far as published slots go. -/
def State.publish (s : State) (k : Nat) : State :=
  match s.enqs[k]? with
  | none => s
  | some e =>
    let g := s.group e.gid
    if e.published || e.deq || !s.enqReady e || !s.mayControl g.ctx then s
    else
      let q := s.qRead e.block
      let who := g.who e.gid
      match s.getBytes (e.size / 32) who ⟨e.space, e.src⟩ e.size with
      | (_, .fault c a, _) => s.halt g.ctx c (BitVec.ofNat 64 a) (slotOf e.gid)
      | (_, .busy, _) => s
      | (t, .ok bs, _) =>
        let l := regionList ((bs.map (·.1)).take 32)
        if s.listBusy g l then s
        else
          match s.listFault g l, t.putBytes (e.size / 32) { who with ctl := true } ⟨0, q.slot e.index⟩ bs with
          | some (c, a), _ | none, (_, .fault c a) => s.halt g.ctx c (BitVec.ofNat 64 a) (slotOf e.gid)
          | none, (_, .busy) => s
          | none, (t, .ok _) =>
            let t := t.writebackRanges g who.core l
            let t := { t with enqs := t.enqs.set k { e with published := true } }
            let t := (State.advanceTail t.enqs.length e.block t).writeNow e.gid e.sid e.target e.lanes 1
            t.endWait e.gid e.sid .publish

def execQenqPublish (k : Nat) (s : State) : Res := .next (s.publish k)

/-- QUEUE_WAITER_SERVED (R217): the oldest parked waiter of a kind takes a freed slot or an element. -/
def execQueueWaiterServed (blk : Nat) (enq : Bool) (s : State) : Res :=
  let q := s.qRead blk
  if !(if enq then 0 < q.free else 0 < q.count) then .next s
  else
    match s.parked blk enq with
    | [] => .next s
    | w :: _ =>
      match ((s.group w.gid).split w.sid).pend with
      | none => .next s
      | some p =>
        let g := s.group w.gid
        let pages := (if p.space = 1 then [] else pagesOf p.addr q.elem) ++ pagesOf (q.slot q.head) q.elem
        if (!enq && s.rangeBusy g pages) || !s.mayStart g.ctx || s.stoppedWg g then .next s
        else .next ((s.unpark w).serve w.gid w.sid p true true (fun s r =>
          if enq then s.enqueue r blk p else s.dequeue r blk p))

/-- QUEUE_POLL_RETRY (R217): a polling queue operation tries again. -/
def execQueuePollRetry (gid sid : Nat) (s : State) : Res :=
  let g := s.group gid
  let x := g.split sid
  match x.wait with
  | .retry _ => if x.why = 6 then .next (s.setGroup gid (g.setSplit sid { x with wait := .none })) else .next s
  | _ => .next s

/-! ### QSTAT -/

def qstat (x : Ext) (s : State) (r : Run) : State :=
  match s.pa? (s.group r.gid) (queueBlock x r) with
  | none => s
  | some pa =>
    let q := s.qRead pa
    let t := targetOf (s.group r.gid) (s.gens r.gid) x.d true
    let (id, s) := (s.checkBytes pa 64).nextId
    (s.expect r.gid r.sid id t).reply r.gid
      { id := id, split := r.sid, target := t,
        vals := spread r.eff (BitVec.ofNat 64 (q.count + 2 ^ 32 * q.free)) }

/-- QSTAT (R214, R218). -/
def execQstat (x : Ext) (s : State) : Res :=
  s.run { (Enc.ofExt 0x306 x).varOp true [(x.a, true)] (qstat x) with
    memory := true
    check := fun s r => Chk.first [Chk.aligned (queueBlock x r) 64 r.active,
      s.queueChk (s.group r.gid) r.gid (queueBlock x r) r.active 0 none false]
    held := fun s r => if s.objBusy (s.group r.gid) (queueBlock x r) then some (0, s) else none } noWalk

end Sys2Proof.Machine
end

