-- ==== Sys2Proof/Machine/Coord.lean ====
section
/-! DEFINITION. Class C without queues: batches (R210, R211), musters (R219 to R221), CLAIM and GIVE (R222, R223),
RELAY (R224, R225), CANCEL and CNTRD (R227), BAR (R228). -/

namespace Sys2Proof.Machine

/-- The operand in field A or B as a 64-bit uniform value. -/
def uniA (x : Ext) (r : Run) : Nat := readUni r.g r.lit .int true x.a
def uniB (x : Ext) (r : Run) : Nat := readUni r.g r.lit .int true x.b
/-- A mask, a selector or a value moved as bits in B: the negate bit inverts it (R44). -/
def uniBits (x : Ext) (r : Run) : Nat := readUni r.g r.lit .bits true x.b
/-- Bits 31:0 of B. -/
def uniB32 (x : Ext) (r : Run) : Nat := uniB x r % 2 ^ 32

/-- A scoreboarded result known at issue, on its way (R56). -/
def State.replyNow (s : State) (r : Run) (t : Target) (v : DWord) : State :=
  let (id, s) := s.nextId
  (s.expect r.gid r.sid id t).reply r.gid { id := id, split := r.sid, target := t, vals := spread r.eff v }

/-! ### Batches -/

def engineOf (x : Ext) : Nat := x.m10

/-- A muster address (R209), and what its translation meets (R161). -/
def State.objChk (s : State) (r : Run) (va n : Nat) (want : Want) : Chk :=
  let g := s.group r.gid
  Chk.first [Chk.aligned va n r.active,
    match s.translate g.ctx g.super false want va with
    | .fault c => .halt c (BitVec.ofNat 64 va)
    | _ => .ok]

/-- What a release on one stream, or on every one, waits for in its first step: earlier accesses and engine operations
(R279, R283). -/
def State.releaseAfter (s : State) (r : Run) (all : Bool) (stream : Nat) : List Nat :=
  let y : Acc := { id := 0, kind := .fenceRel all, po := 0, stream := stream, scope := 0, policy := 0, space := 0, ord := 0,
                   bytes := 0, ty := 6, lanes := [], target := .none }
  s.afterOf (s.group r.gid) r.sid y ++ s.enginesOn r.gid r.sid y.engineStreams
def State.releaseBusy (s : State) (r : Run) (all : Bool) (stream : Nat) : Bool := !(s.releaseAfter r all stream).isEmpty

/-- BFENCE (R210); with .mus, the arrival that the batch's completion makes releases what the group has done on stream 0
(R220). DEDUCED, log 86. -/
def bfence (x : Ext) (s : State) (r : Run) : State :=
  let e := engineOf x
  let arrival : Arrival :=
    { addr := BitVec.ofNat 64 (uniA x r), ctx := (s.group r.gid).ctx, count := 1, status := 0,
      core := some (coreOf r.gid), wide := x.scope ≠ 0, after := s.releaseAfter r false 0 }
  let mus := if bit 2 x.mod then some arrival else none
  let g := (s.group r.gid).closeBatch e mus
  let s := s.setGroup r.gid g
  let t := targetOf g (s.gens r.gid) x.d false
  (s.writeNow r.gid r.sid t r.eff ((g.last.get 0 e).setWidth 64)).settleBatches r.gid

/-- Trap 0x31 with sub-code 1 (R210). -/
def bfenceCheck (x : Ext) (s : State) (r : Run) : Chk :=
  let n := ((s.group r.gid).batches.filter (fun b => b.engine = engineOf x && !b.gone)).length
  Chk.first [
    if bit 2 x.mod then s.objChk r (uniA x r) 32 1 else .ok,
    if 255 ≤ n then .trap 0x31 r.active 0 1 else .ok]

def execBfence (x : Ext) (s : State) : Res :=
  let mus : Bool := bit 2 x.mod
  let op : Op :=
    { (Enc.ofExt 0x300 x).op (bfence x) with
      reads := fun g => if mus then srcKeys g (x.a, true) else []
      writes := fun g => clsKeys g x.d.cls x.d.idx.toNat false
      ends := mus
      check := bfenceCheck x
      deferred := fun s r => if mus then (s.group r.gid).redTrap (· = 0) else none }
  s.run op noWalk

/-- The batch number of BWAIT and BPOLL, and trap 0x31 with sub-code 2 (R211). -/
def batchNum (x : Ext) (r : Run) : BitVec 16 := BitVec.ofNat 16 (uniB x r)
def batchCheck (x : Ext) (s : State) (r : Run) : Chk :=
  let d := (s.group r.gid).last.get 0 (engineOf x) - batchNum x r
  if 32768 ≤ d.toNat then .trap 0x31 r.active 0 2 else .ok

/-- BWAIT (R211, R183). -/
def execBwait (x : Ext) (s : State) : Res :=
  s.run { (Enc.ofExt 0x301 x).op (fun s _ => s) with
    reads := fun g => srcKeys g (x.b, false)
    check := batchCheck x
    deferred := fun s r => (s.group r.gid).batchTrap (engineOf x) (batchNum x r)
    held := fun s r =>
      if (s.group r.gid).batchDone (engineOf x) (batchNum x r) then none else some (5, s) } noWalk

/-- BPOLL (R211, R183). -/
def bpoll (x : Ext) (s : State) (r : Run) : State :=
  let v : DWord := if (s.group r.gid).batchDone (engineOf x) (batchNum x r) then 1 else 0
  s.replyNow r (targetOf (s.group r.gid) (s.gens r.gid) x.d false) v

def execBpoll (x : Ext) (s : State) : Res :=
  s.run { (Enc.ofExt 0x302 x).varOp false [(x.b, false)] (bpoll x) with
    check := batchCheck x
    deferred := fun s r => (s.group r.gid).batchTrap (engineOf x) (batchNum x r) } noWalk

/-! ### Musters -/

/-- A muster's fields (R219). -/
structure Muster where
  expect : Nat
  arrived : Nat
  gen : Nat
  status : Nat
  lastst : Nat
  scope : Nat
deriving DecidableEq, Repr, Inhabited

def State.musterRead (s : State) (pa : Nat) : Muster :=
  let f := field (s.peekBytes pa 32)
  { expect := f 31 0, arrived := f 63 32, gen := f 95 64, status := f 127 96, lastst := f 223 192,
    scope := f 225 224 }

def State.musterWrite (s : State) (pa : Nat) (m : Muster) : State :=
  (s.checkBytes pa 32).homeBytes pa (toBytes 32 (m.expect % 2 ^ 32 + 2 ^ 32 * (m.arrived % 2 ^ 32) +
    2 ^ 64 * (m.gen % 2 ^ 32) + 2 ^ 96 * (m.status % 2 ^ 32) + 2 ^ 192 * (m.lastst % 2 ^ 32) +
    2 ^ 224 * (m.scope % 4)))

/-- n arrivals of a status folded into STATUS (R220). -/
def foldStatus (st n x : Nat) : Nat :=
  let top := max (st % 256) x
  let count := if x = 0 then st / 256 else min (2 ^ 24 - 1) (st / 256 + n)
  top + 256 * count

/-- One arrival command on a muster's fields, and whether a generation completes (R220). -/
def Muster.arrive (m : Muster) (c x : Nat) : Muster × Bool :=
  let a := m.arrived + c
  let st := foldStatus m.status c x
  if m.expect ≤ a then
    let st := if m.expect < a then foldStatus st 1 0xFF else st
    ({ m with lastst := st, status := 0, arrived := 0, gen := (m.gen + 1) % 2 ^ 32 }, true)
  else ({ m with arrived := a, status := st }, false)

/-- A waiter of a muster continues: D takes a value, and the wake is an acquire at the muster's scope (R220,
R221, R284). -/
def State.wakeOne (s : State) (scope : Nat) (v : DWord) (w : Waiter) : State :=
  match ((s.group w.gid).split w.sid).pend with
  | none => s
  | some p =>
    s.serve w.gid w.sid p true false (fun s r =>
      let s := if scope = 0 then s else s.l1InvalidateClean (coreOf r.gid)
      s.writeNow r.gid r.sid p.target r.eff v)

/-- Every parked waiter of a muster woken with a value. -/
def State.wakeMuster (s : State) (pa scope : Nat) (v : DWord) : State :=
  let l := s.waiters.filter (fun w => w.isMuster && w.block = pa)
  let s := { s with waiters := s.waiters.filter (fun w => !(w.isMuster && w.block = pa)) }
  l.foldl (fun s w => s.wakeOne scope v w) s

/-- An arrival command reaches its muster (R220). -/
def State.arriveAt (s : State) (pa c x : Nat) : State :=
  let (m, done) := (s.musterRead pa).arrive c x
  let s := s.musterWrite pa m
  if done then s.wakeMuster pa m.scope (BitVec.ofNat 64 m.lastst) else s

/-- The release an arrival is, at its muster's SCOPE or wider: its core's L1 is written back (R220, R283). -/
def Arrival.release (a : Arrival) (scope : Nat) (s : State) : State :=
  match a.core with
  | some c => if a.wide || scope ≠ 0 then s.l1WritebackAll c else s
  | none => s

/-- MUSTER_ARRIVAL_COMMAND (R220): an arrival that an engine, a launch or a search sent is applied, once what it releases
is performed; an address that does not translate halts the context (R26); a halted context's musters receive none
(R376). -/
def execMusterArrivalCommand (k : Nat) (s : State) : Res :=
  match s.arrivals[k]? with
  | none => .next s
  | some a =>
    let t := { s with arrivals := s.arrivals.eraseIdx k }
    if (s.ctx a.ctx).dead then .next t
    else if a.after.any s.underWay then .next s
    else
      match s.translate a.ctx false false 1 a.addr.toNat with
      | .ok pa _ _ => .next ((a.release (s.musterRead pa).scope t).arriveAt pa a.count a.status)
      | .busy => .next s
      | .fault c => .next (t.halt a.ctx c a.addr 808)

/-- MUSTER.INIT (R221). -/
def musterInit (x : Ext) (s : State) (r : Run) : State :=
  match s.pa? (s.group r.gid) (uniA x r) with
  | none => s
  | some pa =>
    let s := s.musterWrite pa { expect := uniB32 x r, arrived := 0, gen := 0, status := 0, lastst := 0,
                                scope := x.scope }
    s.wakeMuster pa x.scope 0xFE

def execMusterInit (x : Ext) (s : State) : Res :=
  s.run { (Enc.ofExt 0x307 x).op (musterInit x) with
    reads := fun g => srcKeys g (x.a, true) ++ srcKeys g (x.b, false)
    memory := true
    ends := true
    check := fun s r => Chk.first [s.objChk r (uniA x r) 32 1, Chk.operand (uniB32 x r = 0) r.active 0]
    held := fun s r =>
      if s.objBusy (s.group r.gid) (uniA x r) then some (0, s)
      else if s.streamBusy r x.stream then some (9, s) else none }
    noWalk

/-- MUSTER.ARRIVE (R220, R221): a release of the stream's earlier accesses at the muster's scope. -/
def musterArrive (x : Ext) (s : State) (r : Run) : State :=
  match s.pa? (s.group r.gid) (uniA x r) with
  | none => s
  | some pa =>
    let s := if (s.musterRead pa).scope = 0 then s else s.l1WritebackAll (coreOf r.gid)
    s.arriveAt pa (uniB32 x r) 0

def execMusterArrive (x : Ext) (s : State) : Res :=
  let op : Op :=
    { (Enc.ofExt 0x308 x).op (musterArrive x) with
      reads := fun g => srcKeys g (x.a, true) ++ srcKeys g (x.b, false)
      memory := true
      ends := true
      check := fun s r => Chk.first [s.objChk r (uniA x r) 32 1, Chk.operand (uniB32 x r = 0) r.active 0]
      held := fun s r =>
        if s.objBusy (s.group r.gid) (uniA x r) then some (0, s)
        else if s.releaseBusy r false x.stream then some (9, s) else none }
  s.run (op.releasing (· = x.stream)) noWalk

/-- MUSTER.WAIT when GEN differs from its operand (R221). -/
def musterWait (x : Ext) (s : State) (r : Run) : State :=
  match s.pa? (s.group r.gid) (uniA x r) with
  | none => s
  | some pa =>
    let m := s.musterRead pa
    let s := s.checkBytes pa 32
    let s := if m.scope = 0 then s else s.l1InvalidateClean (coreOf r.gid)
    s.writeNow r.gid r.sid (orNone x s r.gid false) r.eff (BitVec.ofNat 64 m.lastst)

/-- MUSTER.WAIT parks, or polls when 64 waiters are parked (R221). -/
def musterHeld (x : Ext) (s : State) (r : Run) : Option (Nat × State) :=
  let g := s.group r.gid
  match s.pa? g (uniA x r) with
  | none => some (0, s)
  | some pa =>
    if (s.musterRead pa).gen ≠ uniB32 x r then none
    else if (s.waiters.filter (fun w => w.isMuster && w.block = pa)).length < 64 then
      let s := (s.keepFor g.ctx (uniA x r)).park r (.muster pa) (r.pend (orNone x s r.gid false))
      some (5, { s with waiters := s.waiters ++
        [{ gid := r.gid, sid := r.sid, block := pa, va := uniA x r, isMuster := true }] })
    else
      let y := g.split r.sid
      some (5, s.setGroup r.gid (g.setSplit r.sid { y with wait := .retry (s.cycle + s.pollCycles) }))

def execMusterWait (x : Ext) (s : State) : Res :=
  s.run { (Enc.ofExt 0x309 x).op (musterWait x) with
    reads := fun g => srcKeys g (x.a, true) ++ srcKeys g (x.b, false)
    writes := fun g => if x.d = Dst.zero then [] else clsKeys g x.d.cls x.d.idx.toNat false
    memory := true
    check := fun s r => s.objChk r (uniA x r) 32 0
    held := musterHeld x } noWalk

/-- MUSTER.POLL (R221). -/
def musterPoll (x : Ext) (s : State) (r : Run) : State :=
  match s.pa? (s.group r.gid) (uniA x r) with
  | none => s
  | some pa =>
    let m := s.musterRead pa
    (s.checkBytes pa 32).replyNow r (targetOf (s.group r.gid) (s.gens r.gid) x.d true)
      (BitVec.ofNat 64 (m.gen + 2 ^ 32 * m.arrived))

def execMusterPoll (x : Ext) (s : State) : Res :=
  s.run { (Enc.ofExt 0x30A x).varOp true [(x.a, true)] (musterPoll x) with
    memory := true
    check := fun s r => s.objChk r (uniA x r) 32 0
    held := fun s r => if s.objBusy (s.group r.gid) (uniA x r) then some (0, s) else none } noWalk

/-! ### CLAIM and GIVE -/

/-- The live groups of a slot. -/
def State.slotGroups (s : State) (slot : Nat) : List (Nat × Group) :=
  s.groups.filter (fun e => e.2.live && slotOf e.1 = slot)

/-- The physical rows of a slot's pool, lowest first (R222). -/
def State.pool (s : State) (slot : Nat) : List Nat :=
  let used := (s.slotGroups slot).flatMap (fun e => e.2.phys)
  (List.range 1024).filter (fun r => !used.contains r)

/-- Physical rows and generations of a target. -/
def Target.gens : Target → List (Nat × Nat)
  | .v _ ph k => [(ph, k)]
  | .vPair _ _ ph ph2 k k2 => [(ph, k), (ph2, k2)]
  | _ => []

/-- Generations that writes still outstanding in a slot carry, by physical row (R269). -/
def State.outstanding (s : State) (slot : Nat) : List (Nat × Nat) :=
  (s.groups.filter (fun e => slotOf e.1 = slot)).flatMap (fun e =>
    e.2.pending.flatMap (fun p => p.2.1.gens) ++ e.2.replies.flatMap (fun p => p.target.gens) ++
      e.2.accs.flatMap (fun a => a.target.gens)) ++
  (s.xchgs.filter (fun q => slotOf q.gid = slot)).flatMap (fun q => q.target.gens) ++
  (s.searches.filter (fun e => slotOf e.2.gid = slot && !e.2.read)).flatMap (fun e => e.2.target.gens)

/-- The generation that rows taken together receive: the lowest that differs from their previous ones and from
those of writes outstanding to them; none while all sixteen are excluded (R269). DESIGN CHOICE, log 39. -/
def State.newGen (s : State) (slot : Nat) (rows : List Nat) : Option Nat :=
  let gens := (s.slot slot).gens
  let out := s.outstanding slot
  (List.range 16).find? (fun k =>
    rows.all (fun r => gens.get 0 r ≠ k && !out.contains (r, k)))

/-- Rows of a slot given a generation. -/
def Slot.setGens (x : Slot) (rows : List Nat) (k : Nat) : Slot :=
  { x with gens := rows.foldl (fun t r => t.set 0 r k) x.gens }

/-- n more rows for a group, when the pool holds them and a generation is free (R222, R269). -/
def State.grant (s : State) (gid n : Nat) : Option State :=
  let slot := slotOf gid
  let rows := (s.pool slot).take n
  if rows.length < n then none
  else
    match s.newGen slot rows with
    | none => none
    | some k =>
      let g := s.group gid
      let s := s.setSlot slot ((s.slot slot).setGens rows k)
      some (s.setGroup gid { g with
        phys := g.phys ++ rows, winSize := g.winSize + n, rtop := g.rtop + n,
        rows := g.rows.filter (fun e => e.1 / 32 < g.phys.length) })

/-- A split waits in CLAIM. -/
def Group.claiming (g : Group) : Bool := g.liveSplits.any (fun i => (g.split i).wait = .claim)

/-- A waiting CLAIM completes with a value of D. -/
def State.endClaim (s : State) (c : Claim) (v : DWord) : State :=
  let slot := slotOf c.gid
  let sl := s.slot slot
  let s := s.setSlot slot { sl with claims := sl.claims.filter (· ≠ c) }
  match ((s.group c.gid).split c.sid).pend with
  | none => s
  | some p => s.serve c.gid c.sid p false false (fun s r => s.writeNow r.gid r.sid p.target r.eff v)

/-- When every resident group of a slot waits in CLAIM, every waiting CLAIM writes 0 (R223). -/
def State.claimDeadlock (s : State) (slot : Nat) : State :=
  let l := s.slotGroups slot
  if !l.isEmpty && l.all (fun e => e.2.claiming) then
    (s.slot slot).claims.foldl (fun s c => s.endClaim c 0) s
  else s

/-- Sub-code 9 of CLAIM and GIVE (R222). -/
def rowsDyn (s : State) (gid _ : Nat) : Nat :=
  let g := s.group gid
  if 1 < g.liveSplits.length || !g.rets.isEmpty || g.retSpill ≠ 0 then 9 else 0

/-- The number of rows is a multiple of 8 from 8 to 1,024 (R222). -/
def rowsBad (n : Nat) : Bool := n % 8 ≠ 0 || n < 8 || 1024 < n

def claimCheck (x : Ext) (s : State) (r : Run) : Chk :=
  let n := uniB32 x r
  Chk.operand (rowsBad n || 1024 < (s.group r.gid).alloc + n) r.active 0

/-- A CLAIM that can be served now: no earlier one waits, and the rows are there. -/
def State.claimNow (s : State) (gid n : Nat) : Option State :=
  if (s.slot (slotOf gid)).claims.isEmpty then s.grant gid n else none

/-- CLAIM's effect (R222). -/
def claim (x : Ext) (s : State) (r : Run) : State :=
  let t := targetOf (s.group r.gid) (s.gens r.gid) x.d false
  match s.claimNow r.gid (uniB32 x r) with
  | some s => s.writeNow r.gid r.sid t r.eff 1
  | none => s.writeNow r.gid r.sid t r.eff 0

/-- CLAIM waits in the slot's queue (R222, R223). -/
def claimHeld (x : Ext) (s : State) (r : Run) : Option (Nat × State) :=
  let n := uniB32 x r
  if (s.claimNow r.gid n).isSome || bit 0 x.mod then none
  else
    let t := targetOf (s.group r.gid) (s.gens r.gid) x.d false
    let k := slotOf r.gid
    let s := s.park r .claim (r.pend t)
    let sl := s.slot k
    some (3, (s.setSlot k { sl with claims := sl.claims ++ [⟨r.gid, r.sid, n⟩] }).claimDeadlock k)

def execClaim (x : Ext) (s : State) : Res :=
  s.run { (Enc.ofExt 0x30B x).op (claim x) with
    reads := fun g => srcKeys g (x.b, false)
    writes := fun g => clsKeys g x.d.cls x.d.idx.toNat false
    dyn := rowsDyn
    check := claimCheck x
    held := claimHeld x } noWalk

/-- CLAIM_SERVED (R222): the first waiting CLAIM of a slot takes its rows. -/
def execClaimServed (slot : Nat) (s : State) : Res :=
  match (s.slot slot).claims with
  | [] => .next s
  | c :: _ =>
    if !s.mayStart (s.group c.gid).ctx then .next s
    else
    match s.grant c.gid c.rows with
    | none => .next s
    | some s => .next (s.endClaim c 1)

/-- GIVE's effect: the top n rows leave the group (R222). -/
def give (x : Ext) (s : State) (r : Run) : State :=
  let n := uniB32 x r
  let g := s.group r.gid
  let keep := g.alloc - n
  let g := g.forgetRows keep g.alloc
  s.setGroup r.gid { g with
    phys := g.phys.take keep, winSize := g.winSize - n, rtop := g.rtop - n,
    rows := g.rows.filter (fun e => e.1 < keep * 32) }

def giveCheck (x : Ext) (s : State) (r : Run) : Chk :=
  let n := uniB32 x r
  Chk.operand (rowsBad n || (s.group r.gid).alloc < n + 8) r.active 0

def execGive (x : Ext) (s : State) : Res :=
  s.run { (Enc.ofExt 0x30C x).op (give x) with
    reads := fun g => srcKeys g (x.b, false)
    dyn := rowsDyn
    check := giveCheck x
    held := fun s r =>
      let g := s.group r.gid
      if g.rowsBusy (g.alloc - uniB32 x r) g.alloc then some (1, s) else none } noWalk

/-! ### RELAY, CANCEL, CNTRD, BAR -/

/-- One split only (R60 sub-code 9). -/
def oneSplit (s : State) (gid _ : Nat) : Nat := if 1 < (s.group gid).liveSplits.length then 9 else 0

/-- The deferred trap a RELAY raises: of a RED, or of an operation of C, M or N that is complete (R225, R236, R374); searches
are not waited for. -/
def Group.relayTrap (g : Group) : Option Deferred :=
  g.deferred.find? (fun d => d.red.isSome || d.engine.any (· ≠ 3))

/-- RELAY (R224, R225): the group issues nothing more; the commit is RELAY_COMMIT. -/
def relayHeld (x : Ext) (s : State) (r : Run) : Option (Nat × State) :=
  let s := s.park r .relay (r.pend .none)
  let g := s.group r.gid
  some (5, s.setGroup r.gid { g with relay := some (BitVec.ofNat 64 (uniA x r), BitVec.ofNat 64 (uniBits x r)) })

def execRelay (x : Ext) (s : State) : Res :=
  s.run { (Enc.ofExt 0x30D x).op (fun s _ => s) with
    reads := fun g => srcKeys g (x.a, true) ++ srcKeys g (x.b, true)
    ends := true
    dyn := oneSplit
    check := fun _ r => Chk.first [Chk.aligned (uniA x r) 128 r.active,
      Chk.operand (2 ^ 38 ≤ uniBits x r) r.active 0]
    deferred := fun s r => (s.group r.gid).relayTrap
    held := fun s r =>
      if (s.group r.gid).redsOn r.sid (fun _ => true) then some (5, s)
      else
        let w := s.wgOf r.gid
        relayHeld x (s.setWg (s.group r.gid).wg { w with restartable := false }) r } noWalk

/-- CANCEL (R227, R323). -/
def execCancel (x : Ext) (s : State) : Res :=
  s.run { (Enc.ofExt 0x30E x).op (fun s r =>
      s.cancelLevel (s.group r.gid).ctx x.m10 (BitVec.ofNat 32 (uniB x r))) with
    reads := fun g => srcKeys g (x.b, false)
    ends := true } noWalk

/-- CNTRD (R227): reading a complete level is an acquire at .sys on every stream (R322). -/
def cntrd (x : Ext) (s : State) (r : Run) : State :=
  let v := (s.ctx (s.group r.gid).ctx).cntrd x.m10 (BitVec.ofNat 32 (uniB x r))
  let s := if bit 63 v then s.l1InvalidateClean (coreOf r.gid) else s
  s.replyNow r (targetOf (s.group r.gid) (s.gens r.gid) x.d true) v

def execCntrd (x : Ext) (s : State) : Res :=
  s.run ((Enc.ofExt 0x30F x).varOp true [(x.b, false)] (cntrd x)) noWalk

/-- When every group of the workgroup that has not retired has executed BAR, each goes on (R228). -/
def State.barCheck (s : State) (wi : Nat) : State :=
  let w := s.wg wi
  let live := w.groups.filter (fun i => (s.group i).live && (s.group i).wg = wi && !(s.group i).retiring)
  if !w.barred.isEmpty && live.all (fun i => w.barred.contains i) then
    let go (s : State) (i : Nat) : State := [0, 1, 2, 3].foldl (fun s k => s.endWait i k .bar) s
    w.barred.foldl go (s.setWg wi { w with barred := [] })
  else s

/-- BAR (R228). -/
def bar (s : State) (r : Run) : State :=
  let g := s.group r.gid
  let w := s.wg g.wg
  let s := s.setGroup r.gid (g.setSplit r.sid { g.split r.sid with wait := .bar, why := 5 })
  (s.setWg g.wg { w with barred := w.barred ++ [r.gid] }).barCheck g.wg

def execBar (x : Ext) (s : State) : Res :=
  let op : Op :=
    { (Enc.ofExt 0x310 x).op bar with
      dyn := oneSplit
      held := fun s r => if s.releaseBusy r true 0 then some (5, s) else none }
  s.run (op.releasing (fun _ => true)) noWalk

end Sys2Proof.Machine
end

