-- ==== Sys2Proof/Machine/Bank.lean ====
section
/-! DEFINITION. What near-memory commands and walkers do beside the banks: reads of DRAM by bank-linear address
(R233, R250, R366), the distance arithmetic of R240, the query cache's entries (R345). -/

namespace Sys2Proof.Machine

/-- A bank-linear read or address met. -/
inductive Bank where
  | ok (bytes : List (Byte × Bool)) (bad : Option (Nat × Bool))
  | busy
  | off (va : Nat)
  | fault (cause : BitVec 8) (va : Nat)

/-- Poison of two reads together: the lowest failing sector, newly found in either (R366). -/
def joinBad : Option (Nat × Bool) → Option (Nat × Bool) → Option (Nat × Bool)
  | some (a, x), some (b, y) => some (min a b, x || y)
  | some x, none => some x
  | none, y => y

/-- The physical address of a bank-linear virtual one on a stack. -/
inductive Place where
  | at (pa : Nat)
  | busy
  | off
  | fault (cause : BitVec 8)

def State.bankPlace (s : State) (ctx : Nat) (super : Bool) (want : Want) (stack va : Nat) : Place :=
  match s.translate ctx super true want va with
  | .ok pa _ _ => if stackOf pa = stack then .at pa else .off
  | .fault c => .fault c
  | .busy => .busy

/-- n bytes of DRAM at a physical address, sector by sector through the ECC checker; `va` names the sectors. -/
def State.dramRead (s : State) (pa va n : Nat) : State × List (Byte × Bool) × Option (Nat × Bool) :=
  let one (a : State × List (Byte × Bool) × Option (Nat × Bool)) (i : Nat) :
      State × List (Byte × Bool) × Option (Nat × Bool) :=
    let (s, bs, bad) := a
    let k := s.dram (pa / 32 * 32) / 32 + i
    let (s, poison, new) := s.eccRead k
    let lo := if i = 0 then pa % 32 else 0
    let hi := min 32 (pa % 32 + n - 32 * i)
    let x := dramSector s.mem k
    let here := (List.range (hi - lo)).map (fun j => (BitVec.ofNat 8 (sectorBytes x (lo + j) 1), poison))
    (s, bs ++ here, if poison then joinBad bad (some (va / 32 * 32 + 32 * i, new)) else bad)
  (List.range (sectorsOf pa n)).foldl one (s, [], none)

/-- n bytes on a stack from a bank-linear virtual address, by 2-KiB rows; `k` bounds the rows. -/
def State.bankRead : Nat → State → Nat → Bool → Nat → Nat → Nat → State × Bank
  | 0, s, _, _, _, _, _ => (s, .ok [] none)
  | k + 1, s, ctx, super, stack, va, n =>
    if n = 0 then (s, .ok [] none)
    else
      let m := min n (2048 - va % 2048)
      match s.bankPlace ctx super 0 stack va with
      | .busy => (s, .busy)
      | .off => (s, .off va)
      | .fault c => (s, .fault c va)
      | .at pa =>
        let (s, bs, bad) := s.dramRead pa va m
        match s.bankRead k ctx super stack (va + m) (n - m) with
        | (s, .ok cs bad') => (s, .ok (bs ++ cs) (joinBad bad bad'))
        | r => r

/-- A read with the number of rows it touches. -/
def State.bank (s : State) (ctx : Nat) (super : Bool) (stack va n : Nat) : State × Bank :=
  s.bankRead ((va % 2048 + n + 2047) / 2048) ctx super stack va n

/-! ### Distances -/

/-- Elements of n bytes each. -/
def elements (n : Nat) (bs : List Byte) : List Nat :=
  (List.range (bs.length / n)).map (fun i => ofBytes ((bs.drop (n * i)).take n))

/-- An integer byte. -/
def signedByte (x : Nat) : Int := (BitVec.ofNat 8 x).toInt

/-- One result of R240 for a type code (0 i8, 11 e4m3, 9 f16): `dist` for NMDIST, `ip` for its .ip, whose
result keeps the sign of a NaN: canonical, or poison (R89, R90). -/
def nearValue (dist ip : Bool) (ty : Nat) (a b : List Byte) : Word × Flags :=
  if ty = 0 then
    let pairs := (elements 1 a).zip (elements 1 b)
    let term (e : Nat × Nat) : Int :=
      let x := signedByte e.1
      let y := signedByte e.2
      if dist && !ip then (x - y) * (x - y) else x * y
    let r := pairs.foldl (fun t e => t + term e) 0
    (BitVec.ofInt 32 (if dist && ip then -r else r), 0)
  else
    let n := tyBits ty / 8
    let pairs := (elements n a).zip (elements n b)
    let step (acc : Word × Flags) (e : Nat × Nat) : Word × Flags :=
      let x := FVal.read (fmtOf ty) false e.1
      let y := FVal.read (fmtOf ty) false e.2
      let s := rd32 false acc.1
      if dist && !ip then
        let (d, f) := rnd32 0 false (FVal.add 0 x y.negate)
        let v := rd32 false d
        let (r, g) := rnd32 0 false (FVal.add 0 s (FVal.mul v v))
        (r, acc.2 ||| f ||| g)
      else
        let (r, g) := rnd32 0 false (FVal.add 0 s (FVal.mul x y))
        (r, acc.2 ||| g)
    let (r, f) := pairs.foldl step (0, 0)
    (if dist && ip && !(rd32 false r).isNan then r ^^^ 0x8000_0000 else r, f)

/-! ### Query-cache entries -/

/-- The stacks of an index (R246). -/
def Search.stacks (q : Search) : List Nat := [0, 1, 2, 3, 4, 5, 6, 7].filter (fun i => field q.index (32 + i) (32 + i) = 1)

/-- Entries of a stack's query cache in use (R345). -/
def State.cacheUsed (s : State) (stack : Nat) : Nat :=
  let near := s.cores.foldl (fun n e =>
    e.2.near.foldl (fun n c => if c.stack = stack then n + c.held else n) n) 0
  let kept := s.saved.foldl (fun n v => v.near.foldl (fun n c => if c.stack = stack then n + c.held else n) n) 0
  near + kept + (s.searches.filter (fun e => e.2.admitted && e.2.stacks.contains stack)).length

/-- A waiting operation wants an entry of a stack. -/
def State.wantsCache (s : State) (stack id : Nat) : Bool :=
  s.cores.any (fun e => e.2.near.any (fun c => c.id = id && c.stack = stack)) ||
    s.searches.any (fun e => e.2.id = id && e.2.stacks.contains stack)

/-- An operation may take n entries of a stack now: they are free and no earlier waiter wants that stack
(R345). -/
def State.cacheFree (s : State) (id stack n : Nat) : Bool :=
  s.cacheUsed stack + n ≤ 32 &&
    !(s.cacheWait.takeWhile (· ≠ id)).any (fun j => s.wantsCache stack j)

/-- The state after an operation leaves the line of waiters. -/
def State.leaveCache (s : State) (id : Nat) : State := { s with cacheWait := without s.cacheWait id }

end Sys2Proof.Machine
end

