-- ==== Sys2Proof/Machine/Near.lean ====
section
/-! DEFINITION. Class D: near-memory commands (R233 to R244, R345, R350, R388). -/

namespace Sys2Proof.Machine

/-! ### Control values -/

/-- Control registers g(k) up (R238). -/
def nearCtl (x : Ext) (n : Nat) (g : Group) : List DWord :=
  (List.range n).map (fun i => g.gReg (x.b.idx.toNat + i))

/-- Fields of the control quad (R239). -/
def ctlStride (c : List DWord) : Nat := (c.getD 0 0).toNat
def ctlQStride (c : List DWord) : Nat := bits 47 32 (c.getD 1 0)
def ctlCount (c : List DWord) : Nat := bits 31 16 (c.getD 1 0)
def ctlLen (c : List DWord) : Nat := 64 * (bits 4 0 (c.getD 1 0) + 1)
def ctlQuery (c : List DWord) : Nat := (c.getD 2 0).toNat
def ctlOut (c : List DWord) : Nat := (c.getD 3 0).toNat
/-- Bytes of the query footprint. -/
def ctlFoot (c : List DWord) : Nat := ctlQStride c * ctlCount c + ctlLen c

/-- Modifiers: type, query source, .list (R238). -/
def nearTy (m : BitVec 10) : Nat := bits 9 5 m
def nearSrc (m : BitVec 10) : Nat := bits 4 3 m
def nearList (m : BitVec 10) : Bool := bit 2 m

/-- Fields of a weight block header (R241). -/
def hdrClid (h : List Byte) : Nat := field h 63 32
def hdrRows (h : List Byte) : Nat := field h 95 64
def hdrCols (h : List Byte) : Nat := field h 111 96
def hdrData (h : List Byte) : Nat := field h 191 128
def hdrPitch (h : List Byte) : Nat := field h 223 192
def hdrCode (h : List Byte) (v : Nat) : Nat := field h (256 + 16 * v + 15) (256 + 16 * v)

/-- The header test (R242). -/
def hdrOk (h : List Byte) (clid : Nat) : Bool :=
  field h 15 0 = 0x7A31 && hdrClid h = clid && field h 31 16 = 0 && field h 127 112 = 0 && field h 255 224 = 0 &&
  1 ≤ hdrCols h && hdrCols h ≤ 2048 && 1 ≤ hdrRows h && hdrRows h ≤ 2 ^ 24 &&
  hdrData h % 2048 = 0 && hdrPitch h % 2048 = 0

/-- The offset of vector i from A (R239): strided, or from the list's bytes. -/
def vecOff (list : Bool) (c : List DWord) (bs : List Byte) (i : Nat) : Nat :=
  if list then ofBytes ((bs.drop (8 * i)).take 8) else i * ctlStride c

/-- The byte ranges a command reads: space, address, bytes. `peek` answers memory as it stands. -/
def Near.reads (n : Near) (peek : Nat → Nat → List Byte) : List (Nat × Nat × Nat) :=
  match n.op with
  | 0 | 1 =>
    let c := n.ctl
    let k := ctlCount c + 1
    let l := if nearList n.mod then peek (ctlStride c) (8 * k) else []
    (if nearList n.mod then [(0, ctlStride c, 8 * k)] else []) ++
    (match nearSrc n.mod with
      | 1 => [(0, ctlQuery c, ctlFoot c)]
      | 2 => [(1, ctlQuery c, ctlFoot c)]
      | _ => []) ++
    (List.range k).map (fun i => (2, n.addr + vecOff (nearList n.mod) c l i, ctlLen c))
  | 2 =>
    let h := peek n.addr 64
    (2, n.addr, 64) ::
    (if hdrOk h (bits 31 0 (n.ctl.getD 2 0)) then
      (if nearSrc n.mod = 2 then (1, (n.ctl.getD 0 0).toNat, 32 * hdrCols h)
        else (0, (n.ctl.getD 0 0).toNat, 32 * hdrCols h)) ::
      (List.range (hdrRows h)).map (fun r => (2, n.addr + hdrData h + r * hdrPitch h, 8 * hdrCols h))
    else [])
  | 3 => [(2, n.addr, n.len)]
  | _ => []

/-- The byte ranges it writes. -/
def Near.writes (n : Near) (peek : Nat → Nat → List Byte) : List (Nat × Nat × Nat) :=
  match n.op with
  | 0 | 1 => if n.target = .none then [(0, ctlOut n.ctl, 4 * (ctlCount n.ctl + 1))] else []
  | 2 => [(0, (n.ctl.getD 1 0).toNat, 4 * hdrRows (peek n.addr 64))]
  | 4 => [(2, n.addr, n.len)]
  | _ => []

/-- Memory as it stands, for a context; nothing where it does not translate. -/
def State.peekVa (s : State) (ctx : Nat) (va n : Nat) : List Byte :=
  (pagesOf va n).flatMap (fun p => match s.translate ctx true false 0 p.1 with
    | .ok pa _ _ => s.peekBytes pa p.2
    | _ => [])

/-- The first bank-linear byte a command names: V(0) of NMDOT and NMDIST, else A (R233, R239). -/
def Near.first (n : Near) (peek : Nat → List Byte) : Nat :=
  if n.op ≤ 1 && nearList n.mod then n.addr + vecOff true n.ctl (peek (ctlStride n.ctl)) 0 else n.addr

/-- The stack of a bank-linear virtual address; 0 where it does not translate. -/
def State.stackFor (s : State) (ctx : Nat) (super : Bool) (va : Nat) : Nat :=
  match s.translate ctx super true 0 (va % 2 ^ 64) with
  | .ok pa _ _ => stackOf pa
  | _ => 0

/-! ### Issue -/

/-- A command issued: it joins the open batch of engine N, its destination is scoreboarded (R233, R235). -/
def State.issueNear (s : State) (r : Run) (n : Near) : State :=
  let g := s.group r.gid
  let (id, s) := s.nextId
  let peek := s.peekVa g.ctx
  let accs := (n.reads peek).flatMap (fun e => rangeAccs n.stream e.1 e.2.1 e.2.2 false) ++
    (n.writes peek).flatMap (fun e => rangeAccs n.stream e.1 e.2.1 e.2.2 true)
  let stack := s.stackFor g.ctx g.super (n.first (fun va => peek va 8))
  let n := { n with id := id, gid := r.gid, wg := g.wg, ctx := g.ctx, super := g.super, stack := stack,
                    ranges := accs, after := s.engineAfter r.gid r.sid n.stream accs ++ s.opsAfter r.gid r.sid n.stream accs }
  let k := coreOf r.gid
  let s := s.setCore k { s.core k with near := (s.core k).near ++ [n] }
  (s.setGroup r.gid (g.joinBatch 2 r.sid id)).expect r.gid r.sid id n.target

/-- A command with its common fields. -/
def mkNear (x : Ext) (op : Nat) (r : Run) (ctl : List DWord) (t : Target) : Near :=
  { id := 0, gid := 0, wg := 0, ctx := 0, super := false, stream := x.stream, scope := x.scope, op := op,
    mod := x.mod, addr := uniA x r, ctl := ctl, target := t, lanes := r.eff, actives := r.active,
    regIdx := x.d.idx.toNat }

/-- The pages some ranges touch translate, or the context halts (R161, R234). -/
def State.rangesChk (s : State) (r : Run) (want : Want) (l : List (Nat × Nat × Nat)) : Chk :=
  let g := s.group r.gid
  let one (e : Nat × Nat × Nat) : Chk :=
    if e.1 = 1 then
      (if (s.wgOf r.gid).spBytes < e.2.1 % 2 ^ 32 + e.2.2 then .halt 0xC1 (BitVec.ofNat 64 e.2.1) else .ok)
    else
      match s.rangeFault g (e.1 = 2) want (pagesOf e.2.1 e.2.2) with
      | some (c, va) => .halt c (BitVec.ofNat 64 va)
      | none => .ok
  Chk.first (l.map one)

/-- The common part of a command's issue: at most 64 in flight on a core (R233). -/
def nearOp (xop : Nat) (x : Ext) (reads : Group → List Nat) (wr : Bool) (check : State → Run → Chk)
    (act : State → Run → State) : Op :=
  { (Enc.ofExt xop x).op act with
    reads := fun g => srcKeys g (x.a, true) ++ reads g
    writes := fun g => if wr then clsKeys g x.d.cls x.d.idx.toNat false else []
    score := if wr then scoreOf x.d false else 0
    memory := true
    check := check
    held := fun s r => if 64 ≤ (s.core (coreOf r.gid)).near.length then some (9, s) else none }

/-- The v registers of a .qr query (R239). -/
def qrRows (x : Ext) (g : Group) : List Nat :=
  let c := nearCtl x 4 g
  if nearSrc x.mod = 0 then
    (List.range ((ctlFoot c + 127) / 128)).map (fun j => ctlQuery c % 256 + j)
  else []

/-- The checks of NMDOT and NMDIST at issue (R234, R238, R239). DEDUCED, log 75. The address of a vector without .list does not
wrap at 2^64: one beyond is unmapped. DESIGN CHOICE, log 107. -/
def nmdotCheck (x : Ext) (s : State) (r : Run) : Chk :=
  let c := nearCtl x 4 r.g
  let m := r.active
  let reg : Bool := x.d.cls = .v
  let qs := nearSrc x.mod
  let list := nearList x.mod
  let a := uniA x r
  let len := ctlLen c
  let n := ctlCount c + 1
  let bad (b : Bool) : Chk := Chk.operand b m 0
  let query : Nat := if qs = 2 then ctlQuery c % 2 ^ 32 else ctlQuery c
  Chk.first [
    Chk.aligned a 64 m,
    bad (bits 63 48 (c.getD 1 0) ≠ 0 || bits 15 5 (c.getD 1 0) ≠ 0 || ctlQStride c % 64 ≠ 0 || (reg && 32 < n)),
    bad ((if qs = 0 then 1024 else 2048) < ctlFoot c),
    (if list then Chk.aligned (ctlStride c) 8 m else bad (ctlStride c % 64 ≠ 0)),
    (if reg then bad (ctlOut c ≠ 0) else Chk.aligned (ctlOut c) 4 m),
    (if qs = 0 then bad (256 ≤ ctlQuery c) else Chk.aligned (ctlQuery c) 64 m),
    bad ((qrRows x r.g).any (fun i => r.g.winSize ≤ i)),
    (if list then .ok
     else Chk.first ((List.range n).map (fun i =>
       let v := a + i * ctlStride c
       Chk.operand (2048 < v % 2048 + len) m (BitVec.ofNat 64 v)))),
    s.rangesChk r 0 ((if list then [(0, ctlStride c, 8 * n)] else (List.range n).map (fun i =>
        (2, a + i * ctlStride c, len))) ++
      (match qs with | 0 => [] | 1 => [(0, query, ctlFoot c)] | _ => [(1, query, ctlFoot c)])),
    (if reg then .ok else s.rangesChk r 1 [(0, ctlOut c, 4 * n)])]

/-- The bytes of a .qr query (R239). -/
def qrBytes (x : Ext) (g : Group) : List (Byte × Bool) :=
  (qrRows x g).flatMap (fun i => allLanes.flatMap (fun l =>
    (toBytes 4 (g.rows.get 0 (g.row i * 32 + l)).toNat).map (fun b => (b, false))))

/-- NMDOT and NMDIST take effect (R239, R240). -/
def nmdot (op : Nat) (x : Ext) (s : State) (r : Run) : State :=
  let t := if x.d.cls = .v then targetOf (s.group r.gid) (s.gens r.gid) x.d false else .none
  s.issueNear r { mkNear x op r (nearCtl x 4 r.g) t with query := qrBytes x r.g }

def nmdotOp (xop op : Nat) (x : Ext) : Op :=
  nearOp xop x (fun g => (List.range 4).map (fun i => keyG (x.b.idx.toNat + i)) ++
    ((qrRows x g).filter (· < g.winSize)).map g.row) (x.d.cls = .v) (nmdotCheck x) (nmdot op x)

def execNmdot (x : Ext) (s : State) : Res := s.run (nmdotOp 0x340 0 x) noWalk
def execNmdist (x : Ext) (s : State) : Res := s.run (nmdotOp 0x341 1 x) noWalk

/-- NMLUT's checks at issue (R234, R241): of the activations and the outputs what every block has, one column and one row. -/
def nmlutCheck (x : Ext) (s : State) (r : Run) : Chk :=
  let c := nearCtl x 3 r.g
  let m := r.active
  Chk.first [
    Chk.aligned (uniA x r) 2048 m,
    Chk.aligned (c.getD 0 0).toNat 64 m,
    Chk.aligned (c.getD 1 0).toNat 4 m,
    Chk.operand (bits 63 32 (c.getD 2 0) ≠ 0) m 0,
    s.rangesChk r 0 [(2, uniA x r, 64), if nearSrc x.mod = 2 then (1, (c.getD 0 0).toNat, 32) else (0, (c.getD 0 0).toNat, 32)],
    s.rangesChk r 1 [(0, (c.getD 1 0).toNat, 4)]]

def execNmlut (x : Ext) (s : State) : Res :=
  s.run (nearOp 0x342 x (fun _ => (List.range 3).map (fun i => keyG (x.b.idx.toNat + i))) true (nmlutCheck x)
    (fun s r => s.issueNear r (mkNear x 2 r (nearCtl x 3 r.g)
      (targetOf (s.group r.gid) (s.gens r.gid) x.d false)))) noWalk

/-- A region's checks: alignment and length, mapped (R243, R244). -/
def regionCheck (x : Ext) (al : Nat) (want : Want) (s : State) (r : Run) : Chk :=
  let n := uniB x r
  Chk.first [
    Chk.aligned (uniA x r) al r.active,
    Chk.operand (n % al ≠ 0 || n < al || 2 ^ 24 < n) r.active 0,
    s.rangesChk r want [(2, uniA x r, n)]]

/-- NMRED (R243). -/
def execNmred (x : Ext) (s : State) : Res :=
  s.run (nearOp 0x343 x (fun g => srcKeys g (x.b, true)) true (regionCheck x 4 0) (fun s r =>
    s.issueNear r { mkNear x 3 r [] (targetOf (s.group r.gid) (s.gens r.gid) x.d false) with
      len := uniB x r })) noWalk

/-- NMFILL (R244): D is read. -/
def execNmfill (x : Ext) (s : State) : Res :=
  s.run (nearOp 0x344 x (fun g => srcKeys g (x.b, true) ++ [keyG x.d.idx.toNat]) false (regionCheck x 32 1)
    (fun s r => s.issueNear r { mkNear x 4 r [r.g.gReg x.d.idx.toNat] .none with len := uniB x r })) noWalk

/-! ### Forwarding -/

/-- A command of a core replaced. -/
def State.setNear (s : State) (core k : Nat) (n : Near) : State :=
  s.setCore core { s.core core with near := (s.core core).near.set k n }

/-- Who reads a query for a command (R235): as the copy engine. -/
def Near.who (n : Near) (core : Nat) : For := { core := core, ctx := n.ctx, super := n.super, wg := n.wg }

/-- A halt that a command meets: it does no more (R161, R375). -/
def State.haltNear (s : State) (core k : Nat) (n : Near) (cause : BitVec 8) (va : Nat) : State :=
  (s.setCore core { s.core core with near := (s.core core).near.eraseIdx k }).halt n.ctx cause
    (BitVec.ofNat 64 va) (768 + n.stack)

/-- The home slices write back what they hold dirty in the ranges read, and drop the ranges written (R235). -/
def State.slicesFor (s : State) (n : Near) : State :=
  let peek := s.peekVa n.ctx
  let phys (l : List (Nat × Nat × Nat)) : List (Nat × Nat) :=
    (l.filter (fun e => e.1 ≠ 1)).flatMap (fun e => (pagesOf e.2.1 e.2.2).filterMap (fun p =>
      match s.translate n.ctx n.super false 0 p.1 with
      | .ok pa _ _ => some (pa, p.2)
      | _ => none))
  let within (l : List (Nat × Nat)) (sec : Nat) : Bool := l.any (fun p => p.1 < (sec + 1) * 32 && sec * 32 < p.1 + p.2)
  let rd := phys ((n.reads peek).filter (fun e => e.1 = 2))
  let wr := phys (n.writes peek)
  let s := (s.slice.keys.filter (within rd)).foldl (fun s k => s.sliceClean k false) s
  (s.slice.keys.filter (within wr)).foldl (fun s k => s.sliceClean k true) s

/-- Bytes a command reads from g or sp when it is forwarded; none for an empty read. -/
def State.nearGet (s : State) (core : Nat) (n : Near) (space a len : Nat) :
    State × Got × Option (Nat × Bool) :=
  s.getBytes (sectorsOf a len) (n.who core) ⟨space, if space = 1 then a % 2 ^ 32 else a⟩ len

/-- Query-cache entries a command needs (R345). -/
def Near.entries (n : Near) : Nat :=
  match n.op with
  | 0 | 1 => 1
  | 2 => if n.early then 0 else (32 * hdrCols n.header + 2047) / 2048
  | _ => 0

/-- A command forwarded with what it has read; it joins the line for query-cache entries when it needs some. DEDUCED, log 16. -/
def State.forwarded (s : State) (core k : Nat) (n : Near) : State :=
  let s := s.setNear core k { n with forwarded := true }
  if n.entries = 0 then s else { s with cacheWait := s.cacheWait ++ [n.id] }

/-- NMDOT and NMDIST: the list is read at the home slices, the query as the copy engine reads (R235). -/
def State.forwardDot (s : State) (core k : Nat) (n : Near) : State :=
  let c := n.ctl
  let len := if nearList n.mod then 8 * (ctlCount c + 1) else 0
  match s.getBytes (sectorsOf (ctlStride c) len) { n.who core with ctl := true } ⟨0, ctlStride c⟩ len with
  | (_, .busy, _) => s
  | (_, .fault cause a, _) => s.haltNear core k n cause a
  | (t, .ok l, bad) =>
    let n := { n with stack := s.stackFor n.ctx n.super (n.first (fun _ => l.map (·.1))) }
    let qs := nearSrc n.mod
    if qs = 0 then t.forwarded core k { n with list := l, readBad := bad }
    else
      match t.nearGet core n (if qs = 2 then 1 else 0) (ctlQuery c) (ctlFoot c) with
      | (_, .busy, _) => s
      | (_, .fault cause a, _) => s.haltNear core k n cause a
      | (t, .ok q, bad') => t.forwarded core k { n with list := l, query := q, readBad := joinBad bad bad' }

/-- NMLUT: the header is read and tested, then the activations (R242). DEDUCED, log 49. -/
def State.forwardLut (s : State) (core k : Nat) (n : Near) : State :=
  match s.bank n.ctx n.super n.stack n.addr 64 with
  | (_, .busy) => s
  | (t, .off a) => t.forwarded core k { n with stop := some a }
  | (_, .fault cause a) => s.haltNear core k n cause a
  | (t, .ok bs bad) =>
    let h := bs.map (·.1)
    if bad.isSome || !hdrOk h (bits 31 0 (n.ctl.getD 2 0)) then
      t.forwarded core k { n with header := h, early := true, readBad := bad }
    else
      let space := if nearSrc n.mod = 2 then 1 else 0
      match t.nearGet core n space (n.ctl.getD 0 0).toNat (32 * hdrCols h) with
      | (_, .busy, _) => s
      | (_, .fault cause a, _) => s.haltNear core k n cause a
      | (t, .ok q, bad) => t.forwarded core k { n with header := h, query := q, readBad := bad }

/-- NM_COMMAND_FORWARD (R233, R235): every access it follows has been performed; the slices write back and the command
goes to the stack that its first byte lies on now. -/
def execNmCommandForward (core k : Nat) (s : State) : Res :=
  match (s.core core).near[k]? with
  | none => .next s
  | some n =>
    if n.forwarded || !s.allDone n.gid n.after || !s.mayWork n.ctx (768 + n.stack) then
      .next s
    else
      let t := s.slicesFor n
      let n := if n.op ≤ 1 then n else { n with stack := s.stackFor n.ctx n.super n.addr }
      match n.op with
      | 0 | 1 => .next (t.forwardDot core k n)
      | 2 => .next (t.forwardLut core k n)
      | _ => .next (t.forwarded core k n)

/-! ### Results -/

/-- Results, rows or sectors of a whole command. -/
def Near.total (n : Near) : Nat :=
  match n.op with
  | 0 | 1 => ctlCount n.ctl + 1
  | 2 => hdrRows n.header
  | _ => sectorsOf n.addr n.len

/-- Nothing is left to do. -/
def Near.finished (n : Near) : Bool :=
  n.forwarded && (n.early || n.stop.isSome || n.total ≤ n.step)

/-- Poison met by result i (R236). -/
def Near.poisoned (n : Near) (i : Nat) (b : Option (Nat × Bool)) : Near :=
  let lane : Mask := if i < 32 then 1#32 <<< i else 0
  let seen := joinBad (n.bad.map (fun e => (e.2.1, e.2.2.1))) b
  match seen with
  | none => n
  | some (a, new) =>
    match n.bad with
    | none => { n with bad := some (lane, a, new, i) }
    | some (m, _, _, f) => { n with bad := some (m ||| lane, a, new, f) }

/-- Results of one sector sent to memory (R235): DRAM's sector is written whole, once; the issuing core's L1 and the slice
give up their copies. A mark goes only when the results cover the sector, which otherwise is read first, past the ECC checker
(R366). -/
def State.nearStore (s : State) (core : Nat) (n : Near) (base : Nat) (l : List (Nat × DWord)) : State × Got :=
  match l with
  | [] => (s, .ok [])
  | (i, _) :: _ =>
    let va := base + 4 * i
    match s.translate n.ctx n.super false 1 va with
    | .busy => (s, .busy)
    | .fault c => (s, .fault c va)
    | .ok pa e leaf =>
      let at' (j : Nat) : Nat := pa + 4 * (j - i)
      if s.window pa = some 3 then (l.foldl (fun s e => s.ctlWrite n.ctx (at' e.1) 4 e.2) s, .ok [])
      else
        let sec := pa / 32
        let s := ((s.countPage n.ctx pa e leaf).l1Flush core sec).sliceClean sec true
        let k := s.dram (sec * 32) / 32
        let s := if l.length < 8 then (s.eccRead k).1 else s
        let put (x : BitVec 256) (e : Nat × DWord) : BitVec 256 :=
          let o := at' e.1 % 32
          blend (byteMask o 4) ((e.2.setWidth 256) <<< (8 * o)) x
        (s.writeDram k (l.foldl put (dramSector s.mem k)) (l.length < 8 && s.poison.contains k), .ok [])

/-- A command goes on with what it has for its sector, or with that sector written. -/
def State.nearFlush (s0 s : State) (core k : Nat) (n : Near) (base : Nat) : State :=
  match s.nearStore core n base n.got with
  | (_, .busy) => s0
  | (_, .fault c a) => s0.haltNear core k n c a
  | (t, .ok _) => t.setNear core k { n with got := [] }

/-- Its results go to memory. -/
def Near.toMemory (n : Near) : Bool := n.op = 2 || (n.op ≤ 1 && n.target = .none)

/-- Result i delivered: to a lane, or to memory at a base, where it waits for the rest of its sector. -/
def State.nearResult (s0 s : State) (core k : Nat) (n : Near) (base i : Nat) (v : Word) : State :=
  let next := { n with step := n.step + 1 }
  if !n.toMemory then
    s.setNear core k { next with
      got := if Mask.has n.lanes i && i < 32 then n.got ++ [(i, v.setWidth 64)] else n.got }
  else
    let next := { next with got := n.got ++ [(i, v.setWidth 64)] }
    if (base + 4 * (i + 1)) % 32 = 0 || n.total ≤ i + 1 then s0.nearFlush s core k next base
    else s.setNear core k next

/-- A command stops at an address (R234): what it has computed stays written. -/
def State.nearStop (s : State) (core k : Nat) (n : Near) (base va : Nat) : State :=
  let n := { n with stop := some va }
  if n.toMemory then s.nearFlush s core k n base else s.setNear core k n

/-- The poison value of a result (R236). -/
def Near.badValue (n : Near) : Word := if n.op ≤ 1 && nearTy n.mod = 0 then 0 else poisonWord

/-- The next vector of NMDOT or NMDIST (R234, R239, R240). -/
def State.nearVector (s : State) (core k : Nat) (n : Near) : State :=
  let i := n.step
  let c := n.ctl
  let list := nearList n.mod
  let base := ctlOut c
  let unknown := list && ((n.list.drop (8 * i)).take 8).any (·.2)
  if unknown then s.nearResult s core k (n.poisoned i n.readBad) base i n.badValue
  else
    let off := vecOff list c (n.list.map (·.1)) i
    let va := (n.addr + off) % 2 ^ 64
    let len := ctlLen c
    if list && (off % 64 ≠ 0 || 2048 < va % 2048 + len) then s.nearStop core k n base va
    else
      match s.bank n.ctx n.super n.stack va len with
      | (_, .busy) => s
      | (_, .off a) => s.nearStop core k n base a
      | (_, .fault cause a) => s.haltNear core k n cause a
      | (t, .ok bs bad) =>
        let q := (n.query.drop (i * ctlQStride c)).take len
        let qbad := q.any (·.2)
        if bad.isSome || qbad then
          s.nearResult t core k ((n.poisoned i bad).poisoned i (if qbad then n.readBad else none)) base i
            n.badValue
        else
          let (v, f) := nearValue (n.op = 1) (bit 1 n.mod) (nearTy n.mod) (bs.map (·.1)) (q.map (·.1))
          s.nearResult t core k { n with flags := n.flags ||| f } base i v

/-- The sum of one row of an NMLUT (R242). -/
def lutRow (h : List Byte) (w act : List Byte) : Word × Flags :=
  let acts := elements 2 act
  let step (acc : Word × Flags) (e : Nat × Nat) : Word × Flags :=
    let (c, a) := e
    let v := (w.getD (c / 2) 0).toNat / 2 ^ (4 * (c % 2)) % 16
    let (t, f) := (FVal.mul (FVal.read f16 false (hdrCode h v)) (FVal.read f16 false a)).round f16 0 false false
    let (r, g) := rnd32 0 false (FVal.add 0 (rd32 false acc.1) (FVal.read f16 false t))
    (r, acc.2 ||| f ||| g)
  ((List.range acts.length).zip acts).foldl step (0, 0)

/-- The next row of an NMLUT (R234, R242). -/
def State.nearRow (s : State) (core k : Nat) (n : Near) : State :=
  let r := n.step
  let base := (n.ctl.getD 1 0).toNat
  match s.bank n.ctx n.super n.stack (n.addr + hdrData n.header + r * hdrPitch n.header) (8 * hdrCols n.header) with
  | (_, .busy) => s
  | (_, .off a) => s.nearStop core k n base a
  | (_, .fault cause a) => s.haltNear core k n cause a
  | (t, .ok bs bad) =>
    let qbad := n.query.any (·.2)
    if bad.isSome || qbad then
      s.nearResult t core k ((n.poisoned r bad).poisoned r (if qbad then n.readBad else none)) base r poisonWord
    else
      let (v, f) := lutRow n.header (bs.map (·.1)) (n.query.map (·.1))
      s.nearResult t core k { n with flags := n.flags ||| f } base r v

/-- One element joined to an NMRED's value (R243). -/
def redJoin (ty op : Nat) (a b : Word) : Word × Flags :=
  if ty = 8 then
    match op with
    | 0 => rnd32 0 false (FVal.add 0 (rd32 false a) (rd32 false b))
    | 1 => let (v, f) := pick32 (fun x y => FVal.lt true y x) false a.toNat b.toNat; (BitVec.ofNat 32 v, f)
    | _ => let (v, f) := pick32 (fun x y => FVal.lt true x y) false a.toNat b.toNat; (BitVec.ofNat 32 v, f)
  else
    let le : Bool := if ty = 2 then a.sle b else a.ule b
    match op with
    | 0 => (a + b, 0)
    | 1 => (if le then a else b, 0)
    | _ => (if le then b else a, 0)

/-- The first element of a reduction: what it answers when it is the only one, a NaN canonical or poison (R89, R90, R243). -/
def redFirst (ty : Nat) (a : Word) : Word × Flags :=
  if ty = 8 then rnd32 0 false (rd32 false a) else (a, 0)

/-- The next sector of an NMRED (R243). -/
def State.nearSum (s : State) (core k : Nat) (n : Near) : State :=
  let lo := max n.addr ((n.addr / 32 + n.step) * 32)
  let hi := min (n.addr + n.len) ((n.addr / 32 + n.step + 1) * 32)
  match s.bank n.ctx n.super n.stack lo (hi - lo) with
  | (_, .busy) => s
  | (_, .off a) => s.setNear core k { n with stop := some a }
  | (_, .fault cause a) => s.haltNear core k n cause a
  | (t, .ok bs bad) =>
    let join (x : Option Word × Flags) (v : Nat) : Option Word × Flags :=
      match x.1 with
      | none => let (r, f) := redFirst (nearTy n.mod) (BitVec.ofNat 32 v); (some r, x.2 ||| f)
      | some a => let (r, f) := redJoin (nearTy n.mod) (bits 1 0 n.mod) a (BitVec.ofNat 32 v); (some r, x.2 ||| f)
    let (acc, f) := (elements 4 (bs.map (·.1))).foldl join (n.acc, n.flags)
    t.setNear core k { (n.poisoned 0 bad) with acc := acc, flags := f, step := n.step + 1 }

/-- The next sector of an NMFILL (R244). -/
def State.nearFill (s : State) (core k : Nat) (n : Near) : State :=
  let va := n.addr + 32 * n.step
  match s.bankPlace n.ctx n.super 1 n.stack va with
  | .busy => s
  | .off => s.setNear core k { n with stop := some va }
  | .fault cause => s.haltNear core k n cause va
  | .at pa =>
    let v : BitVec 256 := (n.ctl.getD 0 0).setWidth 256
    let x := v ||| v <<< 64 ||| v <<< 128 ||| v <<< 192
    let s := s.l1Drop core (pa / 32)
    let s := { s with slice := s.slice.del (pa / 32) }
    (s.writeDram (s.dram pa / 32) x false).setNear core k { n with step := n.step + 1 }

/-- What a result, row or sector adds to its stack's counters (R383): its reads' waits for busy banks, an open amount since
occupancies are left out (log 78), and the cycles in which an NMLUT builds its tables, 8 a block of 16 activations (R350): once
a command when all fit into the four blocks, else for every row. DESIGN CHOICE, log 109. -/
def State.countNear (s : State) (n : Near) : State :=
  let k := 8 * n.stack
  let wait := if n.op ≤ 3 then Config.freeNat (s.cycle * 2 ^ 16 + n.step) else 0
  let cols := hdrCols n.header
  let build := if n.op = 2 && (n.step = 0 || 64 < cols) then 8 * ((cols + 15) / 16) else 0
  { s with baseDie := (s.baseDie.set 0 k (s.baseDie.get 0 k + wait)).set 0 (k + 2) (s.baseDie.get 0 (k + 2) + build) }

/-- THE NEXT RESULT, row or sector of a forwarded command: it holds its query-cache entries first (R345). -/
def State.nearStep (s : State) (core k : Nat) : State :=
  match (s.core core).near[k]? with
  | none => s
  | some n =>
    if !n.forwarded || n.finished || !s.mayWork n.ctx (768 + n.stack) then s
    else if n.held < n.entries then
      if s.cacheFree n.id n.stack n.entries then (s.leaveCache n.id).setNear core k { n with held := n.entries }
      else s
    else
      let t := match n.op with
        | 0 | 1 => s.nearVector core k n
        | 2 => s.nearRow core k n
        | 3 => s.nearSum core k n
        | _ => s.nearFill core k n
      if (t.core core).near = (s.core core).near then t else t.countNear n

/-! ### Completion -/

/-- The deferred traps of a command: poison, then a stop (R234, R236, R242). The lanes of a stop are the active ones with a
register destination. DEDUCED, log 44. -/
def Near.traps (n : Near) : List Deferred :=
  let reg : Bool := match n.target with | .none => false | _ => n.op ≠ 2 || n.early
  let isG : Bool := match n.target with | .g _ => true | _ => false
  let d : Deferred := { cause := 0x10, lanes := 0, addr := 0, info := 0, op := n.id, engine := some 2,
                        target := n.target }
  let seen := joinBad n.readBad (n.bad.map (fun e => (e.2.1, e.2.2.1)))
  let first := (n.bad.map (fun e => e.2.2.2)).getD 0
  let badLanes : Mask := (n.bad.map (fun e => e.1)).getD 0
  (match seen with
    | none => []
    | some (a, new) =>
      [{ d with
          cause := if new then 0x10 else 0x11, addr := BitVec.ofNat 64 a,
          lanes := if !reg then 0 else if isG then n.actives else badLanes &&& n.lanes,
          info := BitVec.ofNat 64 (if reg then 2 + n.regIdx * 2 ^ 8 else 3 + first * 2 ^ 16) }]) ++
  (match n.stop with
    | none => []
    | some a => [{ d with cause := 0x03, addr := BitVec.ofNat 64 a, info := 7,
                          lanes := if reg then n.actives else 0 }])

/-- The register results (R240, R242, R243); none of a command that stopped before them. -/
def Near.values (n : Near) : List (Nat × DWord) :=
  match n.op with
  | 0 | 1 => n.got
  | 2 => if n.early then [(0, 1)] else if n.stop.isSome then [] else [(0, 0)]
  | 3 =>
    if n.stop.isSome then []
    else
      let v : Word :=
        if n.bad.isSome then (if nearTy n.mod = 8 then poisonWord else 0) else n.acc.getD 0
      [(0, v.setWidth 64)]
  | _ => []

/-- NM_COMMAND_COMPLETE (R233, R235, R236): results are in the registers, flags and deferred traps noted,
the batch one less. -/
def State.endNear (s : State) (core k : Nat) (n : Near) : State :=
  let s := (s.setCore core { s.core core with near := (s.core core).near.eraseIdx k }).leaveCache n.id
  let s := match n.target with
    | .none => s
    | t =>
      let last := (s.group n.gid).replies.length
      (s.reply n.gid { id := n.id, target := t, vals := n.values }).arrive n.gid last
  s.opDone n.gid n.id n.traps (some (2, n.flags))

def execNmCommandComplete (core k : Nat) (s : State) : Res :=
  match (s.core core).near[k]? with
  | none => .next s
  | some n => if n.finished && s.mayWork n.ctx (768 + n.stack) then .next (s.endNear core k n) else .next s

end Sys2Proof.Machine
end

