-- ==== Sys2Proof/Machine/Search.lean ====
section
/-! DEFINITION. SEARCH and SCANCEL, admission, heaps, visited bits and result records (R245 to R249, R252, R331, R332,
R346, R347), and class E, executed by walkers (R250, R251). -/

namespace Sys2Proof.Machine

/-! ### Descriptor and index fields (R245, R246) -/

def Search.indexVa (q : Search) : Nat := field q.desc 63 0
def Search.queryVa (q : Search) : Nat := field q.desc 127 64
def Search.result (q : Search) : Nat := field q.desc 191 128
def Search.muster (q : Search) : Nat := field q.desc 255 192
def Search.entry (q : Search) : Nat := field q.desc 319 288
def Search.k (q : Search) : Nat := field q.desc 327 320
def Search.beam (q : Search) : Nat := field q.desc 343 336
def Search.hopLimit (q : Search) : Nat := field q.desc 383 352
def Search.wcode (q : Search) : Nat := field q.desc 447 384
def Search.arg (q : Search) : Nat := field q.desc 511 448
def Search.ty (q : Search) : Nat := field q.index 41 40
def Search.metric (q : Search) : Nat := field q.index 42 42
def Search.dim (q : Search) : Nat := field q.index 58 48
def Search.vslots (q : Search) : Nat := field q.index 69 64 + 1
def Search.vbytes (q : Search) : Nat := field q.index 127 96
def Search.nbase (q : Search) : Nat := field q.index 191 128
def Search.vbase (q : Search) : Nat := field q.index 255 192
/-- Bytes of one vector. -/
def Search.vecBytes (q : Search) : Nat := q.dim * (if q.ty = 2 then 2 else 1)
/-- The type code of R50 that TYPE stands for. -/
def Search.tyCode (q : Search) : Nat := match q.ty with | 0 => 0 | 1 => 11 | _ => 9
/-- The home stack: 0 for a core of die 0, 4 for one of die 1 (R247). -/
def Search.home (q : Search) : Nat := if q.core < 64 then 0 else 4

/-- The descriptor breaks a rule of R247. -/
def Search.descBad (q : Search) : Bool :=
  q.k = 0 || 128 < q.k || q.beam = 0 || 64 < q.beam || q.hopLimit = 0 ||
  q.indexVa % 64 ≠ 0 || q.queryVa % 64 ≠ 0 || q.result % 8 ≠ 0 || q.muster % 32 ≠ 0 || q.wcode % 4 ≠ 0 ||
  field q.desc 351 344 ≠ 0 || field q.desc 335 328 ≠ 0

/-- The index record, or the two together, break a rule of R247. -/
def Search.indexBad (q : Search) : Bool :=
  field q.index 511 256 ≠ 0 || field q.index 95 70 ≠ 0 || field q.index 63 59 ≠ 0 || field q.index 47 43 ≠ 0 ||
  q.ty = 3 || (q.metric = 1 && q.ty ≠ 0) || q.dim = 0 || 1024 < q.vecBytes ||
  q.vbytes = 0 || q.vbytes % 2048 ≠ 0 || q.nbase % 64 ≠ 0 || q.vbase % 2048 ≠ 0 ||
  q.entry = 0xFFFF_FFFF || !q.stacks.contains (q.entry / 2 ^ 29) || field q.index 31 0 < q.snap

/-! ### Issue -/

def searchCheck (x : Ext) (s : State) (r : Run) : Chk :=
  Chk.first [Chk.aligned (uniA x r) 64 r.active, s.rangesChk r 0 [(0, uniA x r, 64)]]

/-- SEARCH issued (R245): it joins the open batch of engine S. -/
def search (x : Ext) (s : State) (r : Run) : State :=
  let g := s.group r.gid
  let (id, s) := s.nextId
  let t := targetOf g (s.gens r.gid) x.d false
  let q : Search :=
    { id := id, ctx := g.ctx, super := g.super, gid := r.gid, core := coreOf r.gid, addr := uniA x r,
      after := s.engineAfter r.gid r.sid x.stream (rangeAccs x.stream 0 (uniA x r) 64 false),
      target := t, lanes := r.active, stream := x.stream, ranges := rangeAccs x.stream 0 (uniA x r) 64 false }
  let s := s.setSearch id q
  (s.setGroup r.gid (g.joinBatch 3 r.sid id)).expect r.gid r.sid id t

def execSearch (x : Ext) (s : State) : Res :=
  s.run { (Enc.ofExt 0x345 x).op (search x) with
    reads := fun g => srcKeys g (x.a, true)
    writes := fun g => clsKeys g x.d.cls x.d.idx.toNat false
    score := scoreOf x.d false
    memory := true
    ends := true
    check := searchCheck x } noWalk

/-- SCANCEL (R249). -/
def scancel (x : Ext) (s : State) (r : Run) : State :=
  let h : Word := BitVec.ofNat 32 (uniB x r)
  match s.searches.find? (fun e => e.2.ctx = (s.group r.gid).ctx && e.2.handle = h && h ≠ 0) with
  | none => s
  | some (k, q) => (s.setSearch k { q with cancelled := true }).dropWalkers k

def execScancel (x : Ext) (s : State) : Res :=
  s.run { (Enc.ofExt 0x346 x).op (scancel x) with
    reads := fun g => srcKeys g (x.b, false)
    memory := true
    ends := true } noWalk

/-! ### Admission -/

/-- The walker engines still work for a context (R376). -/
def State.walkersWork (s : State) (ctx : Nat) : Bool :=
  let c := s.ctx ctx
  !c.halted || s.savesHalted ctx || c.stopping.any (fun e => 776 ≤ e && e < 808 && c.inSkid s.time e)

/-- Poisoned bytes of what SEARCH reads are open (DESIGN CHOICE, log 5). DEDUCED, log 48. -/
def openBytes (n : Nat) (bs : List (Byte × Bool)) : List Byte :=
  (List.range bs.length).zip bs |>.map (fun e => if e.2.2 then (Config.freeWord (n + e.1)).setWidth 8 else e.2.1)

/-- Handles that a home stack gave and may not give yet: fewer than 2^20 admissions have followed (R245). -/
def State.recentHandles (s : State) (home : Nat) : List (Word × Nat) :=
  (s.handles.get [] home).filter (fun e => s.admissions.get 0 home < e.2 + 2 ^ 20)

/-- A handle that R245 allows: the open choice where it is allowed, else the least. -/
def State.handleOk (s : State) (q : Search) (h : Word) : Bool :=
  h ≠ 0 && !s.searches.any (fun e => e.2.ctx = q.ctx && e.2.handle = h) && !(s.recentHandles q.home).any (·.1 = h)
def State.leastHandle (s : State) (q : Search) : Nat → Nat → Word
  | 0, n => BitVec.ofNat 32 n
  | k + 1, n => if s.handleOk q (BitVec.ofNat 32 n) then BitVec.ofNat 32 n else s.leastHandle q k (n + 1)
def State.newHandle (s : State) (q : Search) : Word :=
  let h := Config.freeWord (s.fresh * 2 ^ 16)
  if s.handleOk q h then h else s.leastHandle q ((s.recentHandles q.home).length + s.searches.length) 1

/-- The handle sent to D, with the deferred trap of a poisoned read (R245, R374). -/
def State.answerSearch (s : State) (q : Search) (bad : Option (Nat × Bool)) : State :=
  let d := bad.map (fun b => ({ cause := if b.2 then 0x10 else 0x11, lanes := q.lanes, addr := BitVec.ofNat 64 b.1,
                                info := 1, op := q.id, engine := some 3, target := q.target } : Deferred))
  let g := s.group q.gid
  let s := s.setGroup q.gid { g with deferred := g.deferred ++ d.toList }
  s.reply q.gid { id := q.id, target := q.target, vals := [(0, q.handle.setWidth 64)] }

/-- The search read and refused (R247), or read and given its handle. DEDUCED, log 74. -/
def State.searchRefused (s : State) (k : Nat) (q : Search) (bad : Option (Nat × Bool)) : State :=
  let q := { q with read := true, refused := true }
  (s.setSearch k q).answerSearch q bad
def State.searchTaken (s : State) (k : Nat) (q : Search) (bad : Option (Nat × Bool)) : State :=
  let h := s.newHandle q
  let q := { q with read := true, handle := h }
  let s := { s with
    fresh := s.fresh + 1,
    handles := s.handles.put q.home ((h, s.admissions.get 0 q.home) :: s.recentHandles q.home) }
  (s.setSearch k q).answerSearch q bad

/-- Bytes that SEARCH reads as loads (R245). -/
def State.searchGet (s : State) (q : Search) (va n : Nat) : State × Got × Option (Nat × Bool) :=
  s.getBytes (sectorsOf va n) { core := q.core, ctx := q.ctx, super := q.super, wg := 0, load := true } ⟨0, va⟩ n

/-- A halt at the search's read or write. -/
def State.searchHalt (s : State) (k : Nat) (q : Search) (c : BitVec 8) (va : Nat) : State :=
  ({ s with searches := s.searches.del k }).halt q.ctx c (BitVec.ofNat 64 va) (slotOf q.gid)

/-- The descriptor, the index record and the query are read and checked (R245, R247). -/
def State.searchRead (s : State) (k : Nat) (q : Search) : State :=
  let n := s.fresh * 2 ^ 16
  match s.searchGet q q.addr 64 with
  | (_, .busy, _) => s
  | (_, .fault c a, _) => s.searchHalt k q c a
  | (t, .ok d, b1) =>
    let q := { q with desc := openBytes n d }
    if q.descBad then t.searchRefused k q b1
    else
      match t.searchGet q q.indexVa 64 with
      | (_, .busy, _) => s
      | (_, .fault c a, _) => s.searchHalt k q c a
      | (t, .ok i, b2) =>
        let ipa := (t.settledPa q.ctx 0 q.indexVa).getD 0
        let q := { q with index := openBytes (n + 64) i, ipa := ipa }
        if q.indexBad then t.searchRefused k q (joinBad b1 b2)
        else
          match t.searchGet q q.queryVa q.vecBytes with
          | (_, .busy, _) => s
          | (_, .fault c a, _) => s.searchHalt k q c a
          | (t, .ok v, b3) =>
            let l := rangeAccs q.stream 0 q.indexVa 64 false ++ rangeAccs q.stream 0 q.queryVa q.vecBytes false ++
              rangeAccs q.stream 0 q.result (8 + 8 * q.k) true
            t.searchTaken k { q with query := openBytes (n + 128) v, ranges := q.ranges ++ l } (joinBad (joinBad b1 b2) b3)

/-- Visited slots of an index in use on a stack, and the lowest free one (R331). -/
def State.slotFree (s : State) (q : Search) (stack : Nat) : Option Nat :=
  let used := (s.searches.filter (fun e => e.2.admitted && e.2.ipa = q.ipa)).flatMap (fun e =>
    (e.2.slots.filter (fun x => x.1 = stack)).map (·.2))
  (List.range q.vslots).find? (fun v => !used.contains v)

/-- Heaps in use on a unit of a home stack, and the unit with the most free, the lowest on a tie (R332). -/
def State.heapsUsed (s : State) (home u : Nat) : Nat :=
  (s.searches.filter (fun e => e.2.admitted && e.2.home = home && e.2.heapUnit = u)).length
def State.heapFree (s : State) (home : Nat) : Option Nat :=
  let pick (b u : Nat) : Nat := if s.heapsUsed home u < s.heapsUsed home b then u else b
  let u := (List.range 8).foldl pick 0
  if s.heapsUsed home u < 64 then some u else none

/-- Everything R247 waits for but the query cache is free: the heap unit, the visited slots and a walker context. -/
def State.searchFits (s : State) (q : Search) : Option (Nat × List (Nat × Nat)) :=
  let slots := q.stacks.filterMap (fun st => (s.slotFree q st).map (fun v => (st, v)))
  let e := q.entry / 2 ^ 29
  match s.heapFree q.home with
  | none => none
  | some u =>
    if slots.length = q.stacks.length && (s.freeEngine e).isSome && !s.stops.any (fun m => m.stop = some e) then some (u, slots)
    else none

/-- A search that finds too few query-cache entries, and nothing else wanting, waits for them in its turn; one that waits for
something else is in no line (R345). -/
def State.cacheLine (s : State) (q : Search) : State :=
  if (s.searchFits q).isNone then s.leaveCache q.id
  else if q.stacks.all (fun st => s.cacheFree q.id st 1) || s.cacheWait.contains q.id then s
  else { s with cacheWait := s.cacheWait ++ [q.id] }

/-- A visited slot's first byte (R331). -/
def Search.slotVa (q : Search) (stack v : Nat) : Nat := (q.vbase + stack * 2 ^ 36 + v * q.vbytes) % 2 ^ 64

/-- A bank-linear address names a retired pseudo-channel (R336). -/
def State.onRetired (s : State) (ctx va : Nat) : Bool :=
  match s.leafFor ctx va with
  | some (e, _, large) =>
    let pa := leafPa e large va
    s.window pa = some 1 && s.retired.contains ((pa - blBase) / 2 ^ 29 % 1024)
  | none => false

/-- A visited slot cleared in DRAM (R331); where it does not translate, the accesses that need it fault
(R246), and on a retired pseudo-channel the context halts (R336). -/
def State.clearSlot (s : State) (q : Search) (stack v : Nat) : State :=
  (List.range (q.vbytes / 32)).foldl (fun s i =>
    let va := q.slotVa stack v + 32 * i
    match s.bankPlace q.ctx false 1 stack va with
    | .at pa => s.writeDram (s.dram pa / 32) 0 false
    | _ => if s.onRetired q.ctx va then s.halt q.ctx 0xC1 (BitVec.ofNat 64 va) (768 + q.home) else s) s

/-- No page of a search's visited slots is in migration. -/
def State.slotsStill (s : State) (q : Search) (slots : List (Nat × Nat)) : Bool :=
  slots.all (fun e => (List.range (q.vbytes / 2048)).all (fun i =>
    match s.bankPlace q.ctx false 1 e.1 (q.slotVa e.1 e.2 + 2048 * i) with
    | .busy => false
    | _ => true))

/-- Admission (R247, R331, R332): resources taken, slots cleared, SNAP registered, the first walker started. -/
def State.admitSearch (s : State) (k : Nat) (q : Search) (u : Nat) (slots : List (Nat × Nat)) : State :=
  let s := slots.foldl (fun s e => s.clearSlot q e.1 e.2) s
  let s := { s with admissions := s.admissions.set 0 q.home (s.admissions.get 0 q.home + 1) }
  let (id, s) := s.nextId
  let e := q.entry / 2 ^ 29
  let s := (s.setSearch k { q with admitted := true, heapUnit := u, slots := slots, walkers := 1 }).leaveCache q.id
  let w : Walker :=
    { search := k, stack := e, engine := (s.freeEngine e).getD 0, pc := BitVec.ofNat 64 q.wcode,
      w := (Tab.set 0 [] 0 (BitVec.ofNat 64 q.entry)).set 0 1 (BitVec.ofNat 64 q.arg) }
  (s.setWalker id w).storeMirrors q.ipa

/-- SEARCH_ADMISSION (R245, R247): the search is read and checked; then it is admitted once everything it needs
is free. -/
def execSearchAdmission (k : Nat) (s : State) : Res :=
  match s.searches.look k with
  | none => .next s
  | some q =>
    if !s.walkersWork q.ctx || q.refused || q.cancelled || q.admitted then .next s
    else if !q.read then
      .next (if !s.allDone q.gid q.after then s else s.searchRead k q)
    else
      match s.searchFits q with
      | none => .next (s.cacheLine q)
      | some (u, slots) =>
        .next (if q.stacks.all (fun st => s.cacheFree q.id st 1) && s.slotsStill q slots then s.admitSearch k q u slots
          else s.cacheLine q)

/-! ### The end of a search -/

/-- An operation on engine S leaves its batch, wherever its group is now: resident or saved (R237, R248). -/
def State.searchOpDone (s : State) (id : Nat) : State :=
  let has (g : Group) : Bool := g.unfenced.any (fun e => e.1 = id) || g.batches.any (fun b => b.ops.contains id)
  let s := (s.groups.filter (fun e => has e.2)).foldl (fun s e => s.opDone e.1 id []) s
  let quit (g : Group) : Group × List Arrival :=
    let leave (b : Batch) : Batch := { b with ops := without b.ops id }
    let (l, m) := sweepBatches [] (g.batches.map leave)
    ({ g with unfenced := g.unfenced.filter (fun e => e.1 ≠ id), ops := g.ops.filter (fun e => e.id ≠ id), batches := l }, m)
  { s with
    arrivals := s.arrivals ++ s.saved.flatMap (fun v => v.groups.flatMap (fun e => (quit e.2).2))
    saved := s.saved.map (fun v => { v with groups := v.groups.map (fun e => (e.1, (quit e.2).1)) }) }

/-- The status of a search (R248). -/
def Search.status (q : Search) : Nat :=
  if q.refused then 5 else if q.fault then 4 else if q.cancelled then 1 else if q.limited then 3 else 0

/-- The result record (R248). -/
def Search.record (q : Search) : List Byte :=
  let word := q.status + 2 ^ 8 * q.heap.length + (if q.poison then 2 ^ 16 else 0) +
    2 ^ 32 * min q.hops (2 ^ 32 - 1)
  toBytes 8 word ++ (List.range q.k).flatMap (fun j => match q.heap[j]? with
    | some (key, id) => toBytes 8 (key.toNat + 2 ^ 32 * id.toNat)
    | none => List.replicate 8 0xFF)

/-- SEARCH_END (R248, R249, R347, R376): the record is written, the search unregistered and its resources free, the
arrival made, its operation complete. -/
def State.endSearch (s : State) (k : Nat) (q : Search) : State :=
  let w : For := { core := q.core, ctx := q.ctx, super := q.super, wg := 0 }
  let bs := (if q.result % 8 = 0 then q.record else []).map (fun b => (b, false))
  match s.putBytes (sectorsOf q.result bs.length) w ⟨0, q.result⟩ bs with
  | (_, .busy) => s
  | (t, .fault c a) =>
    let t : State := { t with searches := t.searches.del k }
    let t := if q.admitted then t.storeMirrors q.ipa else t
    (t.leaveCache q.id).halt q.ctx c (BitVec.ofNat 64 a) (768 + q.home)
  | (t, .ok _) =>
    let t := { t with searches := t.searches.del k }
    let t := if q.admitted then t.storeMirrors q.ipa else t
    let a : Arrival := { addr := BitVec.ofNat 64 q.muster, ctx := q.ctx, count := 1, status := q.status }
    let t := if q.muster = 0 || q.muster % 32 ≠ 0 then t else { t with arrivals := t.arrivals ++ [a] }
    (t.leaveCache q.id).searchOpDone q.id

/-- A halted context's search ends without record and arrival (R376). -/
def State.quitSearch (s : State) (k : Nat) (q : Search) : State :=
  let s := s.dropWalkers k
  let s := { s with searches := s.searches.del k }
  ((if q.admitted then s.storeMirrors q.ipa else s).leaveCache q.id)

def execSearchEnd (k : Nat) (s : State) : Res :=
  match s.searches.look k with
  | none => .next s
  | some q =>
    let c := s.ctx q.ctx
    if c.halted then .next (if c.debugHalt then s else s.quitSearch k q)
    else if q.refused || (q.read && q.cancelled) || (q.admitted && q.walkers = 0) then .next (s.endSearch k q)
    else .next s

/-! ### Heap, visited bits and messages -/

/-- The order of heap entries (R252). -/
def heapLt (a b : Word × Word) : Bool := a.1.slt b.1 || (a.1 = b.1 && a.2.ult b.2)

/-- An entry put in its place. -/
def heapIns (e : Word × Word) : List (Word × Word) → List (Word × Word)
  | [] => [e]
  | x :: xs => if heapLt e x then e :: x :: xs else x :: heapIns e xs

/-- An offer applied (R251, R252): the search and whether the entry entered. -/
def Search.offer (q : Search) (e : Word × Word) : Search × Bool :=
  if q.heap.length < q.k then ({ q with heap := heapIns e q.heap }, true)
  else
    match q.heap.getLast? with
    | none => (q, false)
    | some l => if heapLt e l then ({ q with heap := heapIns e q.heap.dropLast }, true) else (q, false)

/-- The K-th key, sign-extended (R252). -/
def Search.kth (q : Search) : DWord :=
  if q.heap.length < q.k then 0x7FFF_FFFF
  else match q.heap.getLast? with
    | none => 0x7FFF_FFFF
    | some l => l.1.signExtend 64

/-- A walker's predicate written; index 0 discards (R251). -/
def Walker.setP (k : Walker) (i : Nat) (b : Bool) : Walker :=
  let m : BitVec 8 := 1#8 <<< i
  if i = 0 then k else { k with p := if b then k.p ||| m else k.p &&& ~~~m }
def Walker.setW (k : Walker) (i : Nat) (v : DWord) : Walker := { k with w := k.w.set 0 i v }

/-- The heap unit applies an operation: the state and the values of the reply (R252). -/
def State.heapDo (s : State) (k : Nat) (offer : Option (Word × Word)) : State × Option Bool × DWord :=
  let q := s.search k
  match offer with
  | none => (s, none, q.kth)
  | some e =>
    let (q, b) := q.offer e
    (s.setSearch k q, some b, q.kth)

/-- What setting a visited bit gives: the state and the old bit; a page in migration; or an address that is none. -/
inductive Visited where
  | ok (s : State) (old : Bool)
  | busy
  | bad (va : Option Nat)

/-- A node's visited bit set in its stack's slot (R331). The bit of a poisoned sector is open (DESIGN CHOICE, log 5). -/
def State.visitDo (s : State) (q : Search) (node : Word) : Visited :=
  let st := node.toNat / 2 ^ 29
  let l := node.toNat % 2 ^ 29
  match q.slots.find? (fun e => e.1 = st) with
  | none => .bad none
  | some (_, v) =>
    let va := q.slotVa st v + l / 8
    if q.vbytes ≤ l / 8 then .bad none
    else
      match s.bankPlace q.ctx false 1 st va with
      | .at pa =>
        let k := s.dram pa / 32
        let (s, poison, _) := s.eccRead k
        let x := dramSector s.mem k
        let i := 8 * (pa % 32) + l % 8
        let old := if poison then Config.freeBit (s.fresh * 2 ^ 16) else x.getLsbD i
        let s := if poison then { s with fresh := s.fresh + 1 } else s
        .ok (s.writeDram k (x ||| BitVec.shiftLeft 1#256 i) poison) old
      | .busy => .busy
      | _ => .bad (some va)

/-- An address that a walker cannot use: its search ends with status 4 (R250); on a retired pseudo-channel the context halts
(R336). DEDUCED, log 89. -/
def State.walkerMiss (s : State) (id : Nat) (va : Option Nat) : State :=
  let k := s.walker id
  let ctx := (s.search k.search).ctx
  match va with
  | some a =>
    if s.onRetired ctx a then s.halt ctx 0xC1 (BitVec.ofNat 64 a) (776 + 4 * k.stack + k.engine) else s.walkerFault id
  | none => s.walkerFault id

/-- A walker meets a page in migration: it takes the instruction up again (R161). -/
def State.walkerAgain (s : State) (id size : Nat) (k : Walker) : State :=
  s.setWalker id { k with pc := k.pc - BitVec.ofNat 64 size }

/-- Ring packets of R346, by flits: hop and spawn 4, heap offer 2, replies and visited messages 1; a request of WKTH, which
R346 does not list, 1 (DESIGN CHOICE, log 19); none within a stack. -/
def State.ringSend (s : State) (flits source target : Nat) : State :=
  if source = target then s else s.sendPacket (.ring (.message (64 * (flits - 1))) source target)

/-- Message k, when its context's walker engines work. -/
def State.msgAt (s : State) (k : Nat) : Option Msg :=
  match s.msgs[k]? with
  | none => none
  | some m => if s.walkersWork (s.search (s.walker m.walker).search).ctx then some m else none

/-- WALKER_HOP_ARRIVAL (R252, R332): the walker takes a context of the target stack or waits at its stop. -/
def execWalkerHopArrival (k : Nat) (s : State) : Res :=
  match s.msgAt k with
  | some (.hop w goal) => .next ({ s with msgs := s.msgs.eraseIdx k }.arriveStop (.hop w goal) goal)
  | _ => .next s

/-- WALKER_SPAWN_START (R251, R252, R332). -/
def execWalkerSpawnStart (k : Nat) (s : State) : Res :=
  match s.msgAt k with
  | some (.spawn w goal) => .next ({ s with msgs := s.msgs.eraseIdx k }.arriveStop (.spawn w goal) goal)
  | _ => .next s

/-- HEAP_OFFER (R252): the heap unit applies the operation and replies. -/
def execHeapOffer (k : Nat) (s : State) : Res :=
  match s.msgAt k with
  | some (.heap w offer wd pk) =>
    let (s, b, v) := s.heapDo (s.walker w).search offer
    let r : Msg := .reply w (some (wd, v)) (b.map (fun b => (pk, b)))
    .next { s.ringSend 1 (s.search (s.walker w).search).home (s.walker w).stack with msgs := s.msgs.eraseIdx k ++ [r] }
  | _ => .next s

/-- VISITED_REQUEST (R251, R331): the owning stack sets the bit and answers the old one. -/
def execVisitedRequest (k : Nat) (s : State) : Res :=
  match s.msgAt k with
  | some (.visited w node pd) =>
    match s.visitDo (s.search (s.walker w).search) node with
    | .bad va => .next (s.walkerMiss w va)
    | .busy => .next s
    | .ok s old =>
      .next { s.ringSend 1 (node.toNat / 2 ^ 29) (s.walker w).stack with
        msgs := s.msgs.eraseIdx k ++ [.reply w none (some (pd, old))] }
  | _ => .next s

/-- WALKER_REPLY_ARRIVAL (R346): the walker goes on with the reply in its registers. -/
def execWalkerReplyArrival (k : Nat) (s : State) : Res :=
  match s.msgAt k with
  | some (.reply w wd pd) =>
    let x := s.walker w
    let x := match wd with | some (i, v) => x.setW i v | none => x
    let x := match pd with | some (i, b) => x.setP i b | none => x
    .next ({ s with msgs := s.msgs.eraseIdx k }.setWalker w { x with waiting := false })
  | _ => .next s

/-! ### Class E -/

/-- A class-E instruction: a core that issues it raises trap 0x01 with sub-code 7 (R81); a walker acts. -/
def walkerRun (xop : Nat) (x : Ext) (act : State → Nat → Walker → State) (s : State) : Res :=
  let e := Enc.ofExt xop x
  s.run (e.op (fun s _ => s)) (e.walk act)

/-- A 64-bit source of walker code. -/
def wsrc (k : Walker) (x : Ext) (f : Src) : Nat := walkSrc k x.lit .int true f

/-- WNODE (R251). -/
def wnode (x : Ext) (size : Nat) (s : State) (id : Nat) (k : Walker) : State :=
  let q := s.search k.search
  let d := x.d.idx.toNat
  let n := wsrc k x x.a % 2 ^ 32
  let put (s : State) (a b c : DWord) : State := s.setWalker id (((k.setW d a).setW (d + 1) b).setW (d + 2) c)
  if 13 < d then s.walkerFault id
  else if n = 0xFFFF_FFFF then put s 0 0 0
  else if n / 2 ^ 29 ≠ k.stack then s.walkerFault id
  else
    match s.bank q.ctx false k.stack ((q.nbase + k.stack * 2 ^ 36 + 64 * (n % 2 ^ 29)) % 2 ^ 64) 64 with
    | (s, .ok bs bad) =>
      if bad.isSome then put (s.setSearch k.search { q with poison := true }) 0 0 0
      else
        let rec_ := bs.map (·.1)
        let s0 := rec_.take 32
        let s1 := rec_.drop 32
        let v0 := field s0 31 0
        let v1 := field s1 31 0
        let ok0 : Bool := v0 ≤ q.snap
        let ok1 : Bool := v1 ≤ q.snap
        let give (b : List Byte) : State :=
          put s (BitVec.ofNat 64 (field b 191 128)) (BitVec.ofNat 64 (field b 127 64))
            (BitVec.ofNat 64 (field b 47 32 + 2 ^ 32 * field b 31 0))
        if ok0 && (!ok1 || v1 ≤ v0) then give s0 else if ok1 then give s1 else put s 0 0 0
    | (s, .busy) => s.walkerAgain id size k
    | (s, .off va) | (s, .fault _ va) => s.walkerMiss id (some va)

def execWnode (x : Ext) (s : State) : Res := walkerRun 0x380 x (wnode x (Enc.ofExt 0x380 x).size) s

/-- WNBR (R251). -/
def wnbr (x : Ext) (size : Nat) (s : State) (id : Nat) (k : Walker) : State :=
  let q := s.search k.search
  let a := wsrc k x x.a
  if a % 4 ≠ 0 then s.walkerFault id
  else
    match s.bank q.ctx false k.stack ((a + 4 * (wsrc k x x.b % 2 ^ 32)) % 2 ^ 64) 4 with
    | (s, .ok bs bad) =>
      s.setWalker id (k.setW x.d.idx.toNat
        (if bad.isSome then 0xFFFF_FFFF else BitVec.ofNat 64 (ofBytes (bs.map (·.1)))))
    | (s, .busy) => s.walkerAgain id size k
    | (s, .off va) | (s, .fault _ va) => s.walkerMiss id (some va)

def execWnbr (x : Ext) (s : State) : Res := walkerRun 0x381 x (wnbr x (Enc.ofExt 0x381 x).size) s

/-- WDIST (R240, R251). -/
def wdist (x : Ext) (size : Nat) (s : State) (id : Nat) (k : Walker) : State :=
  let q := s.search k.search
  let a := wsrc k x x.a
  if a % 64 ≠ 0 || 2048 < a % 2048 + q.vecBytes then s.walkerFault id
  else
    match s.bank q.ctx false k.stack a q.vecBytes with
    | (s, .ok bs bad) =>
      if bad.isSome then
        (s.setSearch k.search { q with poison := true }).setWalker id
          (k.setW x.d.idx.toNat (poisonWord.signExtend 64))
      else
        let v := (nearValue true (q.metric = 1) q.tyCode (bs.map (·.1)) q.query).1
        s.setWalker id (k.setW x.d.idx.toNat (v.signExtend 64))
    | (s, .busy) => s.walkerAgain id size k
    | (s, .off va) | (s, .fault _ va) => s.walkerMiss id (some va)

def execWdist (x : Ext) (s : State) : Res := walkerRun 0x382 x (wdist x (Enc.ofExt 0x382 x).size) s

/-- WHEAP and WKTH: at the heap of the walker's own stack, or by message (R251). -/
def wheapOp (offer : Option (Word × Word)) (wd pk : Nat) (s : State) (id : Nat) (k : Walker) : State :=
  if (s.search k.search).home = k.stack then
    let (s, b, v) := s.heapDo k.search offer
    let k := k.setW wd v
    s.setWalker id (match b with | some b => k.setP pk b | none => k)
  else
    { s.ringSend (if offer.isSome then 2 else 1) k.stack (s.search k.search).home with
      msgs := s.msgs ++ [Msg.heap id offer wd pk] }.setWalker id { k with waiting := true }

def wheap (x : Ext) (s : State) (id : Nat) (k : Walker) : State :=
  wheapOp (some (BitVec.ofNat 32 (wsrc k x x.a), BitVec.ofNat 32 (wsrc k x x.b))) x.d.idx.toNat x.m20 s id k
def execWheap (x : Ext) (s : State) : Res := walkerRun 0x383 x (wheap x) s

def wkth (x : Ext) (s : State) (id : Nat) (k : Walker) : State := wheapOp none x.d.idx.toNat 0 s id k
def execWkth (x : Ext) (s : State) : Res := walkerRun 0x384 x (wkth x) s

/-- WVISIT (R250, R251). The id 0xFFFF_FFFF is taken as one of stack 7. DESIGN CHOICE, log 106. -/
def wvisit (x : Ext) (size : Nat) (s : State) (id : Nat) (k : Walker) : State :=
  let q := s.search k.search
  let n := wsrc k x x.a % 2 ^ 32
  let st := n / 2 ^ 29
  if !q.stacks.contains st || q.vbytes ≤ n % 2 ^ 29 / 8 then s.walkerFault id
  else if st = k.stack then
    match s.visitDo q (BitVec.ofNat 32 n) with
    | .bad va => s.walkerMiss id va
    | .busy => s.walkerAgain id size k
    | .ok s old => s.setWalker id (k.setP x.d.idx.toNat old)
  else
    { s.ringSend 1 k.stack st with msgs := s.msgs ++ [Msg.visited id (BitVec.ofNat 32 n) x.d.idx.toNat] }.setWalker id
      { k with waiting := true }

def execWvisit (x : Ext) (s : State) : Res := walkerRun 0x385 x (wvisit x (Enc.ofExt 0x385 x).size) s

/-- WHOP (R250 to R252). The id 0xFFFF_FFFF is taken as one of stack 7. DESIGN CHOICE, log 106. -/
def whop (x : Ext) (s : State) (id : Nat) (k : Walker) : State :=
  let q := s.search k.search
  let st := wsrc k x x.a % 2 ^ 32 / 2 ^ 29
  if !q.stacks.contains st then s.walkerFault id
  else if q.hopLimit ≤ q.hops then (s.setSearch k.search { q with limited := true }).endWalker id
  else
    let s := s.setSearch k.search { q with hops := q.hops + 1 }
    if st = k.stack then s
    else
      (({ s.ringSend 4 k.stack st with msgs := s.msgs ++ [Msg.hop id st] }).setWalker id { k with travel := true }).serveStop k.stack

def execWhop (x : Ext) (s : State) : Res := walkerRun 0x386 x (whop x) s

/-- WSPAWN (R250 to R252, R346): a walker for the same stack takes a context there at once. The id 0xFFFF_FFFF is taken as one of stack 7; a spawn beyond BEAM and the hop limit at once is
refused by the limit. DESIGN CHOICE, log 106. -/
def wspawn (e : Enc) (x : Ext) (s : State) (id : Nat) (k : Walker) : State :=
  let q := s.search k.search
  let a := wsrc k x x.a
  let st := a % 2 ^ 32 / 2 ^ 29
  let off := offsetOf x
  if !q.stacks.contains st then s.walkerFault id
  else
    let limited := q.hopLimit ≤ q.hops
    if limited || q.beam ≤ q.walkers then
      (s.setSearch k.search { q with limited := q.limited || limited }).setWalker id (k.setP x.m20 false)
    else
      let s := (s.setSearch k.search { q with hops := q.hops + 1, walkers := q.walkers + 1 }).setWalker id
        (k.setP x.m20 true)
      let (w, s) := s.nextId
      let y : Walker :=
        { search := k.search, stack := k.stack, travel := true,
          pc := targetPc (k.pc - BitVec.ofNat 64 e.size) off,
          w := (Tab.set 0 [] 0 (BitVec.ofNat 64 a)).set 0 1 (BitVec.ofNat 64 (wsrc k x x.cSrc)) }
      if st = k.stack then (s.setWalker w y).arriveStop (.spawn w st) st
      else { s.ringSend 4 k.stack st with msgs := s.msgs ++ [Msg.spawn w st] }.setWalker w y

def execWspawn (x : Ext) (s : State) : Res := walkerRun 0x387 x (wspawn (Enc.ofExt 0x387 x) x) s

/-- WEND (R251). -/
def execWend (x : Ext) (s : State) : Res := walkerRun 0x388 x (fun s id _ => s.endWalker id) s

end Sys2Proof.Machine
end

