-- ==== Sys2Proof/Machine/System.lean ====
section
/-! DEFINITION. Class F: traps, special registers, counters, time and sleep (R208, R229 to R232, R365, R373,
R381, R383). -/

namespace Sys2Proof.Machine

/-- A trap that its own instruction raises (R229, R370): masked, the instruction acts as a NOP and the entry
stays in the queue (R371). -/
def ownTrap (cause : Ext → BitVec 8) (lanes : Run → Mask) (info : Ext → Run → DWord) (x : Ext) (s : State)
    (r : Run) : Chk :=
  if (s.group r.gid).masks (cause x) then .ok else .trap (cause x) (lanes r) 0 (info x r)

/-- The masked entry. -/
def ownMasked (cause : Ext → BitVec 8) (lanes : Run → Mask) (info : Ext → Run → DWord) (x : Ext)
    (s : State) (r : Run) : State :=
  s.raise r.gid ⟨cause x, r.sid, r.pc, lanes r, 0, info x r, r.pc⟩

def trapInfo (x : Ext) (r : Run) : DWord := if x.b = Src.zero then 0 else BitVec.ofNat 64 (uniBits x r)

/-- TRAP (R229). -/
def execTrap (x : Ext) (s : State) : Res :=
  s.run { (Enc.ofExt 0x3C0 x).op (ownMasked (fun x => BitVec.ofNat 8 (0x80 + bits 5 0 x.mod))
      (fun r => r.eff) trapInfo x) with
    own := true
    reads := fun g => if x.b = Src.zero then [] else srcKeys g (x.b, true)
    check := ownTrap (fun x => BitVec.ofNat 8 (0x80 + bits 5 0 x.mod)) (fun r => r.eff) trapInfo x } noWalk

/-- BKPT (R229, R379, R380): a debug halt under debug, else trap 0x40. -/
def bkptInfo (x : Ext) (_ : Run) : DWord := BitVec.ofNat 64 (bits 7 0 x.mod)

def execBkpt (x : Ext) (s : State) : Res :=
  let op : Op :=
    { (Enc.ofExt 0x3C6 x).op (ownMasked (fun _ => 0x40) (fun r => r.active) bkptInfo x) with
      own := true
      check := fun s r =>
        if bit 0 (s.ctx (s.group r.gid).ctx).debug then .ok
        else ownTrap (fun _ => 0x40) (fun r => r.active) bkptInfo x s r
      held := fun s r =>
        let c := (s.group r.gid).ctx
        if bit 0 (s.ctx c).debug then some (9, s.haltDebug c (slotOf r.gid)) else none }
  s.run op noWalk

/-! ### Return from a trap -/

/-- The length in bytes of the instruction at an address, from its first word (R86, R230). The spec does not say which copy
of that word counts: the home's is read, as a fetch that misses would find it. DESIGN CHOICE, log 11. -/
def State.lengthAt (s : State) (g : Group) (pc : Nat) : Nat ⊕ (BitVec 8) :=
  match s.translate g.ctx g.super false 2 pc with
  | .ok pa _ _ => .inl (4 * lengthWords (BitVec.ofNat 32 (ofBytes (s.peekBytes pa 4))))
  | .busy => .inl 0
  | .fault c => .inr c

/-- The page of the address that RTT.next reads is being migrated. -/
def State.lengthBusy (s : State) (g : Group) (pc : Nat) : Bool :=
  s.translate g.ctx g.super false 2 pc = .busy

/-- Every lane of a group leaves for good: it retires (R138, R225). -/
def State.exitAll (s : State) (gid : Nat) : State :=
  let g := s.group gid
  s.setGroup gid { g with splits := [], tokens := [], tokSpill := 0, exited := 0xFFFF_FFFF, retiring := true,
                          relay := none }

/-- RETURN FROM A TRAP (R230, R365, R372, R373): split, mask, TRAPMASK and privilege as held at delivery; the
split resumes at TRAPPC, or after the instruction there; the next pending trap is delivered, then come the step traps of
instructions whose waits ended during the handler (R381). A SLEEP it returns to ends when it was to end (R311). -/
def State.returnTrap (next : Bool) (s : State) (r : Run) : Spill :=
  let g := s.group r.gid
  match g.handler with
  | none => .ok s
  | some h =>
    let len : Nat ⊕ (BitVec 8) :=
      if next && !h.parked && g.trapPc.toNat % 4 = 0 then s.lengthAt g g.trapPc.toNat else .inl 0
    match len with
    | .inr c => .ok (s.halt g.ctx c g.trapPc (slotOf r.gid))
    | .inl n =>
      let pc := if h.parked then h.pc else g.trapPc + BitVec.ofNat 64 n
      if pc.toNat % 4 ≠ 0 then .ok (s.halt g.ctx 0xC2 pc (slotOf r.gid))
      else
        let x := g.split h.split
        let sleeps := match h.sleep with
          | some t => if pc = h.pc then g.sleeps.put h.split t else g.sleeps.del h.split
          | none => g.sleeps.del h.split
        let g := { g.clearTrapRegs with trapMask := h.trapmask, super := h.super, sleeps := sleeps }
        if h.cause = 0x30 then .ok ((s.setGroup r.gid g).exitAll r.gid)
        else
          let s := s.setGroup r.gid (g.setSplit h.split
            { x with pc := pc, mask := h.mask &&& g.alive, parked := h.parked, wait := h.wait, due := h.due })
          (s.emptied r.gid h.split).andThen (fun s =>
            .ok ([0, 1, 2, 3].foldl (fun s i => s.raiseDue r.gid i) (s.deliver r.gid)))

/-- RTT (R230). -/
def execRtt (x : Ext) (s : State) : Res :=
  let next : Bool := bit 0 x.mod
  let op : Op :=
    { (Enc.ofExt 0x3C1 x).op (fun s _ => s) with
      held := fun s r =>
        if next && s.lengthBusy (s.group r.gid) (s.group r.gid).trapPc.toNat then some (8, s) else none }
  s.run { op.searching (State.returnTrap next) with
    dyn := fun s gid _ => if (s.group gid).handler.isNone then 9 else 0 } noWalk

/-! ### Masks and special registers -/

/-- TRAPMASK written (R230, R231, R372): clearing a bit is a delivery point. -/
def State.setTrapMask (s : State) (gid : Nat) (m : BitVec 4) : State :=
  let g := s.group gid
  let cleared := g.trapMask &&& ~~~m ≠ 0
  let s := s.setGroup gid { g with trapMask := m }
  if cleared then s.deliver gid else s

/-- TMASK and TUNMASK (R230). -/
def execTmask (x : Ext) (s : State) : Res :=
  s.run { (Enc.ofExt 0x3C2 x).op (fun s r =>
      s.setTrapMask r.gid ((s.group r.gid).trapMask ||| BitVec.ofNat 4 (uniBits x r))) with
    reads := fun g => srcKeys g (x.b, false) } noWalk

def execTunmask (x : Ext) (s : State) : Res :=
  s.run { (Enc.ofExt 0x3C3 x).op (fun s r =>
      s.setTrapMask r.gid ((s.group r.gid).trapMask &&& ~~~(BitVec.ofNat 4 (uniBits x r)))) with
    reads := fun g => srcKeys g (x.b, false) } noWalk

/-- The register number of SRD and SWR. -/
def sregNum (x : Ext) : Nat := bits 7 0 x.mod

/-- The privilege of whoever issues. -/
def State.superNow (s : State) : Bool :=
  match s.who with
  | .split gid _ => (s.group gid).super
  | _ => false

/-- SRD (R231): LANEID into a g register is that of an effective lane that the spec does not name (DESIGN CHOICE, log 5). DESIGN CHOICE, log 61. -/
def srd (x : Ext) (s : State) (r : Run) : State :=
  let n := sregNum x
  let t := targetOf (s.group r.gid) (s.gens r.gid) x.d (sregWide n)
  let l := lanesOf r.eff
  let l := match t with
    | .g _ => [l.getD (Config.freeNat (s.fresh * 2 ^ 16) % l.length) 0]
    | _ => l
  let (id, s') := s.nextId
  (s'.expect r.gid r.sid id t).reply r.gid
    { id := id, split := r.sid, target := t, vals := l.map (fun i => (i, s.sreg r.gid n i)) }

def execSrd (x : Ext) (s : State) : Res :=
  let n := sregNum x
  s.run { (Enc.ofExt 0x3C4 x).varOp (sregWide n) [] (srd x) with
    priv := n = 0x30 && !s.superNow
    held := fun s r => if n = 0x10 && (s.group r.gid).unread s.cycle then some (0, s) else none } noWalk

/-- Registers that a view may write (R231). -/
def sregWritable (super : Bool) (n : Nat) : Bool :=
  n = 0x10 || n = 0x11 || n = 0x12 || n = 0x14 || n = 0x21 || n = 0x25 ||
    (super && (n = 0x13 || n = 0x26 || n = 0x30))

/-- A special register written (R231): a flag of FPFLAGS is cleared by a 0 and not set by a 1 (R14, R99); reserved bits stay
zero; TRAPPC exists inside a handler only. DEDUCED, log 47. -/
def State.writeSreg (s : State) (gid n : Nat) (v : DWord) : State :=
  let g := s.group gid
  let w : Word := v.setWidth 32
  match n with
  | 0x10 => s.setGroup gid { g with fpflags := g.fpflags &&& w }
  | 0x11 => s.setGroup gid { g with fpmode := w &&& 1 }
  | 0x12 => s.setGroup gid { g with stallchk := w &&& 1 }
  | 0x13 => s.setGroup gid { g with cancelled := w &&& 1 }
  | 0x14 => s.setGroup gid { g with stepen := w &&& 1 }
  | 0x21 => if g.handler.isSome then s.setGroup gid { g with trapPc := v } else s
  | 0x25 => s.setTrapMask gid (v.setWidth 4)
  | 0x26 => s.setCtx g.ctx { s.ctx g.ctx with trapvec := v }
  | 0x30 => s.setGroup gid { g with dbgfocus := w }
  | _ => s

/-- SWR (R231): a group register is written from the lowest effective lane. -/
def swr (x : Ext) (s : State) (r : Run) : State :=
  let n := sregNum x
  s.writeSreg r.gid n
    (BitVec.ofNat 64 (readSrc r.g r.lanes r.lit .bits (sregWide n) x.a (lowLane r.eff)))

def execSwr (x : Ext) (s : State) : Res :=
  let n := sregNum x
  s.run { (Enc.ofExt 0x3C5 x).op (swr x) with
    priv := !sregWritable s.superNow n
    reads := fun g => srcKeys g (x.a, sregWide n) } noWalk

/-! ### Counters, time, sleep -/

/-- A base-die counter summed over the four stacks of a core's die (R383). -/
def State.baseDieSum (s : State) (gid k : Nat) : Nat :=
  let die := coreOf gid / 64
  ([0, 1, 2, 3].foldl (fun n i => n + s.baseDie.get 0 ((die * 4 + i) * 8 + k)) 0) % 2 ^ 64

/-- The counter a selector names (R232, R309, R310, R382, R383). -/
def State.counter (s : State) (gid sel : Nat) : Nat :=
  let g := s.group gid
  if sel = 0 then (s.cycle - g.since) % 2 ^ 64
  else if sel = 1 then g.issued % 2 ^ 64
  else if 0x10 ≤ sel && sel ≤ 0x18 then g.stalls.get 0 (sel - 0x10) % 2 ^ 64
  else if sel = 0x22 then (s.cycle - (s.core (coreOf gid)).counters.get 0 2) % 2 ^ 64
  else if (0x20 ≤ sel && sel < 0x22) || (0x28 ≤ sel && sel ≤ 0x2A) then
    (s.core (coreOf gid)).counters.get 0 (sel - 0x20) % 2 ^ 64
  else if 0x40 ≤ sel && sel ≤ 0x47 then s.baseDieSum gid (sel - 0x40)
  else 0

/-- PFRD's selector, and trap 0x02 for the base-die counters at U level (R232). -/
def pfrdSel (x : Ext) (r : Run) : Nat := uniBits x r % 256

def execPfrd (x : Ext) (s : State) : Res :=
  s.run { (Enc.ofExt 0x3C7 x).varOp true [(x.b, false)] (fun s r =>
      s.replyNow r (targetOf (s.group r.gid) (s.gens r.gid) x.d true)
        (BitVec.ofNat 64 (s.counter r.gid (pfrdSel x r)))) with
    check := fun s r =>
      let n := pfrdSel x r
      if 0x40 ≤ n && n ≤ 0x47 && !(s.group r.gid).super then .trap 0x02 r.active 0 0 else .ok } noWalk

/-- TIME (R232). -/
def execTime (x : Ext) (s : State) : Res :=
  s.run ((Enc.ofExt 0x3C8 x).varOp true [] (fun s r =>
    s.replyNow r (targetOf (s.group r.gid) (s.gens r.gid) x.d true) (BitVec.ofNat 64 s.time))) noWalk

/-- SLEEP's first issue records when it ends; an anew issue waits until that time (R232, R311). -/
def sleepHeld (x : Ext) (s : State) (r : Run) : Option (Nat × State) :=
  let g := s.group r.gid
  match g.sleeps.look r.sid with
  | some t =>
    if t ≤ s.time then none else some (9, s.park r .sleep (r.pend .none))
  | none =>
    let n := uniB32 x r
    if n = 0 then none
    else
      let s := s.setGroup r.gid { g with sleeps := g.sleeps.put r.sid (s.time + n) }
      some (9, s.park r .sleep (r.pend .none))

/-- SLEEP's end. -/
def State.wake (s : State) (r : Run) : State :=
  let g := s.group r.gid
  s.setGroup r.gid { g with sleeps := g.sleeps.del r.sid }

def execSleep (x : Ext) (s : State) : Res :=
  s.run { (Enc.ofExt 0x3C9 x).op State.wake with
    reads := fun g => srcKeys g (x.b, false)
    held := sleepHeld x } noWalk

/-- SLEEP_END (R232): the recorded time has come. -/
def execSleepEnd (gid sid : Nat) (s : State) : Res :=
  let g := s.group gid
  let x := g.split sid
  match x.pend, g.sleeps.look sid with
  | some p, some t =>
    if x.wait = .sleep && t ≤ s.time && (s.mayStart g.ctx || s.steps gid) then .next (s.serve gid sid p false false State.wake) else .next s
  | _, _ => .next s

end Sys2Proof.Machine
end

