-- ==== Sys2Proof/Machine/Fit.lean ====
section
/-! DEFINITION. What fits where (R275, R276, R319, R320), kernel descriptors (R75), handing rows to a group (R269),
starting a workgroup (R77, R253, R257, R302). -/

namespace Sys2Proof.Machine

/-! ### Kernel descriptors (R75) -/

def dEntry (b : List Byte) : Nat := field b 63 0
def dRows (b : List Byte) : Nat := field b 111 96
def dNgrp (b : List Byte) : Nat := field b 119 112
def dSgran (b : List Byte) : Nat := field b 127 120
def dAccm (b : List Byte) : BitVec 4 := BitVec.ofNat 4 (field b 131 128)
def dTilem (b : List Byte) : BitVec 8 := BitVec.ofNat 8 (field b 143 136)
def dIdem (b : List Byte) : Bool := field b 144 144 = 1
def dRoles (b : List Byte) : Nat := field b 191 160
def dSpill (b : List Byte) : Nat := field b 223 192

/-- The distributor refuses a descriptor (R75). -/
def dBad (b : List Byte) : Bool :=
  field b 159 152 ≠ 1 || field b 511 224 ≠ 0 || field b 151 145 ≠ 0 || field b 135 132 ≠ 0 ||
  field b 95 64 ≠ 0 ||
  dRows b % 8 ≠ 0 || dRows b < 8 || 1024 < dRows b || dNgrp b < 1 || 16 < dNgrp b || 16 < dSgran b ||
  (List.range 16).any (fun g =>
    let r := dRoles b / 2 ^ (2 * g) % 4
    if g < dNgrp b then r = 3 else r ≠ 0) ||
  4096 < dSpill b || dEntry b % 4 ≠ 0

/-! ### Room on a core (R320) -/

/-- What a core has free: resident workgroups, granules, tiles and accumulators held, rows and group places per
slot; and the groups resident on each. -/
structure Room where
  wgs : Nat := 0
  gran : Nat := 16
  tiles : BitVec 8 := 0
  accs : BitVec 4 := 0
  rows : List Nat := [1024, 1024, 1024, 1024]
  places : List Nat := [16, 16, 16, 16]
  groups : List Nat := [0, 0, 0, 0]
deriving DecidableEq, Repr

/-- What a workgroup asks for: rows of its groups by index (none for a group that has retired), granules, tiles,
accumulators; `absent`: groups that only a relay commit will start, and that are not resident (R226). -/
structure Need where
  rows : List (Option Nat)
  gran : Nat
  tiles : BitVec 8
  accs : BitVec 4
  absent : List Nat := []
deriving DecidableEq, Repr

/-- A descriptor's needs. -/
def dNeed (b : List Byte) : Need :=
  { rows := List.replicate (dNgrp b) (some (dRows b)), gran := dSgran b, tiles := dTilem b, accs := dAccm b }

/-- Rows and places that groups take on slot k from base slot b. -/
def Need.onSlot (n : Need) (b k : Nat) : Nat × Nat :=
  ((List.range n.rows.length).zip n.rows).foldl (fun t e =>
    match e.2 with
    | some r => if (b + e.1) % 4 = k then (t.1 + r, t.2 + 1) else t
    | none => t) (0, 0)

/-- Groups that come to be resident on slot k from base slot b. -/
def Need.comes (n : Need) (b k : Nat) : Nat :=
  (n.onSlot b k).2 - (n.absent.filter (fun i => (b + i) % 4 = k)).length

/-- The workgroup fits at a base slot. -/
def Room.fitsAt (m : Room) (n : Need) (b : Nat) : Bool :=
  n.gran ≤ m.gran && m.tiles &&& n.tiles = 0 && m.accs &&& n.accs = 0 &&
  [0, 1, 2, 3].all (fun k =>
    let (r, p) := n.onSlot b k
    r ≤ m.rows.getD k 0 && p ≤ m.places.getD k 0)

/-- The room left after it is placed there. -/
def Room.take (m : Room) (n : Need) (b : Nat) : Room :=
  { wgs := m.wgs + 1, gran := m.gran - n.gran, tiles := m.tiles ||| n.tiles, accs := m.accs ||| n.accs,
    rows := [0, 1, 2, 3].map (fun k => m.rows.getD k 0 - (n.onSlot b k).1),
    places := [0, 1, 2, 3].map (fun k => m.places.getD k 0 - (n.onSlot b k).2),
    groups := [0, 1, 2, 3].map (fun k => m.groups.getD k 0 + n.comes b k) }

/-- Resident groups of the most-loaded slot. -/
def Room.load (m : Room) : Nat := m.groups.foldl max 0

/-- The base slot R320 chooses: fewest groups on the most-loaded slot, the lowest on a tie. -/
def Room.base (m : Room) (n : Need) : Option Nat :=
  let better (best : Option Nat) (b : Nat) : Option Nat :=
    if !m.fitsAt n b then best
    else
      match best with
      | none => some b
      | some a => if (m.take n b).load < (m.take n a).load then some b else best
  [0, 1, 2, 3].foldl better none

/-- What a resident workgroup holds, or asks for at a relay commit (R226). -/
def State.needOf (s : State) (wi : Nat) : Need :=
  let w := s.wg wi
  let alloc (g : Nat) : Option Nat :=
    ((w.groups[g]?).bind (fun i =>
      let x := s.group i
      if x.live && x.wg = wi then some x.alloc else none))
  let own : Need :=
    { rows := (List.range w.ngrp).map alloc, gran := w.sgran, tiles := w.tilem, accs := w.accm }
  match w.want with
  | none => own
  | some (r, gr, t, a) =>
    { rows := own.rows.map (fun x => some (max r (x.getD 0))), gran := max own.gran gr, tiles := own.tiles ||| t,
      accs := own.accs ||| a, absent := (List.range w.ngrp).filter (fun i => (alloc i).isNone) }

/-- The room of a core; one workgroup may be left out of the count. -/
def State.room (s : State) (core : Nat) (skip : Option Nat) : Room :=
  (s.wgs.filter (fun e => e.2.core = core && some e.1 ≠ skip)).foldl
    (fun m e => m.take (s.needOf e.1) e.2.base) {}

/-- Cores of a context's partition (R393). -/
def State.partition (s : State) (ctx : Nat) : List Nat :=
  (List.range 128).filter (fun c => (s.cluster (c / 4)).owner = BitVec.ofNat 8 (128 + ctx))

/-- The cores with the fewest resident workgroups among those where a workgroup fits, with the base slots. -/
def bestCores (rooms : List (Nat × Room)) (n : Need) : List (Nat × Nat) :=
  let fits := rooms.filterMap (fun e => (e.2.base n).map (fun b => (e.1, e.2.wgs, b)))
  let least := fits.foldl (fun m e => min m e.2.1) 100000
  (fits.filter (fun e => e.2.1 = least)).map (fun e => (e.1, e.2.2))

/-- Several workgroups placed in one action: core and base slot of each (R275). -/
def placeAll : List (Nat × Room) → List Need → Option (List (Nat × Nat))
  | _, [] => some []
  | rooms, n :: ns =>
    match bestCores rooms n with
    | [] => none
    | (c, b) :: _ =>
      let rooms := rooms.map (fun e => if e.1 = c then (c, e.2.take n b) else e)
      (placeAll rooms ns).map (fun l => (c, b) :: l)

/-- Rooms of a context's partition as they are, and empty. -/
def State.rooms (s : State) (ctx : Nat) : List (Nat × Room) :=
  (s.partition ctx).map (fun c => (c, s.room c none))
def State.emptyRooms (s : State) (ctx : Nat) : List (Nat × Room) := (s.partition ctx).map (fun c => (c, {}))

/-- The test of R276: more workgroups than the empty partition holds at once. -/
def State.notResidable (s : State) (ctx n : Nat) (need : Need) : Bool :=
  64 * (s.partition ctx).length < n || (placeAll (s.emptyRooms ctx) (List.replicate n need)).isNone

/-! ### Handing rows over -/

/-- The lowest free resident index of a slot (R257). -/
def State.freeIndex (s : State) (slot : Nat) : Option Nat :=
  (List.range 16).find? (fun i => !(s.group (slot * 16 + i)).live)

/-- n rows of a slot taken together, with a new generation; none when rows or generations are short (R269). -/
def State.takeRows (s : State) (slot n : Nat) : Option (State × List Nat) :=
  let rows := (s.pool slot).take n
  if rows.length < n then none
  else (s.newGen slot rows).map (fun k => (s.setSlot slot ((s.slot slot).setGens rows k), rows))

/-- A resident group put at the lowest free index of a slot, with its rows: the state and its number. -/
def State.putGroup (s : State) (core b idx : Nat) (rows : Nat) (g : Group) : Option (State × Nat) :=
  let slot := core * 4 + (b + idx) % 4
  match s.freeIndex slot, s.takeRows slot rows with
  | some i, some (s, phys) =>
    let gid := slot * 16 + i
    some (s.setGroup gid { g with live := true, idx := idx, phys := phys, since := s.cycle }, gid)
  | _, _ => none

/-! ### Starting a workgroup -/

/-- A group at its first instruction (R77, R253): g0 holds ARGS; every other register is zero. -/
def Launch.group (x : Launch) (wi now : Nat) : Group :=
  { live := true, ctx := x.ctx, wg := wi, prio := x.prio, super := x.super,
    g := Tab.set 0 [] 0 x.args, splits := [(0, { live := true, pc := BitVec.ofNat 64 (dEntry x.descBytes),
                                                 mask := 0xFFFF_FFFF, readyAt := now, last := now })],
    winSize := dRows x.descBytes, rtop := dRows x.descBytes, shape := x.shape, bucket := x.bucket }

/-- A place for a workgroup's spill areas, which the supervisor chooses (R265; DESIGN CHOICE, log 13): open. -/
def State.openArea (s : State) : DWord :=
  ((Config.freeWord (s.fresh * 2 ^ 16 + 1) ++ Config.freeWord (s.fresh * 2 ^ 16 + 2)) &&& 0x00FF_FFFF_FFFF_F000)

/-- The workgroup a launch starts (R257, R302). -/
def Launch.workgroup (x : Launch) (l core b wgid now : Nat) (area : DWord) : Workgroup :=
  let d := x.descBytes
  { ctx := x.ctx, launch := l, core := core, base := b, wgid := wgid, entry := BitVec.ofNat 64 (dEntry d),
    rowsPer := dRows d, ngrp := dNgrp d, sgran := dSgran d, accm := dAccm d, tilem := dTilem d,
    idem := x.idem, roles := BitVec.ofNat 32 (dRoles d), spill := dSpill d, spillBase := area, started := now }

/-- Groups put one after another: index, rows, state of each. -/
def State.putGroups (core b : Nat) : List (Nat × Nat × Group) → State → Option (State × List (Nat × Nat))
  | [], s => some (s, [])
  | (idx, rows, g) :: l, s =>
    match s.putGroup core b idx rows g with
    | none => none
    | some (s, gid) => (State.putGroups core b l s).map (fun r => (r.1, (idx, gid) :: r.2))

/-- A workgroup placed on a core (R257, R316): its L1 drops every clean line. DEDUCED, log 73. -/
def State.startWorkgroup (s : State) (l core b wgid : Nat) : Option State :=
  let x := s.launch l
  let (wi, s) := s.nextId
  let w := x.workgroup l core b wgid s.time s.openArea
  let gs := (List.range w.ngrp).map (fun i => (i, w.rowsPer, x.group wi s.cycle))
  match State.putGroups core b gs s with
  | none => none
  | some (t, ids) =>
    let t := (t.setWg wi { w with groups := ids.map (·.2) }).l1InvalidateClean core
    some { t with fresh := t.fresh + 1 }

end Sys2Proof.Machine
end

