-- ==== Sys2Proof/Machine/Fabric.lean ====
section
/-! DEFINITION. The fabric's arbitration, weights, congestion level and the throttle (R273, R294 to R300). -/

namespace Sys2Proof.Machine

/-- A port's weight of a channel (R299). -/
def FabricPort.weight (f : FabricPort) (c : Nat) : Nat := f.weights.toNat / 16 ^ c % 16

/-- Free flits of a channel's buffer at the receiving end (R296). -/
def FabricPort.space (f : FabricPort) (c : Nat) : Nat := f.room.get 16 c

/-- A packet that waits at another output of the switch stands before one of the same input and channel (R297). -/
def State.olderAt (s : State) (port : Nat) (p : Packet) : Bool :=
  (sameSwitch port).any (fun q =>
    (s.fabric q).packets.any (fun x => x.input = p.input && x.chan = p.chan && decide (x.order < p.order)))

/-- The eligible packets: the oldest of their channel at their input, and fitting (R297). -/
def State.eligible (s : State) (port : Nat) : List Packet :=
  let f := s.fabric port
  f.packets.filter (fun p => !s.olderAt port p && p.flits ≤ f.space p.chan)

/-- The earliest promoted packet, the lower channel on a tie. -/
def firstPromoted : List Packet → Option Packet
  | [] => none
  | p :: ps =>
    match p.promoted, firstPromoted ps with
    | none, r => r
    | some _, none => some p
    | some a, some q =>
      let b := q.promoted.getD 0
      if a < b || (a = b && p.chan ≤ q.chan) then some p else some q

/-- The weights an injection port takes at the start of a round: its partition's context's; other ports the reset
weights (R299). Ports 0 to 31 are the clusters' injection ports. -/
def State.portWeights (s : State) (port : Nat) : Word :=
  let o := (s.cluster port).owner.toNat
  if port < 32 && 128 ≤ o then (s.ctx (o - 128)).weights else 0x1224

/-- The channel that weighted round-robin serves next; a new round takes the weights (R297, R299). -/
def FabricPort.serve (f : FabricPort) (w : Word) (ready : Nat → Bool) : Nat → FabricPort
  | 0 => f
  | k + 1 =>
    if f.granted < f.weight f.chan && ready f.chan then f
    else if f.chan = 3 then { f with chan := 0, granted := 0, weights := w }.serve w ready k
    else { f with chan := f.chan + 1, granted := 0 }.serve w ready k

/-- The packet of a channel whose input comes next in turn. -/
def FabricPort.byInput (f : FabricPort) (l : List Packet) : Option Packet :=
  match l with
  | [] => none
  | p :: ps =>
    let c := p.chan
    let next := f.inputs.get 0 c
    let dist (q : Packet) : Nat := if next ≤ q.input then q.input - next else q.input + 2 ^ 32 - next
    some (ps.foldl (fun b q => if dist q < dist b then q else b) p)

/-- The choice of R297 among the eligible packets: the port after moving through its round, and the packet. -/
def FabricPort.choose (f : FabricPort) (w : Word) (l : List Packet) : FabricPort × Option Packet :=
  let on (c : Nat) : List Packet := l.filter (fun p => p.chan = c)
  match firstPromoted l with
  | some p => (f, some p)
  | none =>
    let f' := f.serve w (fun c => !(on c).isEmpty) 9
    if f'.granted < f'.weight f'.chan && !(on f'.chan).isEmpty then
      ({ f' with granted := f'.granted + 1 }, f'.byInput (on f'.chan))
    else
      match [0, 1, 2, 3].find? (fun c => !(on c).isEmpty) with
      | some c => (f', f'.byInput (on c))
      | none => (f, none)

/-- The packets that stay when one is granted: the other eligible ones have lost an arbitration (R298). -/
def FabricPort.after (f : FabricPort) (l : List Packet) (p : Packet) : List Packet :=
  (f.packets.erase p).map (fun q => if l.contains q then { q with lost := q.lost + 1 } else q)

/-- A packet granted among the eligible ones: it leaves; the others have lost an arbitration (R298). -/
def FabricPort.grant (f : FabricPort) (l : List Packet) (p : Packet) : FabricPort :=
  { f with
    packets := f.after l p, sent := { p with lost := 0, promoted := none } :: f.sent.take 63,
    inputs := f.inputs.set 0 p.chan (p.input + 1), room := f.room.set 16 p.chan (f.space p.chan - p.flits),
    stamp := f.stamp + 1 }

/-- Flits of a channel leave the buffer beyond a port (R296). -/
def State.drainPort (s : State) (port chan flits : Nat) : State :=
  let f := s.fabric port
  s.setFabric port { f with room := f.room.set 16 chan (min 16 (f.space chan + flits)) }

/-- Flits of a channel that came by a port's link and wait at the next ports. -/
def State.beyond (s : State) (port chan : Nat) : Nat :=
  s.ports.foldl (fun n e =>
    e.2.packets.foldl (fun n p => if p.input = port && p.chan = chan then n + p.flits else n) n) 0

/-- The agent at the end of a link takes flits of a channel out of its buffer: those that do not wait there to go on
(R296). -/
def State.takeFlits (s : State) (port chan flits : Nat) : State :=
  let here := 16 - (s.fabric port).space chan
  s.drainPort port chan (min flits (here - s.beyond port chan))

/-- A granted packet goes on: it frees the buffer of the link it came by and starts from zero at the next port; at a slice
it is answered (R295, R296, R298). -/
def State.forward (s : State) (port : Nat) (p : Packet) : State :=
  let s := if p.input < 1000 then s.drainPort p.input p.chan p.flits else s
  match p.route with
  | next :: rest => s.joinPort next { p with input := port, route := rest }
  | [] =>
    match p.cargo.answer with
    | some x => s.post x p.cluster p.slice 0 (pathDown p.cluster p.slice)
    | none => s

/-- A packet that has lost 64 arbitrations and is not promoted (R298). -/
def Packet.due (p : Packet) : Bool := 64 ≤ p.lost && p.promoted.isNone

/-- FABRIC_GRANT (R297): once every packet due for promotion is promoted. -/
def execFabricGrant (port : Nat) (s : State) : Res :=
  let f := s.fabric port
  if f.packets.any Packet.due then .next s
  else
    let l := s.eligible port
    match f.choose (s.portWeights port) l with
    | (_, none) => .next s
    | (f, some p) => .next (((s.setFabric port (f.grant l p)).forward port p).refill port)

/-- What the fabric does next (R298): a due packet is promoted; a port with an eligible packet grants; an agent takes what
has reached it. Answers an event of a port, or the port and channel whose buffer is emptied. -/
inductive FabricWork where
  | promote (port input chan : Nat)
  | grant (port : Nat)
  | take (port chan : Nat)
deriving DecidableEq, Repr

def State.fabricWork (s : State) : Option FabricWork :=
  let promote := s.ports.findSome? (fun e =>
    (e.2.packets.find? Packet.due).map (fun p => FabricWork.promote e.1 p.input p.chan))
  let grant := (s.ports.find? (fun e => !(s.eligible e.1).isEmpty)).map (fun e => FabricWork.grant e.1)
  let take := s.ports.findSome? (fun e =>
    ([0, 1, 2, 3].find? (fun c => decide (s.beyond e.1 c < 16 - e.2.space c))).map (FabricWork.take e.1))
  promote <|> grant <|> take

/-- PACKET_PROMOTION (R298): packets that reach 64 in one arbitration are promoted alike. -/
def execPacketPromotion (port input chan : Nat) (s : State) : Res :=
  let f := s.fabric port
  let up (p : Packet) : Packet :=
    if p.due && p.input = input && p.chan = chan then { p with promoted := some f.stamp } else p
  if f.packets.any (fun p => p.due && p.input = input && p.chan = chan) then
    .next (s.setFabric port { f with packets := f.packets.map up })
  else .next s

/-- One sample of a congestion monitor (R300): the flits waiting in the cluster's injection port on channels 0 and 1,
which hold 32. -/
def State.sampleFlits (s : State) (cl : Nat) : State :=
  let c := s.cluster cl
  let n := s.waitingFlits cl 0 + s.waitingFlits cl 1
  if c.samples < 256 && cl < 32 then s.setCluster cl { c with sum := c.sum + n, samples := c.samples + 1 } else s

/-- The target level of a sum of 256 samples (R300). -/
def targetLevel (sum : Nat) : Nat :=
  let full := 256 * 32
  if 4 * sum < full then 0
  else if 2 * sum < full then 1
  else if 4 * sum < 3 * full then 2
  else if 10 * sum < 9 * full then 3 else 4

/-- The slots of a cluster read a new level (R273, R300). -/
def State.setLevel (s : State) (cl level : Nat) : State :=
  let s := s.setCluster cl { s.cluster cl with level := level, sum := 0, samples := 0 }
  (List.range 16).foldl (fun s i =>
    let k := cl * 16 + i
    let sl := s.slot k
    if sl.rotation.isEmpty then s
    else s.setSlot k { sl with rotation := stampRotation (throttleLimit level) s.cycle sl.rotation }) s

/-- CONGESTION_INTERVAL (R300): after 256 samples the level rises to the target at once, or falls by one. -/
def execCongestionInterval (cluster : Nat) (s : State) : Res :=
  let c := s.cluster cluster
  if c.samples < 256 || 32 ≤ cluster then .next s
  else
    let t := targetLevel c.sum
    .next (s.setLevel cluster (if c.level ≤ t then t else c.level - 1))

/-- An entry of a rotation list has held permission for 64 cycles at a cycle (R273). -/
def rotationDue (now : Nat) (e : Nat × Nat) : Bool := e.2 ≠ 0 && e.2 + 64 ≤ now + 1

/-- A group whose rotation is due at a cycle. -/
def State.rotationBy (s : State) (now : Nat) : Option Nat :=
  s.slots.findSome? (fun k => (k.2.rotation.find? (rotationDue now)).map (·.1))

/-- THROTTLE_ROTATION (R273): a group that has held permission for 64 cycles moves to the back. -/
def execThrottleRotation (gid : Nat) (s : State) : Res :=
  let k := slotOf gid
  let sl := s.slot k
  match sl.rotation.find? (fun e => e.1 = gid) with
  | none => .next s
  | some e =>
    if !rotationDue s.cycle e then .next s
    else
      let l := sl.rotation.filter (fun x => x.1 ≠ gid) ++ [(gid, 0)]
      .next (s.setSlot k { sl with rotation := stampRotation (s.slotLimit k) s.cycle l })

end Sys2Proof.Machine
end

