-- ==== Sys2Proof/Machine/Launch.lean ====
section
/-! DEFINITION. Manifests, intake, placement, completion, cancel and relays (R224 to R226, R275, R276, R313 to R326,
R400). -/

namespace Sys2Proof.Machine

/-! ### Manifests (R313, R314) -/

def mDesc (m : List Byte) : Nat := field m 319 256
def mArgs (m : List Byte) : Nat := field m 383 320
def mDtab (m : List Byte) : Nat := field m 447 384
def mMuster (m : List Byte) : Nat := field m 511 448
def mDims (m : List Byte) : List Nat := [field m 543 512, field m 575 544, field m 607 576]
def mShape (m : List Byte) (i : Nat) : Nat := field m (608 + 32 * i + 31) (608 + 32 * i)
def mLcid (m : List Byte) : Word := BitVec.ofNat 32 (field m 767 736)
def mGcid (m : List Byte) : Word := BitVec.ofNat 32 (field m 799 768)
def mJcid (m : List Byte) : Word := BitVec.ofNat 32 (field m 831 800)
def mPred (m : List Byte) (i : Nat) : Nat := field m (832 + 32 * i + 31) (832 + 32 * i)
def mPrio (m : List Byte) : Nat := field m 961 960
def mAllres (m : List Byte) : Bool := field m 962 962 = 1
def mIdem (m : List Byte) : Bool := field m 963 963 = 1
def mRelay (m : List Byte) : Bool := field m 964 964 = 1
def mGend (m : List Byte) : Bool := field m 965 965 = 1
def mJend (m : List Byte) : Bool := field m 966 966 = 1
def mDep (m : List Byte) : Nat := field m 970 968
def mDtn (m : List Byte) : Nat := field m 975 972
def mLevel (m : List Byte) : Nat := field m 977 976
def mWgn (m : List Byte) : Nat := field m 991 984

/-- Workgroups of a grid. -/
def gridOf (dims : List Nat) : Nat := dims.foldl (· * ·) 1

/-- The manifest itself breaks a rule of R314 (what needs no other memory). -/
def mBad (m : List Byte) : Bool :=
  field m 999 992 ≠ 1 || field m 1023 1000 ≠ 0 || field m 983 978 ≠ 0 || field m 971 971 ≠ 0 ||
  field m 967 967 ≠ 0 || mLevel m = 3 || 4 < mDep m ||
  (List.range 4).any (fun i => mDep m ≤ i && mPred m i ≠ 0) ||
  8 < mDtn m || (mDtn m = 0) != (mDtab m = 0) || mDesc m % 64 ≠ 0 || mDtab m % 64 ≠ 0 || mMuster m % 32 ≠ 0

/-- Dispatch-table entry e matches the shape values (R318). -/
def entryMatches (e m : List Byte) : Bool :=
  (List.range 4).all (fun i =>
    let lo := field e (64 * i + 31) (64 * i)
    let hi := field e (64 * i + 63) (64 * i + 32)
    decide (lo ≤ mShape m i) && decide (mShape m i ≤ hi))

/-- The bucket registers without a chosen entry (R318). -/
def noBucket : Tab DWord := (List.range 4).map (fun i => (i, (0xFFFF_FFFF_0000_0000 : DWord)))

/-- What a read on a context's behalf met. -/
inductive Fetch (α : Type) where
  | ok (a : α)
  | busy
  | fault (cause : BitVec 8) (va : Nat)

/-- Bytes the distributor reads at the home slices (R26, R316); poisoned bytes are open (DESIGN CHOICE, log 5). -/
def State.distRead (s : State) (ctx : Nat) (super : Bool) (va n : Nat) : State × Fetch (List Byte) :=
  match s.getBytes (sectorsOf va n) { core := 0, ctx := ctx, super := super, wg := 0, ctl := true } ⟨0, va⟩ n with
  | (s, .ok bs, _) => ({ s with fresh := s.fresh + 1 }, .ok (openBytes (s.fresh * 2 ^ 16) bs))
  | (s, .busy, _) => (s, .busy)
  | (s, .fault c a, _) => (s, .fault c a)

/-- A manifest with the descriptor and grid it will run and its status code: 0 taken, 2, 5 refused. -/
structure Checked where
  launch : Launch
  code : Nat
  dep : List Nat
deriving DecidableEq, Repr

/-- The launch a manifest names, before descriptor and table are read. -/
def mLaunch (m : List Byte) (ctx : Nat) (super : Bool) : Launch :=
  { ctx := ctx, super := super, prio := mPrio m, placePrio := mPrio m, allres := mAllres m,
    args := BitVec.ofNat 64 (mArgs m), desc := mDesc m, dims := mDims m, grid := gridOf (mDims m),
    lcid := mLcid m, gcid := mGcid m, jcid := mJcid m, gend := mGend m, jend := mJend m, mlevel := mLevel m,
    muster := if mMuster m % 32 = 0 then BitVec.ofNat 64 (mMuster m) else 0,
    shape := (List.range 4).map (fun i => (i, BitVec.ofNat 32 (mShape m i))), bucket := noBucket }

/-- The descriptor and grid of the chosen dispatch-table entry (R318); none when a reserved bit is set. -/
def mChoose (m table : List Byte) (x : Launch) : Option Launch :=
  let es := (List.range (mDtn m)).map (fun i => (table.drop (64 * i)).take 64)
  if es.any (fun e => field e 511 416 ≠ 0) then none
  else
    match es.find? (fun e => entryMatches e m) with
    | none => some x
    | some e =>
      let dims := [field e 351 320, field e 383 352, field e 415 384]
      some { x with desc := field e 319 256, dims := dims, grid := gridOf dims,
                    bucket := (List.range 4).map (fun i => (i, BitVec.ofNat 64 (field e (64 * i + 63) (64 * i)))) }

/-- The descriptor read and checked with the manifest (R75, R314). -/
def State.checkDesc (s : State) (m : List Byte) (x : Launch) (dep : List Nat) : State × Fetch Checked :=
  let bad : Checked := ⟨x, 5, dep⟩
  if 2 ^ 32 - 1 < x.grid || x.desc % 64 ≠ 0 then (s, .ok bad)
  else
    match s.distRead x.ctx x.super x.desc 64 with
    | (s, .busy) => (s, .busy)
    | (s, .fault c a) => (s, .fault c a)
    | (s, .ok d) =>
      let x := { x with descBytes := d, idem := mIdem m && dIdem d }
      if dBad d || (mWgn m ≠ 0 && mWgn m ≠ dNgrp d) then (s, .ok ⟨x, 5, dep⟩) else (s, .ok ⟨x, 0, dep⟩)

/-- A manifest checked in full, but for its ids (R314, R318). -/
def State.checkManifest (s : State) (ctx : Nat) (super : Bool) (m : List Byte) : State × Fetch Checked :=
  let x := mLaunch m ctx super
  let dep := (List.range (min 4 (mDep m))).map (mPred m)
  if mBad m then (s, .ok ⟨x, 5, dep⟩)
  else if mDtn m = 0 then s.checkDesc m x dep
  else
    match s.distRead ctx super (mDtab m) (64 * mDtn m) with
    | (s, .busy) => (s, .busy)
    | (s, .fault c a) => (s, .fault c a)
    | (s, .ok t) =>
      match mChoose m t x with
      | none => (s, .ok ⟨x, 5, dep⟩)
      | some x => s.checkDesc m x dep

/-! ### Counters (R321) -/

/-- A launch added to the counter of a level it names, which comes alive if it was not. -/
def Context.enroll (c : Context) (l : Nat) (x : Launch) (level : Nat) (id : Word) (closes : Bool) : Context :=
  let mine := if x.mlevel = level && x.muster ≠ 0 then [x.muster] else []
  let job : Word := if level = 2 then 0 else x.jcid
  if c.counters.any (fun k => k.level = level && k.id = id) && id ≠ 0 then
    let add (k : Counter) : Counter :=
      if k.level = level && k.id = id then
        { k with expect := k.expect + x.grid, ended := k.ended || closes, musters := k.musters ++ mine,
                 job := if k.job = 0 then job else k.job, launches := k.launches ++ [l] }
      else k
    { c with counters := c.counters.map add }
  else
    { c with counters := c.counters ++ [{ level := level, id := id, ctx := x.ctx, expect := x.grid, ended := closes,
                                          musters := mine, job := job, launches := [l] }] }

/-- A launch enrolled at its levels; `own`: its launch counter comes alive. -/
def Context.enrollAll (c : Context) (l : Nat) (x : Launch) (own : Bool) : Context :=
  let c := if own then c.enroll l x 0 x.lcid true else c
  let c := if x.gcid = 0 then c else c.enroll l x 1 x.gcid x.gend
  if x.jcid = 0 then c else c.enroll l x 2 x.jcid x.jend

/-- Counters a manifest would bring alive. -/
def Context.newCounters (c : Context) (x : Launch) : Nat :=
  1 + (if x.gcid ≠ 0 && (c.counter 1 x.gcid).isNone then 1 else 0) +
    (if x.jcid ≠ 0 && (c.counter 2 x.jcid).isNone then 1 else 0)

/-- A level is complete when it is closed and no launch naming it is left (R321). DESIGN CHOICE, log 52. -/
def State.levelDone (s : State) (k : Counter) : Bool :=
  k.ended && k.launches.all (fun l => (s.launches.look l).isNone)

/-- COMPLETION of a launch (R276, R317, R321): its counter is complete, its graph's and job's if nothing naming
them is left; each arrives once at its muster; dependents count one less; counters die. -/
def State.completeLaunch (s : State) (l : Nat) : State :=
  let x := s.launch l
  let s := { s with launches := s.launches.del l }
  let c := s.ctx x.ctx
  let fin (k : Counter) : Bool := !k.complete && k.launches.contains l && s.levelDone k
  let arrive := (c.counters.filter fin).flatMap (fun k =>
    k.musters.map (fun m => ({ addr := m, ctx := x.ctx, count := 1, status := k.status } : Arrival)))
  let own := if c.counters.any (fun k => k.level = 0 && k.launches.contains l) || x.mlevel ≠ 0 || x.muster = 0 then []
    else [({ addr := x.muster, ctx := x.ctx, count := 1, status := x.status } : Arrival)]
  let counters := c.counters.map (fun k => if fin k then { k with complete := true } else k)
  let jobs := (counters.filter (fun k => k.level = 2 && k.complete)).map (·.id)
  let keep (k : Counter) : Bool :=
    !(k.level = 2 && k.complete) && !(k.job ≠ 0 && jobs.contains k.job) && !(k.job = 0 && k.complete)
  let dep (e : Nat × Launch) : Nat × Launch :=
    if e.2.ctx = x.ctx && x.lcid ≠ 0 then (e.1, { e.2 with deps := e.2.deps.filter (· ≠ x.lcid) }) else e
  { s.setCtx x.ctx { c with counters := counters.filter keep } with
    launches := s.launches.map dep, arrivals := s.arrivals ++ arrive ++ own }

/-- LAUNCH_COMPLETION (R321, R322): every workgroup has been counted; the cores that ran one have written back
their L1s. A grid of no workgroups waits for its dependences (R313). -/
def execLaunchCompletion (l : Nat) (s : State) : Res :=
  match s.launches.look l with
  | none => .next s
  | some x =>
    if x.done < x.grid || (x.grid = 0 && !x.deps.isEmpty) || !s.mayWork x.ctx 808 then .next s
    else .next ((x.cores.foldl State.l1WritebackAll s).completeLaunch l)

/-! ### Intake -/

/-- The head element of a launch queue: the block's place and the manifest. -/
def State.queueHead (s : State) (ctx q : Nat) : State × Fetch (Option (Nat × List Byte)) :=
  let va := s.queueVa ctx q
  if va = 0 then (s, .ok none)
  else
    match s.translate ctx true false 1 va with
    | .busy => (s, .busy)
    | .fault c => (s, .fault c va)
    | .ok pa _ _ =>
      if !blockValid (s.peekBytes pa 64) || (s.qRead pa).count = 0 then (s, .ok none)
      else
        match s.distRead ctx true ((s.qRead pa).slot (s.qRead pa).head) 128 with
        | (s, .ok m) => (s, .ok (some (pa, m)))
        | (s, .busy) => (s, .busy)
        | (s, .fault c a) => (s, .fault c a)

/-- What a visit to a queue finds (R275, R276, R314, R316, R317): nothing to take now, a halt, or a checked manifest,
the block's place, and whether its LCID is live. -/
inductive Visit where
  | nothing
  | fault (cause : BitVec 8) (va : Nat)
  | take (k : Checked) (pa : Nat) (lcidLive : Bool)

def State.visit (s : State) (ctx q : Nat) : State × Visit :=
  let c := s.ctx ctx
  if 64 ≤ (s.launches.filter (fun e => e.2.ctx = ctx && !e.2.relay)).length || (q < 16 && !c.live) then (s, .nothing)
  else
    match s.queueHead ctx q with
    | (_, .busy) => (s, .nothing)
    | (_, .fault cause va) => (s, .fault cause va)
    | (_, .ok none) => (s, .nothing)
    | (t, .ok (some (pa, m))) =>
      match t.checkManifest ctx (q = 16) m with
      | (_, .busy) => (s, .nothing)
      | (_, .fault cause va) => (s, .fault cause va)
      | (t, .ok k) =>
        let live := (c.counter 0 k.launch.lcid).isSome
        let k := if k.code = 0 && (mRelay m || live) then { k with code := 5 } else k
        let need := dNeed k.launch.descBytes
        let k := if k.code = 0 && k.launch.allres && s.notResidable ctx k.launch.grid need then { k with code := 2 }
          else k
        if 4096 < c.counters.length + c.newCounters k.launch then (s, .nothing)
        else if k.code = 0 && k.launch.allres &&
            (placeAll (s.rooms ctx) (List.replicate k.launch.grid need)).isNone then (s, .nothing)
        else (t, .take k pa live)

/-- The dependences still open (R317). -/
def Context.openDeps (c : Context) (l : List Nat) : List Word :=
  ((l.map (BitVec.ofNat 32)).filter (fun id => match c.counter 0 id with
    | some k => !k.complete
    | none => false)).eraseDups

/-- A launch as it is taken: a refused one arrives at its muster itself, whatever level MLEVEL names (R276, R314), and one
refused because its LCID is live completes nothing under that id. -/
def Checked.taken (k : Checked) (lcidLive : Bool) : Launch :=
  let x := k.launch
  { x with mlevel := if k.code = 0 then x.mlevel else 0, lcid := if lcidLive then 0 else x.lcid }

/-- A manifest taken (R314, R316, R321, R323, R400): the head element leaves its queue; a refused launch completes
at once; one that names a cancelled level is never placed. -/
def State.takeLaunch (s : State) (ctx q : Nat) (k : Checked) (pa : Nat) (lcidLive : Bool) : State :=
  let b := s.qRead pa
  let s := s.qWrite pa { b with head := (b.head + 1) % 2 ^ 32, free := b.free + 1 }
  let (l, s) := s.nextId
  let c := s.ctx ctx
  let x := { k.taken lcidLive with deps := c.openDeps k.dep }
  let c := { c.enrollAll l x !lcidLive with
    live := c.live || q = 16, intake := if q < 16 then (q + 1) % 16 else c.intake }
  let s := (s.setCtx ctx c).setLaunch l x
  if k.code ≠ 0 then
    ((s.setLaunch l { x with next := x.grid, deps := [] }).countDone l x.grid k.code).completeLaunch l
  else if c.counters.any (fun k => k.cancelled && k.launches.contains l) then s.dropUnplaced l
  else s

/-- The queues that a round visits from the context's position to a queue, that one left out. -/
def Context.between (c : Context) (q : Nat) : List Nat :=
  (List.range ((q + 16 - c.intake) % 16)).map (fun i => (c.intake + i) % 16)

def Visit.isNothing : Visit → Bool
  | .nothing => true
  | _ => false

/-- MANIFEST_INTAKE (R314, R316, R400): queues are visited in turn; a queue is visited only when those before it
give nothing, and a visit that finds nothing moves on. -/
def execManifestIntake (ctx queue : Nat) (s : State) : Res :=
  let c := s.ctx ctx
  let turn := queue = 16 || (queue < 16 && (c.between queue).all (fun q => (s.visit ctx q).2.isNothing))
  if c.halted || !turn || 8 ≤ ctx then .next s
  else
    match s.visit ctx queue with
    | (_, .nothing) => .next (if queue < 16 then s.setCtx ctx { c with intake := (queue + 1) % 16 } else s)
    | (_, .fault cause va) => .next (s.halt ctx cause (BitVec.ofNat 64 va) 808)
    | (t, .take k pa live) => .next (t.takeLaunch ctx queue k pa live)

/-! ### Placement -/

/-- Saved workgroups of a launch. -/
def State.savedOf (s : State) (l : Nat) : List Saved := s.saved.filter (fun v => v.wg.launch = l)

/-- What an idle state or Camp saved of a context is restored before new placements (R384). -/
def State.powerFirst (s : State) (ctx l : Nat) : Bool :=
  !s.saved.any (fun v => v.power && v.wg.ctx = ctx) || (s.savedOf l).any (·.power)

/-- A candidate (R319): no dependence is open and something is unplaced or saved; none once the halt line has risen (R375).
DEDUCED, log 65. -/
def State.candidate (s : State) (l : Nat) (x : Launch) : Bool :=
  x.deps.isEmpty && (x.next < x.grid || !x.again.isEmpty || !(s.savedOf l).isEmpty) &&
    !(s.ctx x.ctx).halted && (s.ctx x.ctx).preemptEnd.isNone && s.powerFirst x.ctx l && s.power.state = .run &&
    !s.power.entering

/-- Contexts in the order one priority serves them: the one being served while it has placements left, then the
next ones in turn (R319). -/
def State.ctxOrder (s : State) (p : Nat) : List Nat :=
  let (cur, n) := s.served.get (0, 0) p
  let first := if n < (s.ctx cur).dweight then cur else cur + 1
  (List.range 8).map (fun i => (first + i) % 8)

/-- Every candidate, in the order of R319. DEDUCED, log 51. -/
def State.candidates (s : State) : List (Nat × Launch) :=
  let all := s.launches.filter (fun e => s.candidate e.1 e.2)
  [3, 2, 1, 0].flatMap (fun p => (s.ctxOrder p).flatMap (fun c =>
    let l := all.filter (fun e => e.2.placePrio = p && e.2.ctx = c)
    l.filter (fun e => !(s.savedOf e.1).isEmpty) ++ l.filter (fun e => (s.savedOf e.1).isEmpty)))

/-- What a saved workgroup needs: ALLOC at the save for each group (R320). -/
def Saved.need (v : Saved) : Need :=
  { rows := (List.range v.wg.ngrp).map (fun i => (v.groups.find? (fun e => e.1 = i)).map (fun e => e.2.alloc)),
    gran := v.wg.sgran, tiles := v.wg.tilem, accs := v.wg.accm }

/-- What a launch would place next: all at once for an all-resident one (R275, R327). -/
def State.nextNeeds (s : State) (l : Nat) (x : Launch) : List Need :=
  let saved := (s.savedOf l).map Saved.need
  let fresh := List.replicate (x.again.length + (x.grid - x.next)) (dNeed x.descBytes)
  if x.allres then saved ++ fresh else (saved ++ fresh).take 1

/-- Where it goes: core and base slot of each workgroup; `core` chooses among equals for a single one (R320). -/
def State.whereTo (s : State) (core l : Nat) (x : Launch) : Option (List (Nat × Nat)) :=
  let rooms := s.rooms x.ctx
  match s.nextNeeds l x with
  | [n] => ((bestCores rooms n).find? (fun e => e.1 = core)).map (fun e => [e])
  | l => if l.isEmpty then none else placeAll rooms l

/-- It fits on some core. -/
def State.fitsNow (s : State) (l : Nat) (x : Launch) : Bool :=
  (placeAll (s.rooms x.ctx) (s.nextNeeds l x)).isSome

/-- The next workgroup's index: flushed ones first. -/
def Launch.pop (x : Launch) : Nat × Launch :=
  match x.again with
  | w :: ws => (w, { x with again := ws })
  | [] => (x.next, { x with next := x.next + 1 })

/-- The other candidates passed over, and the round of contexts moved on (R319). -/
def State.passOver (s : State) (l : Nat) (x : Launch) : State :=
  let others := (s.candidates.filter (fun e => e.1 ≠ l)).map (·.1)
  let pass (e : Nat × Launch) : Nat × Launch :=
    if others.contains e.1 then
      (e.1, if e.2.passed + 1 < 64 then { e.2 with passed := e.2.passed + 1 }
        else { e.2 with passed := 0, placePrio := min 3 (e.2.placePrio + 1) })
    else e
  let (cur, n) := s.served.get (0, 0) x.placePrio
  let k := if cur = x.ctx && n < (s.ctx cur).dweight then n + 1 else 1
  { s with launches := s.launches.map pass, served := s.served.put x.placePrio (x.ctx, k) }

/-- Workgroups of a launch started, one for each place. -/
def State.startAll (l : Nat) : List (Nat × Nat) → State → Option State
  | [], s => some s
  | (c, b) :: rest, s =>
    let (wgid, x) := (s.launch l).pop
    match (s.setLaunch l x).startWorkgroup l c b wgid with
    | none => none
    | some t => State.startAll l rest t

/-- WORKGROUP_PLACEMENT (R275, R319, R320): the first candidate that fits is placed, when it has nothing
saved. -/
def execWorkgroupPlacement (core : Nat) (s : State) : Res :=
  match s.candidates.find? (fun e => s.fitsNow e.1 e.2) with
  | none => .next s
  | some (l, x) =>
    if !(s.savedOf l).isEmpty then .next s
    else
      match s.whereTo core l x with
      | none => .next s
      | some places =>
        match State.startAll l places (s.passOver l x) with
        | none => .next s
        | some t => .next t

/-! ### Retirement -/

/-- Engine work of a group on C, M and N, queue operations past their reservation, and searches whose descriptor is
not yet read. -/
def State.engineWork (s : State) (gid : Nat) : Bool :=
  let c := s.core (coreOf gid)
  c.copies.any (fun k => k.gid = gid) || c.near.any (fun k => k.gid = gid) ||
    c.matrix.any (fun k => k.gid = gid) || s.enqs.any (fun e => e.gid = gid) ||
    s.searches.any (fun e => e.2.gid = gid && !e.2.read)

/-- A number for what a retired group leaves under way (R138, R270). -/
def State.ghost (s : State) : Nat → Nat → Nat
  | 0, n => n
  | k + 1, n => if (s.groups.look n).isSome then s.ghost k (n + 8192) else n

/-- A group leaves its slot: its rows and place are free; results still on their way keep their generations; an
unmatched XCHG is withdrawn (R129, R270). -/
def State.freeGroup (s : State) (gid : Nat) : State :=
  let g := s.group gid
  let slot := slotOf gid
  let s := ({ s with groups := s.groups.del gid }).withdraw (fun q => q.gid = gid)
  let n := s.ghost (s.groups.length + 1) (gid + 8192)
  let s := if g.replies.isEmpty && g.lastBatches.isEmpty then s
    else s.setGroup n { replies := g.replies, batches := g.lastBatches, ctx := g.ctx, rows := [], phys := [] }
  let sl := s.slot slot
  let s := s.setSlot slot { sl with
    rotation := stampRotation (s.slotLimit slot) s.cycle (sl.rotation.filter (fun e => e.1 ≠ gid)),
    claims := sl.claims.filter (fun c => c.gid ≠ gid) }
  let c := s.core (coreOf gid)
  if c.hold.any (fun h => h.gid = gid) then s.setCore (coreOf gid) { c with hold := none } else s

/-- The context's partition is free: no workgroup that a pre-emption request took is left (R329). -/
def State.preemptFree (s : State) (ctx : Nat) : State :=
  let c := s.ctx ctx
  if c.preemptEnd.isSome && !s.wgs.any (fun e => e.2.ctx = ctx && e.2.preempt.isSome) then
    s.setCtx ctx { c with preemptEnd := none }
  else s

/-- A workgroup's resources freed. -/
def State.dropWorkgroup (s : State) (wi : Nat) : State :=
  let ctx := (s.wg wi).ctx
  { s with wgs := s.wgs.del wi }.preemptFree ctx

/-- Resident time of a workgroup counted for its launch (R327). -/
def State.countTime (s : State) (wi : Nat) : State :=
  let w := s.wg wi
  let x := s.launch w.launch
  let t := w.elapsed + (s.time - w.started)
  let cores := if x.cores.contains w.core then x.cores else x.cores ++ [w.core]
  s.setLaunch w.launch { x with meanSum := x.meanSum + t, meanN := x.meanN + 1, cores := cores }

/-- Groups of a workgroup that are still resident. -/
def State.wgLive (s : State) (wi : Nat) : List Nat :=
  (s.wg wi).groups.filter (fun i => (s.group i).live && (s.group i).wg = wi)

/-- A group retires (R138, R322); with the last one its workgroup completes. -/
def State.retireGroup (s : State) (gid : Nat) : State :=
  let g := s.group gid
  let wi := g.wg
  let w := s.wg wi
  let s := s.setWg wi { w with cancelled := w.cancelled || bit 0 g.cancelled }
  let s := (s.freeGroup gid).barCheck wi
  let s := if (s.wgLive wi).isEmpty then
      let w := s.wg wi
      ((s.countTime wi).countDone w.launch 1 (if w.cancelled then 1 else 0)).dropWorkgroup wi
    else s
  s.claimDeadlock (slotOf gid)

/-- GROUP_RETIREMENT (R138, R322): every access is performed, and engine work is done. -/
def execGroupRetirement (gid : Nat) (s : State) : Res :=
  let g := s.group gid
  if g.live && g.retiring && g.toPerform.isEmpty && !s.engineWork gid && s.mayWork g.ctx (slotOf gid) then
    .next (s.retireGroup gid)
  else .next s

/-! ### Relays -/

/-- Inherited allocation rows, and whether a target is among the inherited registers (R224). -/
def inherits (mask : DWord) (row : Nat) : Bool := row < 256 && mask.getLsbD (row / 32)
def Target.inherited (t : Target) (mask : DWord) : Bool :=
  match t with
  | .v r _ _ => inherits mask r
  | .vPair r r2 .. => inherits mask r || inherits mask r2
  | .o _ _ => mask.getLsbD 36
  | .p _ => mask.getLsbD 37
  | _ => false

/-- The groups of a workgroup that have executed RELAY: number, manifest address, mask. -/
def State.relaying (s : State) (wi : Nat) : List (Nat × DWord × DWord) :=
  (s.wgLive wi).filterMap (fun i => (s.group i).relay.map (fun e => (i, e.1, e.2)))

/-- Engine work of a group that its relay waits for (R225): on engines C, M and N. -/
def State.relayWork (s : State) (gid : Nat) : Bool :=
  let c := s.core (coreOf gid)
  c.copies.any (fun k => k.gid = gid) || c.near.any (fun k => k.gid = gid) || c.matrix.any (fun k => k.gid = gid)

/-- The relay can be decided: every group has relayed or retired, and what R225 waits for is over. What the groups have
written to the scratchpad is there before the commit keeps or zeroes it (R226, R279, R302). DEDUCED, log 50. -/
def State.relayReady (s : State) (wi : Nat) : Bool :=
  let l := s.relaying wi
  !l.isEmpty && l.length = (s.wgLive wi).length &&
  l.all (fun e =>
    let g := s.group e.1
    !s.relayWork e.1 && !g.toPerform.any (fun a => a.space = 1) && !g.pending.any (fun p => p.2.1.inherited e.2.2) &&
      !g.replies.any (fun p => p.target.inherited e.2.2) && !g.accs.any (fun a => a.target.inherited e.2.2))

/-- A group's split leaves the RELAY's wait and issues it anew. -/
def State.unrelay (s : State) (gid : Nat) : State :=
  let g := s.group gid
  let free (e : Nat × Split) : Nat × Split :=
    if e.2.wait = .relay then (e.1, { e.2 with wait := .none, pend := none }) else e
  s.setGroup gid { g with relay := none, splits := g.splits.map free }

/-- The relay fails: trap 0x30 at each group's RELAY (R225). -/
def State.relayFails (s : State) (wi sub : Nat) : State :=
  (s.relaying wi).foldl (fun s e =>
    let sid := (s.group e.1).liveSplits.headD 0
    let x := (s.group e.1).split sid
    (s.unrelay e.1).raise e.1 ⟨0x30, sid, x.pc, x.mask, 0, BitVec.ofNat 64 sub, x.pc⟩) s

/-- An inherited row, granule, tile or accumulator lies outside the successor's descriptor (R225). -/
def maskOutside (m : DWord) (d : List Byte) : Bool :=
  (List.range 8).any (fun b => m.getLsbD b && dRows d < 32 * b + 32) ||
  (List.range 16).any (fun j => m.getLsbD (20 + j) && dSgran d ≤ j) ||
  (List.range 8).any (fun t => m.getLsbD (12 + t) && !(dTilem d).getLsbD t) ||
  (List.range 4).any (fun a => m.getLsbD (8 + a) && !(dAccm d).getLsbD a)

/-- The successor launch that an LCID already identifies (R325; DEDUCED, log 28). -/
def State.successor (s : State) (x : Launch) : Option (Nat × Launch) :=
  s.launches.find? (fun e => e.2.relay && e.2.ctx = x.ctx && e.2.lcid = x.lcid &&
    (x.lcid ≠ 0 || (e.2.desc = x.desc && e.2.dims = x.dims)))

/-- A manifest that no relay commit takes: not relay-only, or with dependences or a dispatch table (R325). -/
def relayBad (m : List Byte) : Bool := !mRelay m || mDep m ≠ 0 || mDtn m ≠ 0

/-- The sub-code of a relay's failure, 0 for none (R225, R325). DEDUCED, log 50. -/
def State.relaySub (s : State) (wi : Nat) (m : List Byte) (k : Checked) : Nat :=
  let x := k.launch
  let w := s.wg wi
  let c := s.ctx x.ctx
  let old := s.successor x
  let clash := match old with
    | some (_, y) => decide (y.desc ≠ x.desc) || decide (y.dims ≠ x.dims)
    | none => (c.counter 0 x.lcid).isSome
  if k.code ≠ 0 || relayBad m || clash || x.grid ≤ w.wgid then 4
  else if dNgrp x.descBytes ≠ w.ngrp then 2
  else if (s.relaying wi).any (fun e => maskOutside e.2.2 x.descBytes) then 3 else 0

/-- The rows of a group after the commit (R226, R269): inherited ones stay; others keep their physical row, or come
from the pool, under one new generation. None while rows or generations are short. -/
def State.relayRows (s : State) (gid n : Nat) (mask : DWord) : Option (State × List Nat) :=
  let slot := slotOf gid
  let old := (s.group gid).phys.take n
  let more := (s.pool slot).take (n - old.length)
  let kept (i : Nat) : Bool := inherits mask i && i < old.length
  let phys := old ++ more
  let changed := ((List.range n).zip phys).filterMap (fun e => if kept e.1 then none else some e.2)
  if phys.length < n then none
  else if changed.isEmpty then some (s, phys)
  else (s.newGen slot changed).map (fun k => (s.setSlot slot ((s.slot slot).setGens changed k), phys))

/-- A target after the commit: generations tell for rows (R269), other registers must be inherited. -/
def Target.aimed (t : Target) (mask : DWord) : Target :=
  match t with
  | .v .. | .vPair .. => t
  | t => if t.inherited mask then t else .none

/-- A group as the successor's (R226, R253): inherited registers kept, everything else as at a first
instruction; what it has under way goes on, its results bound for no register. -/
def Group.succeed (g0 : Group) (start : Group) (mask : DWord) (phys : List Nat) : Group :=
  let g := g0.settleAll
  let aim (t : Target) : Target := t.aimed mask
  { start with
    idx := g.idx, phys := phys,
    rows := g.rows.filter (fun e => inherits mask (e.1 / 32) && e.1 / 32 < phys.length),
    o := if mask.getLsbD 36 then g.o else [],
    p := if mask.getLsbD 37 then g.p else [],
    batches := g.lastBatches, stallchk := g.stallchk, trapMask := g.trapMask, traps := g.traps,
    accs := g.toPerform.map (fun a => { a with po := 1, target := aim a.target }),
    ops := g.ops.map (fun o => { o with po := 1 }),
    replies := g.replies.map (fun r => { r with target := aim r.target }),
    deferred := g.deferred.filter (fun d => d.red.isSome || d.target.inherited mask),
    issued := g.issued, stalls := g.stalls, recent := g.recent, since := g.since }

/-- The successor launch brought alive by the first commit that names it (R325). -/
def State.successorLaunch (s : State) (x : Launch) : State × Nat :=
  match s.successor x with
  | some (l, _) => (s, l)
  | none =>
    let (l, s) := s.nextId
    let x := { x with relay := true, next := x.grid }
    ((s.setCtx x.ctx ((s.ctx x.ctx).enrollAll l x true)).setLaunch l x, l)

/-- Granules, tiles and accumulators after the commit (R226). -/
def Workgroup.inherit (w : Workgroup) (m : DWord) (d : List Byte) : Workgroup :=
  { w with
    sp := w.sp.filter (fun e => m.getLsbD (20 + e.1 / 16384)),
    full := w.full.filter (fun e => m.getLsbD (20 + e.1 / 16384)),
    tiles := w.tiles.filter (fun e => m.getLsbD (12 + e.1 / 16384)),
    accs := w.accs.filter (fun e => m.getLsbD (8 + e.1 / 16384)),
    entry := BitVec.ofNat 64 (dEntry d), rowsPer := dRows d, sgran := dSgran d, accm := dAccm d, tilem := dTilem d,
    roles := BitVec.ofNat 32 (dRoles d), spill := dSpill d }

/-- The groups of the successor, by index: relayed ones go on, retired ones start anew (R226). -/
def State.relayGroups (wi : Nat) (x : Launch) : List Nat → State → Option (State × List Nat)
  | [], s => some (s, [])
  | i :: rest, s =>
    let w := s.wg wi
    let gid := w.groups.getD i 0
    let g := s.group gid
    let start := x.group wi s.cycle
    let one : Option (State × Nat) :=
      if g.live && g.wg = wi then
        let mask := (g.relay.map (·.2)).getD 0
        match s.relayRows gid (dRows x.descBytes) mask with
        | none => none
        | some (s, phys) => some (s.setGroup gid (g.succeed start mask phys), gid)
      else s.putGroup w.core w.base i (dRows x.descBytes) start
    match one with
    | none => none
    | some (s, gid) => (State.relayGroups wi x rest s).map (fun r => (r.1, gid :: r.2))

/-- THE COMMIT (R226, R325, R326): the successor is counted in before the predecessor's workgroup is counted
complete. None while the core is short of the difference. -/
def State.commitRelay (s : State) (wi : Nat) (x : Launch) : Option State :=
  let w := s.wg wi
  let m := ((s.relaying wi).map (·.2.2)).headD 0
  let mask (gid : Nat) : DWord := (((s.relaying wi).find? (fun e => e.1 = gid)).map (·.2.2)).getD 0
  let d := x.descBytes
  if !(s.room w.core (some wi)).fitsAt (dNeed d) w.base then none
  else
    let (s, l) := s.successorLaunch x
    match State.relayGroups wi x (List.range w.ngrp) s with
    | none => none
    | some (s, ids) =>
      let s := (s.countTime wi).countDone w.launch 1 0
      let w' := { w.inherit m d with
        launch := l, groups := ids, spillBase := s.openArea, idem := x.idem, started := s.time, elapsed := 0,
        barred := [], want := none, restartable := false }
      let s := { s.setWg wi w' with
        fresh := s.fresh + 1,
        xchgs := s.xchgs.map (fun q => if w.groups.contains q.gid then
          { q with target := q.target.aimed (mask q.gid) } else q),
        searches := s.searches.map (fun e => if w.groups.contains e.2.gid && !e.2.read then
          (e.1, { e.2 with target := e.2.target.aimed (mask e.2.gid) }) else e) }
      let hit := (s.ctx x.ctx).counters.any (fun k => k.cancelled && k.launches.contains l)
      let mark (s : State) (i : Nat) : State := s.setGroup i { s.group i with cancelled := 1 }
      some (if hit then ids.foldl mark s else s)

/-- RELAY_COMMIT (R225, R226, R323): a cancelled workgroup retires; a deferred engine trap is raised at its RELAY;
otherwise the manifest is read and the relay fails, waits for counters (log 52) or for room, or commits. -/
def execRelayCommit (wi : Nat) (s : State) : Res :=
  let w := s.wg wi
  let held := match w.preempt with | some (n, _) => n ≠ 1 | none => false
  if !s.relayReady wi || !s.mayWork w.ctx 808 || held then .next s
  else
    let l := s.relaying wi
    if w.cancelled || l.any (fun e => bit 0 (s.group e.1).cancelled) then
      .next (l.foldl (fun s e => s.exitAll e.1) (s.setWg wi { w with cancelled := true }))
    else if l.any (fun e => (s.group e.1).relayTrap.isSome) then
      .next ((l.filter (fun e => (s.group e.1).relayTrap.isSome)).foldl (fun s e => s.unrelay e.1) s)
    else
      let (_, a, m) := l.headD (0, 0, 0)
      let differs := l.any (fun e => e.2.1 ≠ a || (e.2.2 ^^^ m) &&& 0xF_FFFF_FF00 ≠ 0)
      if differs then .next (s.relayFails wi 1)
      else
        match s.distRead w.ctx false a.toNat 128 with
        | (_, .busy) => .next s
        | (_, .fault c va) => .next (s.halt w.ctx c (BitVec.ofNat 64 va) 808)
        | (t, .ok bs) =>
          if relayBad bs then .next (t.relayFails wi 4)
          else
          match t.checkManifest w.ctx false bs with
          | (_, .busy) => .next s
          | (_, .fault c va) => .next (s.halt w.ctx c (BitVec.ofNat 64 va) 808)
          | (t, .ok k) =>
            let sub := t.relaySub wi bs k
            if sub ≠ 0 then .next (t.relayFails wi sub)
            else if (t.successor k.launch).isNone &&
                4096 < (t.ctx w.ctx).counters.length + (t.ctx w.ctx).newCounters k.launch then .next t
            else
              match t.commitRelay wi k.launch with
              | some t => .next t
              | none =>
                let d := k.launch.descBytes
                .next (t.setWg wi { w with want := some (dRows d, dSgran d, dTilem d, dAccm d) })

/-! ### Cancel -/

/-- CANCEL_GRACE_EXPIRY (R323): groups of the level still resident retire as if their lanes had executed EXIT;
saved workgroups of the level are discarded, complete with status 1. -/
def execCancelGraceExpiry (ctx level : Nat) (id : BitVec 32) (s : State) : Res :=
  match (s.ctx ctx).counters.find? (fun k => k.level = level && k.id = id && id ≠ 0) with
  | none => .next s
  | some k =>
    match k.graceEnd with
    | none => .next s
    | some t =>
      if s.time < t then .next s
      else
        let stop (s : State) (e : Nat × Group) : State :=
          let g := s.group e.1
          if g.live && !g.retiring && k.launches.contains (s.wg g.wg).launch then
            let s := g.liveSplits.foldl (fun s i => s.leaveWaits e.1 i) s
            s.exitAll e.1
          else s
        let lost := s.saved.filter (fun v => k.launches.contains v.wg.launch)
        let c := s.ctx ctx
        let mark (q : Counter) : Counter := if q.level = level && q.id = id then { q with graceEnd := none } else q
        let s := s.setCtx ctx { c with counters := c.counters.map mark }
        let s := s.groups.foldl stop s
        let s := { s with saved := s.saved.filter (fun v => !k.launches.contains v.wg.launch) }
        .next (lost.foldl (fun s v => s.countDone v.wg.launch 1 1) s)

end Sys2Proof.Machine
end

