-- ==== Sys2Proof/Machine/Matrix.lean ====
section
/-! DEFINITION. Class B: the matrix engine (R102, R106 to R112, R189 to R206, R303 to R305). -/

namespace Sys2Proof.Machine

/-! ### Issue -/

/-- Control registers named by the C field, read at issue (R191). -/
def ctlOf (x : Ext) (n : Nat) (g : Group) : List DWord :=
  (List.range n).map (fun i => g.gReg (x.cSrc.idx.toNat + i))

/-- A scratchpad address operand (R190). -/
def spAddr (f : Src) (r : Run) : Nat := readUni r.g r.lit .int false f

/-- The instruction as the engine holds it. -/
def mkMatrix (x : Ext) (op a : Nat) (b : DWord) (ctl : List DWord) : Matrix :=
  { id := 0, gid := 0, wg := 0, op := op, mod := x.mod, sat := x.d.sat, d := x.d.idx.toNat, a := a, b := b,
    ctl := ctl }

/-- Tiles and accumulators that the descriptor does not request (R190): sub-code 4. -/
def tilesDyn (tiles accs : List Nat) (s : State) (gid _ : Nat) : Nat :=
  let w := s.wgOf gid
  if tiles.all (fun i => w.tilem.getLsbD i) && accs.all (fun i => w.accm.getLsbD i) then 0 else 4

/-- A range past the granules halts (R192). -/
def rangeChk (w : Workgroup) (l : List Region) : Chk :=
  match l.find? (fun r => w.spBytes < r.top) with
  | some r => .halt 0xC1 (BitVec.ofNat 64 r.base)
  | none => .ok

/-- All regions an instruction reads, those of every step of an MLOOP; and those with what it writes. -/
def Matrix.readRegions (m : Matrix) : List Region :=
  if m.op = 5 then (List.range (if m.nslot = 0 then m.steps else min m.steps m.nslot)).flatMap m.regions else m.regions 0
def Matrix.allRegions (m : Matrix) : List Region := m.written ++ m.readRegions

/-- Limits of shapes, depths and planes of MMA and MLOOP (R192, R196, R197, R201). -/
def mmaChk (m : Matrix) (lanes : Mask) : Chk :=
  let loop : Bool := m.op = 5
  let ta : Bool := !loop && bit 6 m.mod
  let maxK := match m.elBits with
    | 4 => if ta then 128 else 256
    | 8 => 128
    | _ => 64
  let field (bad : Bool) : Chk := Chk.operand bad lanes 0
  let plane (hi lo : Nat) : Chk :=
    if m.scale = 0 then .ok else Chk.aligned (bits hi lo (m.ctlAt 1)) 128 lanes
  let inc (hi lo : Nat) : Chk :=
    field (loop && (bits hi lo (m.ctlAt 2) % 128 ≠ 0 || 1048448 < bits hi lo (m.ctlAt 2)))
  Chk.first [
    if loop then Chk.aligned m.a 128 lanes else .ok,
    Chk.aligned m.b.toNat 128 lanes, plane 31 0, plane 63 32,
    field (bits 63 25 (m.ctlAt 0) ≠ 0),
    field (128 < m.rowsM || 128 < m.colsN || maxK < m.depth || (ta && m.elBits = 16 && 64 < m.rowsM)),
    inc 31 0, inc 63 32,
    field (loop && bits 63 32 (m.ctlAt 3) ≠ 0)]

/-- The checks of R192 in order. -/
def matrixChk (m : Matrix) (s : State) (r : Run) : Chk :=
  Chk.first [
    rangeChk (s.wgOf r.gid) m.allRegions,
    (match m.op with
      | 4 | 5 => mmaChk m r.active
      | 0 | 1 | 6 | 7 | 8 => Chk.aligned m.a 128 r.active
      | _ => .ok)]

/-- A matrix instruction issued: it joins the queue of the core's engine, before those that higher-numbered slots issued in
the same cycle, and the group's open batch (R189). -/
def State.issueMatrix (s : State) (r : Run) (m : Matrix) : State :=
  let g := s.group r.gid
  let (id, s) := s.nextId
  let k := coreOf r.gid
  let m := { m with id := id, gid := r.gid, wg := g.wg, since := s.cycle + 1 }
  let s := s.setCore k { s.core k with matrix := inOrder (s.core k).matrix (fun x => x.since = m.since && slotOf m.gid < slotOf x.gid) m }
  s.setGroup r.gid (g.joinBatch 1 r.sid id)

/-- The common part of a class-B instruction: 16 in the engine (R189). -/
def matrixOp (xop : Nat) (x : Ext) (srcs : List (Src × Bool)) (ctl : Nat) (tiles accs : List Nat)
    (mk : Run → Matrix) : Op :=
  { (Enc.ofExt xop x).op (fun s r => s.issueMatrix r (mk r)) with
    reads := fun g => srcs.flatMap (srcKeys g) ++
      (List.range ctl).map (fun i => keyG (x.cSrc.idx.toNat + i))
    memory := true
    dyn := tilesDyn tiles accs
    check := fun s r => matrixChk (mk r) s r
    held := fun s r => if 16 ≤ (s.core (coreOf r.gid)).matrix.length then some (9, s) else none }

def execTld (x : Ext) (s : State) : Res :=
  s.run (matrixOp 0x2C0 x [(x.a, false)] 0 [x.d.idx.toNat] []
    (fun r => mkMatrix x 0 (spAddr x.a r) 0 [])) noWalk
def execTst (x : Ext) (s : State) : Res :=
  s.run (matrixOp 0x2C1 x [(x.a, false)] 0 [x.d.idx.toNat] []
    (fun r => mkMatrix x 1 (spAddr x.a r) 0 [])) noWalk
def execTmov (x : Ext) (s : State) : Res :=
  s.run (matrixOp 0x2C2 x [] 0 [x.d.idx.toNat, x.a.idx.toNat] []
    (fun _ => mkMatrix x 2 x.a.idx.toNat 0 [])) noWalk

/-- The registers an MZERO mask names (R194). -/
def maskBits (mod : BitVec 10) : List Nat := (List.range 8).filter (fun i => mod.getLsbD i)

def execMzero (x : Ext) (s : State) : Res :=
  let l := maskBits x.mod
  s.run (matrixOp 0x2C3 x [] 0 (if bit 8 x.mod then l else []) (if bit 8 x.mod then [] else l)
    (fun _ => mkMatrix x 3 0 0 [])) noWalk
def execMma (x : Ext) (s : State) : Res :=
  s.run (matrixOp 0x2C4 x [(x.b, false)] 2 [x.a.idx.toNat] [x.d.idx.toNat]
    (fun r => mkMatrix x 4 x.a.idx.toNat (BitVec.ofNat 64 (spAddr x.b r)) (ctlOf x 2 r.g))) noWalk
def execMloop (x : Ext) (s : State) : Res :=
  s.run (matrixOp 0x2C5 x [(x.a, false), (x.b, false)] 4 [] [x.d.idx.toNat]
    (fun r => mkMatrix x 5 (spAddr x.a r) (BitVec.ofNat 64 (spAddr x.b r)) (ctlOf x 4 r.g))) noWalk
def execMlda (x : Ext) (s : State) : Res :=
  s.run (matrixOp 0x2C6 x [(x.a, false)] 0 [] [x.d.idx.toNat]
    (fun r => mkMatrix x 6 (spAddr x.a r) 0 [])) noWalk
def execMsta (x : Ext) (s : State) : Res :=
  s.run (matrixOp 0x2C7 x [(x.a, false)] 0 [] [x.d.idx.toNat]
    (fun r => mkMatrix x 7 (spAddr x.a r) 0 [])) noWalk
def execMcvt (x : Ext) (s : State) : Res :=
  s.run (matrixOp 0x2C8 x [(x.a, false), (x.b, false)] 0 [] [x.d.idx.toNat]
    (fun r => mkMatrix x 8 (spAddr x.a r)
      (BitVec.ofNat 64 (readUni r.g r.lit (.fp 8) false x.b)) [])) noWalk

/-! ### Tiles and accumulators -/

/-- A byte of a tile, and a word of an accumulator (R191, R199). -/
def Workgroup.tile (w : Workgroup) (t row byte : Nat) : Byte := w.tiles.get 0 (t * 16384 + row * 128 + byte)
def Workgroup.acc (w : Workgroup) (a row col : Nat) : Word := w.accs.get 0 (a * 16384 + row * 128 + col)
def Workgroup.setTile (w : Workgroup) (t i : Nat) (b : Byte) : Workgroup :=
  { w with tiles := w.tiles.set 0 (t * 16384 + i) b }
def Workgroup.setAcc (w : Workgroup) (a row col : Nat) (v : Word) : Workgroup :=
  { w with accs := w.accs.set 0 (a * 16384 + row * 128 + col) v }

/-- A scratchpad byte as the running instruction reads it: a sector already read keeps its value (R205). -/
def Matrix.byte (m : Matrix) (w : Workgroup) (a : Nat) : Byte :=
  match m.snap.look (a / 32) with
  | some x => BitVec.ofNat 8 (sectorBytes x (a % 32) 1)
  | none => w.spByte a

/-- Element c of row i among rows of bytes, by element width (R102, R197). -/
def elementAt (byte : Nat → Nat → Byte) (w i c : Nat) : Nat :=
  match w with
  | 4 => (byte i (c / 2)).toNat / 2 ^ (4 * (c % 2)) % 16
  | 8 => (byte i c).toNat
  | _ => (byte i (2 * c)).toNat + 256 * (byte i (2 * c + 1)).toNat

/-! ### Sums (R106 to R112) -/

/-- The floating type codes of A and B by element kind (R195). -/
def mmaTypes (kind : Nat) : Nat × Nat :=
  match kind with
  | 0 => (15, 15)
  | 2 => (11, 11)
  | 3 => (11, 12)
  | 4 => (12, 11)
  | 5 => (12, 12)
  | 7 => (9, 9)
  | 8 => (9, 10)
  | 9 => (10, 9)
  | _ => (10, 10)

/-- An infinity times zero. -/
def infTimesZero (p : FVal × FVal) : Bool := !p.1.isNan && !p.2.isNan && (FVal.mul p.1 p.2).isNan

/-- Opposite infinities among some products, or an infinity times zero among elements or scales: what is invalid in a block
whatever NaNs it holds (R109). A product of a NaN is neither. -/
def blockInvalid (pairs : List (FVal × FVal)) (sa sb : FVal) : Bool :=
  let products := pairs.map (fun p => FVal.mul p.1 p.2)
  products.contains (.inf true) && products.contains (.inf false) || ((sa, sb) :: pairs).any infTimesZero

/-- The value of a block before its rounding: poison among elements and scales decides, then any other NaN; otherwise
the exact sum times the exact product of the scales (R106, R108, R109). -/
def blockValue (pairs : List (FVal × FVal)) (sa sb : FVal) : FVal :=
  let all := sa :: sb :: (pairs.map (·.1) ++ pairs.map (·.2))
  if all.any FVal.isPoison then .nan (all.any FVal.isSig) true false
  else if all.any FVal.isNan then .nan (all.any FVal.isSig || blockInvalid pairs sa sb) false false
  else FVal.mul (FVal.total 0 (pairs.map (fun p => FVal.mul p.1 p.2))) (FVal.mul sa sb)

/-- One block added to an accumulator element: two roundings to binary32, rne, no flushing (R108). -/
def addBlock (acc : Word × Flags) (v : FVal) : Word × Flags :=
  let (x, f) := v.round f32 0 false false
  let (y, f') := (FVal.add 0 (rd32 false acc.1) (FVal.read f32 false x)).round f32 0 false false
  (BitVec.ofNat 32 y, acc.2 ||| f ||| f')

/-- The value 1. -/
def FVal.one : FVal := .fin false 1 0 false

/-- A step's operands as functions: A(m, k), B(k, n), bytes of the scratchpad, addresses of the scales. -/
structure Step where
  a : Nat → Nat → Nat
  b : Nat → Nat → Nat
  byte : Nat → Byte
  sa : Nat
  sb : Nat

/-- Four bytes as a number. -/
def Step.word (t : Step) (a : Nat) : Nat :=
  ofBytes ((List.range 4).map (fun i => t.byte (a + i)))

/-- The scales of row m and column n for block j (R198). -/
def Matrix.scales (x : Matrix) (t : Step) (m n j : Nat) : FVal × FVal :=
  match x.scale with
  | 1 => (ofE8M0 (t.byte (t.sa + x.nb * m + j)).toNat, ofE8M0 (t.byte (t.sb + x.nb * n + j)).toNat)
  | 2 => (FVal.read f32 false (t.word (t.sa + 4 * (x.nb * m + j))),
          FVal.read f32 false (t.word (t.sb + 4 * j)))
  | _ => (.one, .one)

/-- A floating-point element of the result (R108). -/
def Matrix.floatElement (x : Matrix) (t : Step) (m n : Nat) (old : Word) : Word × Flags :=
  let (ta, tb) := mmaTypes x.kind
  (List.range x.nb).foldl (fun acc j =>
    let ks := (List.range (min x.kb (x.depth - j * x.kb))).map (fun i => j * x.kb + i)
    let pairs := ks.map (fun k =>
      (FVal.read (fmtOf ta) false (t.a m k), FVal.read (fmtOf tb) false (t.b k n)))
    let (sa, sb) := x.scales t m n j
    addBlock acc (blockValue pairs sa sb)) (old, 0)

/-- An integer element of the result, and what the exact sum exceeds it by, in units of 2^32 (R111). -/
def Matrix.intElement (x : Matrix) (t : Step) (m n : Nat) (old : Word) : Word × Int :=
  let w := x.elBits
  let sum := (List.range x.depth).foldl (fun (z : Int) k =>
    z + numOf true w (t.a m k) * numOf true w (t.b k n)) (numOf true 32 old.toNat)
  let r := wrapTo 32 sum
  (BitVec.ofNat 32 r, (sum - numOf true 32 r) / 2 ^ 32)

/-- One element of an accumulator as an MMA step leaves it (R199, R112), with its flags and what it wraps by. -/
def Matrix.element (x : Matrix) (t : Step) (m n : Nat) (old : Word) : Word × Flags × Int :=
  if x.depth = 0 then (old, 0, 0)
  else if x.kind = 1 || x.kind = 6 then
    let (v, z) := x.intElement t m n old
    (v, 0, z)
  else
    let (v, f) := x.floatElement t m n old
    (v, f, 0)

/-- An MMA or the first step of an MLOOP clears (R199, R202). -/
def Matrix.clears (x : Matrix) : Bool := x.clr && (x.op ≠ 5 || x.step = 0)

/-- One element's update, with the flags and wraps gathered in the instruction. -/
def Matrix.update (t : Step) (m n : Nat) (xw : Matrix × Workgroup) : Matrix × Workgroup :=
  let (x, w) := xw
  let (v, f, z) := x.element t m n (if x.clears then 0 else w.acc x.d m n)
  let k := m * 128 + n
  ({ x with flags := x.flags ||| f, wraps := x.wraps.set 0 k (x.wraps.get 0 k + z) }, w.setAcc x.d m n v)

/-- Block (mb, nb) of the accumulator written (R303). -/
def Matrix.writeBlock (x : Matrix) (t : Step) (b : Nat × Nat) (w : Workgroup) : Matrix × Workgroup :=
  (List.range' (64 * b.1) (min 64 (x.rowsM - 64 * b.1))).foldl (fun xw m =>
    (List.range' (64 * b.2) (min 64 (x.colsN - 64 * b.2))).foldl (fun xw n => Matrix.update t m n xw) xw) (x, w)

/-- The operands of a step: A from the tile or the scratchpad, B from the scratchpad (R197, R202). -/
def Matrix.operands (x : Matrix) (w : Workgroup) (i : Nat) : Step :=
  let (pa, pb, sa, sb) := x.addrs i
  let el := x.elBits
  let sp (base : Nat) : Nat → Nat → Byte := fun row c => x.byte w (base + 128 * row + c)
  let a : Nat → Nat → Nat :=
    if x.op = 5 then elementAt (sp pa) el
    else if bit 6 x.mod then fun m k => elementAt (w.tile x.a) el k m
    else elementAt (w.tile x.a) el
  { a := a, b := fun k n => elementAt (sp pb) el n k, byte := x.byte w, sa := sa, sb := sb }

/-- The sectors that the pass under way reads and has not read yet (R303). -/
def Matrix.capture (m : Matrix) (w : Workgroup) : Matrix :=
  { m with snap := ((m.passRegions m.step m.pass).flatMap Region.sectors).foldl (fun t k =>
      if (t.look k).isSome then t else t.put k (w.spSector (32 * k))) m.snap }

/-- The pass under way ends (R303). -/
def Matrix.runPass (m : Matrix) (w : Workgroup) : Matrix × Workgroup :=
  let m := m.capture w
  let (x, w) := m.writeBlock (m.operands w m.step) (m.blockOf m.pass) w
  ({ x with pass := m.pass + 1 }, w)

/-- The next n passes. -/
def Matrix.runPasses : Nat → Matrix → Workgroup → Matrix × Workgroup
  | 0, m, w => (m, w)
  | n + 1, m, w =>
    let (m, w) := m.runPass w
    Matrix.runPasses n m w

/-- Every pass that is left. -/
def Matrix.finish (m : Matrix) (w : Workgroup) : Matrix × Workgroup := Matrix.runPasses (m.passes - m.pass) m w

/-! ### Rows written (R194, R203 to R205, R305) -/

/-- MCVT's element (R204); the E4M3 NaN it gives is 0x7F whatever the sign of the source (R95). DESIGN CHOICE, log 80. -/
def Matrix.mcvt (m : Matrix) (x : Word) : Nat × Flags :=
  let ty := bits 9 5 m.mod
  let v := if bit 1 m.mod then FVal.ofInt (numOf true 32 x.toNat) else rd32 false x
  let p := FVal.mul v (FVal.read f32 false (m.b.toNat % 2 ^ 32))
  if ty = 0 then toIntTy 0 8 true p else convertFloat (fmtOf ty) 0 false m.sat p

/-- Numbers of w bits packed into bytes, lowest first. -/
def packBits (w : Nat) (l : List Nat) : List Byte :=
  toBytes (l.length * w / 8) (l.foldr (fun x t => x + 2 ^ w * t) 0)

/-- Row i of what TST, MSTA or MCVT writes, and its flags. -/
def Matrix.rowBytes (m : Matrix) (w : Workgroup) (i : Nat) : List Byte × Flags :=
  match m.op with
  | 1 => ((List.range 128).map (fun j => w.tile m.d i j), 0)
  | 7 => ((List.range 128).flatMap (fun j => toBytes 4 (w.acc m.d i j).toNat), 0)
  | _ =>
    let l := (List.range 128).map (fun j => m.mcvt (w.acc m.d i j))
    (packBits (tyBits (bits 9 5 m.mod)) (l.map (·.1)), orAll (l.map (·.2)))

/-- The head of a core's queue replaced. -/
def State.setMatrix (s : State) (core : Nat) (m : Matrix) : State :=
  s.setCore core { s.core core with matrix := (s.core core).matrix.set 0 m }

/-- Whole sectors written from a scratchpad offset, their words set full. -/
def Workgroup.putRow (w : Workgroup) (a : Nat) (bs : List Byte) : Workgroup :=
  (List.range (bs.length / 32)).foldl (fun w i =>
    w.spPutSector (a + 32 * i) (sectorOf ((bs.drop (32 * i)).take 32)) false) w

/-- A row waits until all its words are empty under .fe (R305). -/
def Matrix.rowReady (m : Matrix) (w : Workgroup) (i : Nat) : Bool :=
  match m.written with
  | r :: _ => !bit 0 m.mod || w.allEmpty (r.base + r.pitch * i) r.bytes
  | [] => false

/-- The next row of the running instruction written, if it may be. -/
def State.matrixRow (s : State) (core : Nat) : State :=
  match (s.core core).matrix with
  | [] => s
  | m :: _ =>
    let w := s.wg m.wg
    match m.written with
    | [] => s
    | r :: _ =>
      if !m.started || r.rows ≤ m.row || !m.rowReady w m.row then s
      else
        let (bs, f) := m.rowBytes w m.row
        (s.setWg m.wg (w.putRow (r.base + r.pitch * m.row) bs)).setMatrix core
          { m with row := m.row + 1, flags := m.flags ||| f }

/-! ### The engine's events -/

/-- Earlier accesses of the group to bytes the instruction reads or writes are outstanding (R205). -/
def State.matrixBusy (s : State) (m : Matrix) : Bool :=
  (s.group m.gid).accs.any (fun a => a.id < m.id && a.space = 1 &&
    a.lanes.any (fun l => m.allRegions.any (fun r => r.hits l.addr a.bytes)))

/-- An MMA takes its A operand from the latch (R200). -/
def Matrix.latched (m : Matrix) (h : Option HoldLatch) : Bool :=
  m.op = 4 && h = some ⟨m.gid, m.a, m.kind, bit 6 m.mod, m.rowsM, m.depth⟩

/-- The operand-collector latch as an instruction starts (R200). -/
def Matrix.latch (m : Matrix) (old : Option HoldLatch) : Option HoldLatch :=
  match m.op with
  | 4 => if bit 5 m.mod then some ⟨m.gid, m.a, m.kind, bit 6 m.mod, m.rowsM, m.depth⟩ else none
  | 5 => none
  | 0 | 2 => match old with
    | some h => if h.tile = m.d then none else old
    | none => none
  | 3 => match old with
    | some h => if bit 8 m.mod && m.mod.getLsbD h.tile then none else old
    | none => none
  | _ => old

/-- Regions share some byte. -/
def meets (l k : List Region) : Bool := l.any (fun r => k.any (fun q => q.parts.any (fun p => r.hits p.1 p.2)))

/-- An instruction reads a tile, or scratchpad bytes, that another wrote; not the tile of a latched A operand (R304). -/
def Matrix.reads (m p : Matrix) (h : Option HoldLatch) : Bool :=
  let wrote (t : Nat) : Bool := (p.op = 0 || p.op = 2) && p.d = t || p.op = 3 && bit 8 p.mod && p.mod.getLsbD t
  meets p.written m.readRegions || (m.op = 1 && wrote m.d) || (m.op = 2 && wrote m.a) ||
    (m.op = 4 && !m.latched h && wrote m.a)

/-- The cycle in which an instruction's first pass may begin: 8 cycles after its issue, and after the end of the one before
it when it reads what that wrote; MZERO needs no lead (R304). -/
def Core.leadOf (c : Core) (m : Matrix) : Nat :=
  if m.op = 3 then 0
  else
    match c.ended with
    | some (e, p) => max (m.since + 7) (if m.reads p c.hold then e + 8 else e)
    | none => m.since + 7

/-- MATRIX_INSTRUCTION_START (R189, R205, R304): the oldest instruction of a core begins, in a cycle after that of its issue, so
that those of lower-numbered slots issued in that cycle stand before it. -/
def execMatrixInstructionStart (core : Nat) (s : State) : Res :=
  match (s.core core).matrix with
  | [] => .next s
  | m :: _ =>
    if m.started || s.cycle < m.since || s.matrixBusy m || !s.mayWork (s.wg m.wg).ctx (512 + core) then .next s
    else
      let c := s.core core
      let s := s.setMatrix core { m with started := true, ready := c.leadOf m }
      .next (s.setCore core { s.core core with hold := m.latch c.hold })

/-- The words that a step waits for are full (R202); those for A, or for B. -/
def Matrix.stepReady (m : Matrix) (w : Workgroup) : Bool :=
  (m.regions m.step).all (fun r => !r.waits || r.words.all w.isFull)
def Matrix.sideReady (m : Matrix) (w : Workgroup) (side : Nat) : Bool :=
  (m.regions m.step).all (fun r => !r.waits || r.side ≠ side || r.words.all w.isFull)

/-- An MLOOP waits for words (R202). -/
def Matrix.waits (m : Matrix) : Bool := m.op = 5 && (m.mod.getLsbD 5 || m.mod.getLsbD 6)

/-- A running MLOOP's waits as far as they are over: for A first, then for B; a wait that is over stays so (R202). The
first pass begins 8 cycles after the words were full (R304). -/
def Matrix.noticed (m : Matrix) (w : Workgroup) (now : Nat) : Matrix :=
  if m.op ≠ 5 || !m.started || m.steps ≤ m.step then m
  else
    let m := if m.phase < 2 && m.full.isSome && !m.stepReady w then { m with full := none } else m
    let m := if m.phase = 0 && m.sideReady w 1 then { m with phase := 1 } else m
    if m.phase = 1 && m.sideReady w 2 then
      { m with phase := 2, ready := if m.waits then max m.ready (m.full.getD now + 8) else m.ready, full := none }
    else m

/-- The words that the step to come waits for are full: of an MLOOP that has not started its first, of one that runs the next,
whose words must not be among those that the running step will set empty (R202). -/
def Matrix.comingFull (m : Matrix) (w : Workgroup) : Bool :=
  let next := if m.started then m.step + 1 else 0
  let used := if m.started then (m.regions m.step).flatMap (fun r => if r.waits then r.words else []) else []
  m.waits && (next < m.steps) &&
    (m.regions next).all (fun r => !r.waits || r.words.all (fun k => w.isFull k && !used.contains k))

/-- What an instruction sees of the scratchpad's full bits in a cycle: waits that are over, and since when the words of the step
to come are full. -/
def Matrix.observe (m : Matrix) (w : Workgroup) (now : Nat) : Matrix :=
  let m := m.noticed w now
  if m.started && m.phase ≠ 2 then m
  else { m with full := if m.comingFull w then some (m.full.getD now) else none }

/-- The instruction or step has begun: it waits for no word. -/
def Matrix.begun (m : Matrix) : Bool := m.started && (m.op ≠ 5 || (m.step < m.steps && m.phase = 2))

/-- A sector of the next step of an MLOOP that waits for no words, read ahead in the last pass of the running step (R304). -/
def Matrix.fetchesNext (m : Matrix) (sec : Nat) : Bool :=
  m.op = 5 && !m.waits && m.step + 1 < m.steps && m.passes ≤ m.pass + 1 && (m.ahead.look sec).isNone &&
    (m.passRegions (m.step + 1) 0).any (fun r => r.hits (32 * sec) 32)

/-- A sector that the pass under way, or the one after it, reads and that has not been read (R303, R304). -/
def Matrix.fetches (m : Matrix) (sec : Nat) : Bool :=
  (m.snap.look sec).isNone &&
    (m.passRegions m.step m.pass ++ m.passRegions m.step (m.pass + 1)).any (fun r => r.hits (32 * sec) 32)

/-- The running instruction is in its last pass. -/
def Matrix.last (m : Matrix) : Bool :=
  m.begun && (m.op ≠ 4 && m.op ≠ 5 || m.passes ≤ m.pass + 1) && (m.op ≠ 5 || m.steps ≤ m.step + 1)

/-- A sector read by the running instruction, or ahead for its next step, or for the instruction behind it unless that reads
what this one writes (R205, R303, R304). DEDUCED, log 15. -/
def State.matrixRead (s : State) (core sec : Nat) : State :=
  match (s.core core).matrix with
  | [] => s
  | m :: rest =>
    let m := m.noticed (s.wg m.wg) s.cycle
    let s := s.setMatrix core m
    if m.begun && m.fetches sec then
      s.setMatrix core { m with snap := m.snap.put sec ((s.wg m.wg).spSector (32 * sec)) }
    else if m.begun && m.fetchesNext sec then
      s.setMatrix core { m with ahead := m.ahead.put sec ((s.wg m.wg).spSector (32 * sec)) }
    else
      match rest with
      | [] => s
      | n :: more =>
        if m.last && !n.waits && !s.matrixBusy n && !n.reads m (s.core core).hold && n.fetches sec then
          let n := { n with snap := n.snap.put sec ((s.wg n.wg).spSector (32 * sec)) }
          s.setCore core { s.core core with matrix := m :: n :: more }
        else s

/-- A pass of the running MMA or MLOOP step ends (R303). -/
def State.matrixPass (s : State) (core : Nat) : State :=
  match (s.core core).matrix with
  | [] => s
  | m :: _ =>
    let m := m.noticed (s.wg m.wg) s.cycle
    let s := s.setMatrix core m
    if (m.op = 4 || m.op = 5) && m.begun && m.pass < m.passes then
      let (x, w) := m.runPass (s.wg m.wg)
      (s.setWg m.wg w).setMatrix core x
    else s

/-- MLOOP_STEP (R202, R303): the next step of the running MLOOP is performed, once its waits are over; its words are set
empty after. -/
def execMloopStep (core : Nat) (s : State) : Res :=
  match (s.core core).matrix with
  | [] => .next s
  | m :: _ =>
    let w := s.wg m.wg
    let m := m.noticed w s.cycle
    if m.op ≠ 5 || !m.begun || !s.mayWork w.ctx (512 + core) then .next s
    else
      let (x, w) := m.finish w
      let used := (m.regions m.step).flatMap (fun r => if r.waits then r.words else [])
      let w := used.foldl Workgroup.setEmpty w
      .next ((s.setWg m.wg w).setMatrix core 
        { x with step := m.step + 1, phase := 0, pass := 0, snap := m.ahead, ahead := [] })

/-- The effect of an instruction that writes no rows and has no passes (R194, R202, R203). -/
def Matrix.apply (m : Matrix) (w : Workgroup) : Workgroup :=
  let bytes := List.range 16384
  match m.op with
  | 0 => bytes.foldl (fun w i => w.setTile m.d i (m.byte w (m.a + i))) w
  | 2 =>
    let src (i : Nat) : Byte :=
      if bit 0 m.mod then w.tile m.a (i % 128) (i / 128) else w.tile m.a (i / 128) (i % 128)
    bytes.foldl (fun v i => v.setTile m.d i (src i)) w
  | 3 =>
    let named (k : Nat) : Bool := m.mod.getLsbD (k / 16384)
    if bit 8 m.mod then { w with tiles := w.tiles.filter (fun e => !named e.1) }
    else { w with accs := w.accs.filter (fun e => !named e.1) }
  | 5 =>
    if m.steps = 0 && m.clr then
      (List.range m.rowsM).foldl (fun w i =>
        (List.range m.colsN).foldl (fun w j => w.setAcc m.d i j 0) w) w
    else w
  | 6 =>
    bytes.foldl (fun w i => w.setAcc m.d (i / 128) (i % 128)
      (BitVec.ofNat 32 (ofBytes ((List.range 4).map (fun j => m.byte w (m.a + 4 * i + j)))))) w
  | _ => w

/-- An instruction leaves the engine, complete, with its flags; OF where an exact sum is not its element (R100, R110, R111,
R189). -/
def State.endMatrix (s : State) (core : Nat) (m : Matrix) : State :=
  let s := s.setCore core { s.core core with matrix := (s.core core).matrix.drop 1, ended := some (s.cycle, m) }
  s.opDone m.gid m.id [] (some (1, m.flags ||| if m.wraps.isEmpty then 0 else flOF))

/-- Rows written as far as the words allow. -/
def State.matrixRows (s : State) (core : Nat) : State :=
  (List.range 128).foldl (fun s _ => s.matrixRow core) s

/-- MATRIX_INSTRUCTION_COMPLETE (R189): every read and write of the running instruction has been performed. -/
def execMatrixInstructionComplete (core : Nat) (s : State) : Res :=
  match (s.core core).matrix with
  | [] => .next s
  | m :: _ =>
    if !m.started || !s.mayWork (s.wg m.wg).ctx (512 + core) then .next s
    else if !m.written.isEmpty then
      let s := s.matrixRows core
      match (s.core core).matrix with
      | m :: _ => if m.row = 128 then .next (s.endMatrix core m) else .next s
      | [] => .next s
    else if m.op = 5 && m.step < m.steps then .next s
    else
      let (x, w) := if m.op = 4 then m.finish (s.wg m.wg) else (m, m.apply (s.wg m.wg))
      .next ((s.setWg m.wg w).endMatrix core x)

end Sys2Proof.Machine
end

