-- ==== Sys2Proof/Machine/Preempt.lean ====
section
/-! DEFINITION. Pre-emption: the decision, drain, flush-and-restart, save and restore (R311, R312, R326 to R330,
R388). -/

namespace Sys2Proof.Machine

/-! ### The request -/

/-- Resident time since the start, without time spent saved, in ns (R327). -/
def State.elapsed (s : State) (w : Workgroup) : Nat := w.elapsed + (s.time - w.started)

/-- The method of one workgroup by the table of R327: 1 drain, 2 flush-and-restart, 3 save. DEDUCED, log 63. -/
def State.method (s : State) (wi : Nat) : Nat :=
  let w := s.wg wi
  let x := s.launch w.launch
  let drain := (s.ctx w.ctx).drain * 1000
  let held := (s.wgLive wi).any (fun i => (s.group i).handler.isSome || (s.group i).trapMask ≠ 0)
  if held || x.meanN = 0 then 3
  else if x.meanSum ≤ (s.elapsed w + drain) * x.meanN then 1
  else if w.idem && w.restartable && s.elapsed w * x.meanN < x.meanSum then 2
  else 3

/-- The resident workgroups a request of a context takes: those no method is under way for. -/
def State.takes (s : State) (ctx : Nat) : List Nat :=
  (s.wgs.filter (fun e => e.2.ctx = ctx && e.2.preempt.isNone)).map (·.1)

/-- A method chosen for a workgroup. -/
def State.setMethod (s : State) (wi m : Nat) : State :=
  let w := s.wg wi
  s.setWg wi { w with preempt := some (m, s.time + (s.ctx w.ctx).drain * 1000) }

/-- PREEMPTION_REQUEST (R327): decided for every resident workgroup at this moment; one save of an all-resident
launch saves all of its workgroups. -/
def execPreemptionRequest (ctx : Nat) (s : State) : Res :=
  let c := s.ctx ctx
  if c.halted || 8 ≤ ctx || s.power.entering then .next s
  else
    let l := (s.takes ctx).map (fun wi => (wi, s.method wi))
    let all (wi : Nat) : Bool := (s.launch (s.wg wi).launch).allres &&
      l.any (fun e => e.2 = 3 && (s.wg e.1).launch = (s.wg wi).launch)
    let t := l.foldl (fun s e => s.setMethod e.1 (if all e.1 then 3 else e.2)) s
    let fin := c.preemptEnd.getD (s.time + c.deadline * 1000)
    .next ((t.setCtx ctx { t.ctx ctx with preemptEnd := some fin }).preemptFree ctx)

/-- DRAIN_EXPIRY (R329): a workgroup still resident DRAIN microseconds after the request is saved; with it, all of
an all-resident launch (R327). -/
def execDrainExpiry (wg : Nat) (s : State) : Res :=
  let w := s.wg wg
  match w.preempt with
  | some (1, t) =>
    if s.time < t || !s.mayWork w.ctx 808 then .next s
    else
      let l := if (s.launch w.launch).allres then
          (s.wgs.filter (fun e => e.2.launch = w.launch && e.2.preempt.isSome)).map (·.1)
        else [wg]
      .next (l.foldl (fun s wi => s.setMethod wi 3) s)
  | _ => .next s

/-- PREEMPTION_DEADLINE (R329): a partition not free in time halts the context with cause 0xC4; never during Camp
entry (R388). -/
def execPreemptionDeadline (ctx : Nat) (s : State) : Res :=
  let c := s.ctx ctx
  match c.preemptEnd with
  | none => .next s
  | some t =>
    if s.time < t || c.halted || s.power.entering then .next s
    else .next ((s.setCtx ctx { c with preemptEnd := none }).halt ctx 0xC4 0 808)

/-! ### Flush-and-restart -/

/-- A workgroup's groups leave their slots, and every slot makes the test of R223. -/
def State.vacate (s : State) (wi : Nat) : State :=
  let l := s.wgLive wi
  let s := l.foldl (fun s i => ([0, 1, 2, 3].foldl (fun s k => s.leaveWaits i k) s).freeGroup i) s
  ((l.map slotOf).eraseDups).foldl State.claimDeadlock (s.dropWorkgroup wi)

/-- FLUSH_AND_RESTART (R329): once the batches are complete the workgroup is discarded and unplaced again; one of a
cancelled level completes with status 1 instead (R323). -/
def execFlushAndRestart (wg : Nat) (s : State) : Res :=
  let w := s.wg wg
  match w.preempt with
  | some (2, _) =>
    if !s.mayWork w.ctx 808 || (s.wgLive wg).any (fun i => s.engineWork i || !(s.group i).toPerform.isEmpty) then .next s
    else
      let x := s.launch w.launch
      let cores := if x.cores.contains w.core then x.cores else x.cores ++ [w.core]
      let t := (s.setLaunch w.launch { x with again := x.again.filter (· < w.wgid) ++ w.wgid :: x.again.filter (w.wgid < ·), cores := cores }).vacate wg
      let hit := (s.ctx w.ctx).counters.any (fun k => k.cancelled && k.launches.contains w.launch)
      .next (if hit then t.dropUnplaced w.launch else t)
  | _ => .next s

/-! ### Save -/

/-- An access that can make no progress before engine work that the save records: it follows that work (R283), or
a matrix instruction has still to read its bytes (R205). -/
def State.accHeld (s : State) (gid : Nat) (a : Acc) : Bool :=
  !s.canPerform gid a ||
    (a.space = 1 && a.kind.writes && !a.lanes.isEmpty && a.lanes.all (fun e => s.matrixHolds gid a.id e.addr a.bytes))

/-- The matrix engine is at a boundary of R206 for a workgroup: nothing of it runs, or an MLOOP stands between steps or
waits for words, or a row waits for its words. -/
def State.matrixAtRest (s : State) (wi : Nat) : Bool :=
  match (s.core (s.wg wi).core).matrix with
  | [] => true
  | m :: _ =>
    m.wg ≠ wi || !m.started ||
      (if m.op = 5 then m.phase ≠ 2 else !m.written.isEmpty && m.row < 128 && !m.rowReady (s.wg wi) m.row)

/-- A group can be saved now: what R129, R184, R206, R217 and R237 make a save wait for is over. -/
def State.groupAtRest (s : State) (gid : Nat) (camp : Bool) : Bool :=
  let g := s.group gid
  g.accs.all (s.accHeld gid) && g.replies.isEmpty && !s.enqs.any (fun e => e.gid = gid) &&
    !g.liveSplits.any (fun i => (g.split i).wait = .publish) &&
    !s.xchgs.any (fun q => q.gid = gid && q.stage = 2) &&
    !s.searches.any (fun e => e.2.gid = gid && !e.2.read) &&
    (camp || !(s.core (coreOf gid)).near.any (fun n => n.gid = gid))

/-- A target whose rows have been given away: what arrives for it is discarded (R270). -/
def staleTarget : Target := .v 0 1024 16

/-- A target as a save records it. -/
def Target.kept (t : Target) (g : Group) (gens : Tab Nat) : Target :=
  if t.current gens && t.held g then t else staleTarget

/-- A split in the save record (R261, R311): its wait before issue is over, and its instruction is its next. DEDUCED, log 64. -/
def Split.kept (x : Split) : Split :=
  let w : Wait := match x.wait with | .bar => .bar | .relay => .relay | _ => .none
  { x with wait := w, pend := if w = .relay then x.pend else none, readyAt := 0, last := 0, why := 0,
           yieldTo := [], yieldEnd := 0 }

/-- A group in the save record (R330), without its tokens, which the record holds apart. -/
def Group.kept (g0 : Group) (gens : Tab Nat) : Group :=
  let g := g0.settleAll
  let kept (t : Target) : Target := t.kept g0 gens
  { g with
    splits := g.splits.map (fun e => (e.1, e.2.kept)), tokens := [],
    accs := g.accs.map (fun a => { a with target := kept a.target }),
    pending := g.pending.map (fun p => (p.1, kept p.2.1, p.2.2)),
    deferred := g.deferred.map (fun d => { d with target := kept d.target }), fresh := [] }

/-- The save record of a workgroup (R330): every group with the batch states and remainders of its engines. -/
def State.record (s : State) (wi : Nat) (camp : Bool) : Saved :=
  let w := s.wg wi
  let live := s.wgLive wi
  let idx (i : Nat) : Nat := (s.group i).idx
  let mine (i : Nat) : Bool := live.contains i
  let core := s.core w.core
  { wg := { w with elapsed := s.elapsed w, groups := [], barred := [], preempt := none, want := none },
    groups := live.map (fun i => (idx i, (s.group i).kept (s.gens i))),
    tokens := live.map (fun i => (idx i, (s.group i).settleAll.tokens.map Token.pack)),
    barred := (w.barred.filter mine).map idx,
    copies := (core.copies.filter (fun c => mine c.gid)).map (fun c => { c.unstaged with gid := idx c.gid }),
    matrix := (core.matrix.filter (fun m => mine m.gid)).map
      (fun m => { m with gid := idx m.gid, started := false, phase := 0, pass := 0 }),
    near := (core.near.filter (fun n => mine n.gid)).map
      (fun n => { n with gid := idx n.gid, target := n.target.kept (s.group n.gid) (s.gens n.gid) }),
    xchg := (s.xchgs.filter (fun q => mine q.gid)).map
      (fun q => { q with gid := idx q.gid, stage := 0, target := q.target.kept (s.group q.gid) (s.gens q.gid) }),
    power := camp }

/-- A core's engines without a workgroup's work; the latch is released (R200, R206). -/
def Core.without (c : Core) (ids : List Nat) : Core :=
  { c with
    copies := c.copies.filter (fun k => !ids.contains k.gid), matrix := c.matrix.filter (fun k => !ids.contains k.gid),
    near := c.near.filter (fun k => !ids.contains k.gid),
    hold := match c.hold with | some h => if ids.contains h.gid then none else some h | none => none }

/-- The groups' splits leave the waits before issue, but not BAR and RELAY (R217, R223, R311, R326). -/
def State.leaveAll (s : State) (wi : Nat) : State :=
  (s.wgLive wi).foldl (fun s i => (s.group i).liveSplits.foldl (fun s k =>
    if ((s.group i).split k).wait = .bar then s else s.leaveWaits i k) s) s

/-- A workgroup saved, its resources freed (R293, R330). -/
def State.saveNow (s : State) (wi : Nat) (camp : Bool) : State :=
  let s := (s.leaveAll wi).l1WritebackAll (s.wg wi).core
  let v := s.record wi camp
  let core := v.wg.core
  let ids := s.wgLive wi
  let gone := ((s.core core).near.filter (fun n => ids.contains n.gid)).map (·.id)
  let x := s.launch v.wg.launch
  let cores := if x.cores.contains core then x.cores else x.cores ++ [core]
  let s := { (s.setLaunch v.wg.launch { x with cores := cores }).setCore core ((s.core core).without ids) with
    saved := s.saved ++ [v], cacheWait := s.cacheWait.filter (fun i => !gone.contains i) }
  let s := ids.foldl (fun s i => s.setGroup i { s.group i with batches := [] }) s
  (s.withdraw (fun q => ids.contains q.gid)).vacate wi

/-- The workgroup can be saved now. -/
def State.saveReady (s : State) (wi : Nat) (camp : Bool) : Bool :=
  s.matrixAtRest wi && (s.wgLive wi).all (fun i => s.groupAtRest i camp)

/-- WORKGROUP_SAVE (R330, R388): once every operation it waits for is over; Camp entry saves in a debug halt too. -/
def execWorkgroupSave (wg : Nat) (s : State) : Res :=
  let w := s.wg wg
  match w.preempt with
  | some (3, _) =>
    let camp := s.power.entering
    let open_ := s.mayWork w.ctx 808 || (camp && (s.ctx w.ctx).debugHalt)
    if s.saveReady wg camp && open_ && !(s.wgLive wg).isEmpty then .next (s.saveNow wg camp) else .next s
  | _ => .next s

/-! ### Restore -/

/-- A recorded target under its group's new rows and generation (R129, R269, R388). -/
def Target.moved (t : Target) (phys : List Nat) (gens : Tab Nat) : Target :=
  let ph (r : Nat) : Nat := phys.getD r 1024
  match t with
  | .v r _ k => if k = 16 then t else .v r (ph r) (gens.get 0 (ph r))
  | .vPair r r2 .. => .vPair r r2 (ph r) (ph r2) (gens.get 0 (ph r)) (gens.get 0 (ph r2))
  | t => t

/-- A recorded group on its new slot. -/
def Group.moved (g : Group) (wi now : Nat) (phys : List Nat) (gens : Tab Nat) : Group :=
  let mv (t : Target) : Target := t.moved phys gens
  { g with
    wg := wi, since := now, splits := g.splits.map (fun e => (e.1, { e.2 with last := now })),
    accs := g.accs.map (fun a => { a with target := mv a.target }),
    pending := g.pending.map (fun p => (p.1, mv p.2.1, p.2.2)),
    deferred := g.deferred.map (fun d => { d with target := mv d.target }) }

/-- The recorded groups with their tokens (R260, R261). -/
def Saved.whole (v : Saved) : List (Nat × Group) :=
  v.groups.map (fun e => (e.1, { e.2 with
    tokens := ((v.tokens.find? (fun t => t.1 = e.1)).map (·.2)).getD [] |>.map Token.unpack }))

/-- A memory-bound group that comes to a slot joins its rotation list (R273). -/
def State.rejoinRotation (s : State) (gid : Nat) : State :=
  let k := slotOf gid
  let sl := s.slot k
  if 32 < ((s.group gid).recent.filter id).length then
    s.setSlot k { sl with rotation := stampRotation (s.slotLimit k) s.cycle (sl.rotation ++ [(gid, 0)]) }
  else s

/-- The recorded groups put on their slots: index and number of each. -/
def State.putSaved (core b wi : Nat) : List (Nat × Group) → State → Option (State × List (Nat × Nat))
  | [], s => some (s, [])
  | (idx, g) :: l, s =>
    match s.putGroup core b idx g.alloc g with
    | none => none
    | some (s, gid) =>
      let x := s.group gid
      let s := (s.setGroup gid (x.moved wi s.cycle x.phys (s.gens gid))).rejoinRotation gid
      (State.putSaved core b wi l s).map (fun r => (r.1, (idx, gid) :: r.2))

/-- A saved workgroup restored on a core (R206, R293, R312, R330): new generations, clean L1 lines invalidated,
remainders handed to the engines, unmatched XCHG requests sent again. -/
def State.restoreAt (s : State) (v : Saved) (core b : Nat) : Option State :=
  let (wi, s) := s.nextId
  let s := { s with saved := s.saved.erase v }
  match State.putSaved core b wi v.whole s with
  | none => none
  | some (s, ids) =>
    let num (idx : Nat) : Nat := ((ids.find? (fun e => e.1 = idx)).map (·.2)).getD (2 ^ 32)
    let mv (idx : Nat) (t : Target) : Target := t.moved (s.group (num idx)).phys (s.gens (num idx))
    let c := s.core core
    let c := { c with
      copies := c.copies ++ v.copies.map (fun k => { k with gid := num k.gid, wg := wi }),
      matrix := c.matrix ++ v.matrix.map (fun k => { k with gid := num k.gid, wg := wi }),
      near := c.near ++ v.near.map (fun k => { k with gid := num k.gid, wg := wi, target := mv k.gid k.target }) }
    let w := { v.wg with
      core := core, base := b, started := s.time, groups := (List.range v.wg.ngrp).map num,
      barred := v.barred.map num }
    let s := (s.setCore core c).setWg wi w
    let again := v.xchg.map (fun (q : Xchg) => { q with gid := num q.gid, target := mv q.gid q.target })
    let s := again.foldl State.sendXchg { s with xchgs := s.xchgs ++ again }
    some ((ids.foldl (fun s e => s.deliver e.2) s).l1InvalidateClean core)

/-- A candidate's workgroups placed, saved ones first (R319, R327). -/
def State.resumeAll (l : Nat) : List (Nat × Nat) → State → Option State
  | [], s => some s
  | (c, b) :: rest, s =>
    let t := match s.savedOf l with
      | v :: _ => s.restoreAt v c b
      | [] => State.startAll l [(c, b)] s
    match t with
    | none => none
    | some t => State.resumeAll l rest t

/-- WORKGROUP_RESTORE (R275, R319, R330): the first candidate that fits, when it has something saved; `core`
chooses among equals. -/
def execWorkgroupRestore (core : Nat) (s : State) : Res :=
  match s.candidates.find? (fun e => s.fitsNow e.1 e.2) with
  | none => .next s
  | some (l, x) =>
    if (s.savedOf l).isEmpty then .next s
    else
      match s.whereTo core l x with
      | none => .next s
      | some places =>
        match State.resumeAll l places (s.passOver l x) with
        | none => .next s
        | some t => .next t

end Sys2Proof.Machine
end

