-- ==== Sys2Proof/Machine/Halt.lean ====
section
/-! DEFINITION. Halts, stop records, release, debug, and the writes of control registers as events (R262, R299, R324,
R339, R341, R356, R375 to R379, R385, R387, R393). -/

namespace Sys2Proof.Machine

/-- CONTEXT_HALT (R375): a fatal event, one of the causes 0xC0 to 0xC4, reaches the halt controller. -/
def execContextHalt (ctx : Nat) (cause : BitVec 8) (faddr : BitVec 64) (engine : Nat) (s : State) : Res :=
  if 8 ≤ ctx || cause < 0xC0 || 0xC4 < cause then .next s else .next (s.halt ctx cause faddr engine)

/-! ### Stops -/

/-- The context's resident groups of a slot. -/
def State.ctxGroups (s : State) (ctx slot : Nat) : List Nat :=
  ((s.slotGroups slot).filter (fun e => e.2.ctx = ctx)).map (·.1)

/-- Operations of a context not complete on an engine (OPEN of R377). -/
def State.openOps (s : State) (ctx engine : Nat) : Nat :=
  let copies (n : Nat) : Nat := ((s.core n).copies.filter (fun c => c.ctx = ctx)).length
  let matrix (n : Nat) : Nat := ((s.core n).matrix.filter (fun m => (s.wg m.wg).ctx = ctx)).length
  let near (k : Nat) : Nat := s.cores.foldl (fun n e =>
    n + (e.2.near.filter (fun c => c.ctx = ctx && c.stack = k)).length) 0
  let walkers (k e : Nat) : Nat := (s.walkers.filter (fun w =>
    !w.2.travel && w.2.stack = k && w.2.engine = e && (s.search w.2.search).ctx = ctx)).length
  if engine < 512 then
    (s.ctxGroups ctx engine).foldl (fun n i =>
      n + (s.group i).accs.length + (s.enqs.filter (fun e => e.gid = i)).length) 0
  else if engine < 640 then matrix (engine - 512)
  else if engine < 768 then copies (engine - 640)
  else if engine < 776 then near (engine - 768)
  else if engine < 808 then walkers ((engine - 776) / 4) ((engine - 776) % 4)
  else (s.launches.filter (fun e => e.2.ctx = ctx)).length

/-- Cycles of an engine's own clock in a time: core cycles, or 2 GHz cycles below and at the base dies (R294, R377). -/
def State.skid (s : State) (engine ns : Nat) : Nat := if engine < 768 then ns * s.power.clock / 1000 else 2 * ns

/-- When an engine has stopped (R376): now, or at the end of its 2 µs at a fatal halt. -/
def State.stopTime (s : State) (c : Context) (engine : Nat) : Nat :=
  if c.inSkid s.time engine then s.time else c.haltTime + 2000

/-- An engine's stop record written (R377). -/
def State.writeRecord (s : State) (ctx engine : Nat) : State :=
  let c := s.ctx ctx
  let slot := engine < 512
  let r : StopRecord :=
    { lastPc := if slot then (s.slot engine).lastPc.toNat else 0, tstop := s.stopTime c engine,
      skid := s.skid engine (s.stopTime c engine - c.haltTime), opened := s.openOps ctx engine,
      groups := if slot then (s.ctxGroups ctx engine).foldl (fun n i => n + 2 ^ (i % 16)) 0 else 0,
      valid := c.held.contains engine }
  let put (t : Tab DWord) (e : Nat × DWord) : Tab DWord := t.put (0x2000 + 8 * engine + e.1) e.2
  s.setCtx ctx { c with tables := ((List.range 8).zip (r.words ctx engine c)).foldl put c.tables }

/-- A debug halt lets an engine stop only where R184, R206, R237 and R379 say: no write is abandoned, no near-memory
command is left, no queue operation stands past its reservation. DEDUCED, log 67. -/
def State.atDebugStop (s : State) (ctx engine : Nat) : Bool :=
  if engine < 512 then
    (s.ctxGroups ctx engine).all (fun i =>
      let g := s.group i
      g.accs.all (s.accHeld i) && !s.enqs.any (fun e => e.gid = i) &&
        !g.liveSplits.any (fun k => (g.split k).wait = .publish))
  else if engine < 640 then
    match (s.core (engine - 512)).matrix with
    | m :: _ => s.matrixAtRest m.wg
    | [] => true
  else if 768 ≤ engine && engine < 776 then s.openOps ctx engine = 0
  else true

/-- The waits before issue of a group end; its instructions issue anew (R311, R379). -/
def State.leaveGroup (s : State) (gid : Nat) : State :=
  let s := (s.group gid).liveSplits.foldl (fun s k =>
    if ((s.group gid).split k).wait = .bar || ((s.group gid).split k).wait = .relay then s else s.leaveWaits gid k) s
  let g := s.group gid
  let free (x : Split) : Split :=
    match x.wait with
    | .bar | .relay => x
    | _ => { x with wait := .none, pend := none }
  s.setGroup gid { g with splits := g.splits.map (fun e => (e.1, free e.2)) }

/-- A group of a context halted for good (R376): its parked waiters leave their lists, what it has not performed is
not performed, and it issues nothing more. -/
def State.killGroup (s : State) (gid : Nat) : State :=
  let s := [0, 1, 2, 3].foldl (fun s k => s.leaveWaits gid k) s
  let g := s.group gid
  let s := ({ s with enqs := s.enqs.filter (fun e => e.gid ≠ gid) }).withdraw (fun q => q.gid = gid)
  s.setGroup gid { g with splits := [], accs := [], traps := [], relay := none }

/-- The context's work on an engine ends (R376). -/
def State.killEngine (s : State) (ctx engine : Nat) : State :=
  if engine < 512 then (s.ctxGroups ctx engine).foldl State.killGroup s
  else if engine < 640 then
    let c := s.core (engine - 512)
    s.setCore (engine - 512) { c with matrix := c.matrix.filter (fun m => (s.wg m.wg).ctx ≠ ctx) }
  else if engine < 768 then
    let c := s.core (engine - 640)
    s.setCore (engine - 640) { c with copies := c.copies.filter (fun k => k.ctx ≠ ctx) }
  else if engine < 776 then
    let cut (c : Core) : Core := { c with near := c.near.filter (fun n => !(n.ctx = ctx && n.stack = engine - 768)) }
    { s with cores := s.cores.map (fun e => (e.1, cut e.2)) }
  else if engine < 808 then s.dropSeated ((engine - 776) / 4) ((engine - 776) % 4) ctx
  else
    let mine := s.searches.filter (fun e => e.2.ctx = ctx)
    mine.foldl (fun s e => s.quitSearch e.1 e.2) { s with arrivals := s.arrivals.filter (fun a => a.ctx ≠ ctx) }

/-- A group whose slot has stopped for the debugger: DBGFOCUS names the split that issued last, in the skid too, and its
waiters leave their lists (R379). -/
def State.stopGroup (s : State) (gid : Nat) : State :=
  let g := s.group gid
  (s.setGroup gid { g with dbgfocus := BitVec.ofNat 32 g.lastSplit }).leaveGroup gid

/-- ENGINE_HALT_STOP (R376, R377, R379): the engine stops the context's work and writes its record. -/
def execEngineHaltStop (ctx engine : Nat) (s : State) : Res :=
  let c := s.ctx ctx
  if !c.halted || !c.stopping.contains engine || (c.debugHalt && !s.atDebugStop ctx engine) then .next s
  else
    let t := s.writeRecord ctx engine
    let t := if !c.debugHalt then t.killEngine ctx engine
      else if engine < 512 then (t.ctxGroups ctx engine).foldl State.stopGroup t else t
    let c := t.ctx ctx
    .next (t.setCtx ctx { c with stopping := without c.stopping engine }.settleSteps)

/-- CONTEXT_RELEASE (R376): the searches that are left end with the rest. -/
def execContextRelease (writer ctx : Nat) (s : State) : Res := .next (s.releaseWrite writer ctx)

/-! ### Debug -/

def execDebugHaltRequest (ctx : Nat) (s : State) : Res := .next (s.haltRequest ctx)
def execDebugStep (ctx : Nat) (s : State) : Res := .next (s.stepRequest ctx)
def execDebugResume (ctx : Nat) (s : State) : Res := .next (s.resume ctx)

/-- What a STEP has done: the group's count of issues tells whether it issued; its engines may work until they stop
again, and STEPS is then set (R262, R379). -/
def State.stepDone (s : State) (ctx gid issued : Nat) : State :=
  let n := if (s.group gid).issued = issued then 0 else 1
  let c := s.ctx ctx
  let core := coreOf gid
  let walks := s.searches.any (fun e => e.2.ctx = ctx)
  let more := if n = 0 || !c.debugHalt then c.stopping else
    ([slotOf gid, 512 + core, 640 + core] ++ (List.range 8).map (768 + ·)).filter (fun e => s.openOps ctx e ≠ 0) ++
      (if walks then (List.range 32).map (776 + ·) else [])
  s.setCtx ctx { c with stepReq := none, stopping := more, steps := some n }.settleSteps

/-! ### Register writes -/

/-- POWER_CONTROL_READ (R385): S-level code of any context reads it; LAST clears. -/
def execPowerControlRead (_reader : Nat) (s : State) : Res := .next s.clearLast

/-- CAMPREQ (R385, R387): written by the owner context. -/
def execCampreq (writer : Nat) (s : State) : Res := .next (if writer = s.owner then s.campTrigger else s)

def execPartitionTableWrite (writer cluster : Nat) (v : BitVec 8) (s : State) : Res :=
  .next (if writer = s.owner then s.assign cluster v else s)
def execFabricWeightWrite (ctx : Nat) (v : BitVec 32) (s : State) : Res :=
  .next (s.setCtx ctx ((s.ctx ctx).setWeights v))
def execSchedulingRegisterWrite (ctx : Nat) (v : BitVec 64) (s : State) : Res :=
  .next (s.setCtx ctx ((s.ctx ctx).setSched v))
def execMigrationControlWrite (ctx : Nat) (v : BitVec 64) (s : State) : Res :=
  .next (s.setCtx ctx ((s.ctx ctx).setMigration v))

/-- QP_BINDING_WRITE (R356): the entry's two words; queue pairs 0 to 4,095. -/
def execQpBindingWrite (ctx qp : Nat) (lo hi : BitVec 64) (s : State) : Res :=
  if 4096 ≤ qp then .next s
  else
    let c := s.ctx ctx
    .next ((s.setCtx ctx { c with tables := c.tables.set 0 (0x10000 + 2 * qp + 1) hi }).bindQp ctx qp lo)

/-- CONTROL_SPACE_WRITE (R27): a store of S-level code, naturally aligned, at a register's width. -/
def execControlSpaceWrite (writer addr size : Nat) (v : BitVec 64) (s : State) : Res :=
  if (size = 1 || size = 2 || size = 4 || size = 8) && addr % size = 0 && s.window addr = some 3 then
    .next (s.ctlWrite writer addr size v)
  else .next s

def execShootdownPortWrite (ctx : Nat) (va : BitVec 64) (s : State) : Res := .next (s.startShootdown ctx va.toNat)

/-- A cached entry translates an address of a context. -/
def TlbEntry.covers (t : TlbEntry) (ctx va : Nat) : Bool := (findTlb [t] ctx va).isSome

/-- Every core and cluster cache drops the entry of an address (R339). -/
def State.dropTlb (s : State) (ctx va : Nat) : State :=
  { s with
    cores := s.cores.map (fun e => (e.1, { e.2 with tlb := e.2.tlb.filter (fun t => !t.covers ctx va) })),
    clusters := s.clusters.map (fun e => (e.1, { e.2 with tlb := e.2.tlb.filter (fun t => !t.covers ctx va) })),
    inEffect := s.inEffect.filter (fun t => !t.covers ctx va) }

/-- Two addresses lie in the page that an entry in effect maps. -/
def State.shotPage (s : State) (ctx va a : Nat) : Bool :=
  let n := match s.leafFor ctx va with
    | some (_, _, true) => 2 ^ 29
    | _ => 2 ^ 16
  decide (a / n = va / n)

/-- Queue and muster operations of a context that an entry has translated have not been performed (R339): those that are
parked and those under way. Every other access is translated in the step that performs it. -/
def State.shotBusy (s : State) (ctx va : Nat) : Bool :=
  s.waiters.any (fun w => (s.group w.gid).ctx = ctx && s.shotPage ctx va w.va) ||
    s.enqs.any (fun e => (s.group e.gid).ctx = ctx && s.shotPage ctx va e.va)

/-- SHOOTDOWN_COMPLETE (R339): the k-th shootdown of a context under way, once every access that the entry translated has
been performed. -/
def execShootdownComplete (ctx k : Nat) (s : State) : Res :=
  let c := s.ctx ctx
  match c.shootdowns[k]? with
  | none => .next s
  | some va =>
    if s.shotBusy ctx va then .next s
    else .next ((s.setCtx ctx { c with shootdowns := c.shootdowns.eraseIdx k }).dropTlb ctx va)

def execPoolPortWrite (ctx : Nat) (pa : BitVec 64) (s : State) : Res := .next (s.grantFrame ctx pa.toNat)

end Sys2Proof.Machine
end

