-- ==== Sys2Proof/Machine/Migration.lean ====
section
/-! DEFINITION. Migration between the capacity tier and HBM (R341 to R344), row repair (R335), scrubbing (R367). -/

namespace Sys2Proof.Machine

/-- MIGRATION_WINDOW_END (R341): a new window has begun; the counters of the context's pages are cleared. -/
def execMigrationWindowEnd (ctx : Nat) (s : State) : Res := .next (s.rollWindow ctx)

/-- The 2,048 sectors of a 64 KiB frame, by physical address ÷ 32. -/
def frameSectors (pa : Nat) : List Nat := (List.range 2048).map (fun i => pa / 32 + i)

/-- A leaf entry written at its home slice (R342). -/
def State.setEntry (s : State) (leaf : Nat) (e : DWord) : State :=
  s.homeWrite (leaf / 32) (byteMask (leaf % 32) 8) (e.setWidth 256 <<< (8 * (leaf % 32)))

/-- Every cached translation by an entry dropped: the shootdown the engine makes (R339, R342). -/
def State.dropLeaf (s : State) (leaf : Nat) : State :=
  { s with
    cores := s.cores.map (fun e => (e.1, { e.2 with tlb := e.2.tlb.filter (fun t => t.leaf ≠ leaf) })),
    clusters := s.clusters.map (fun e => (e.1, { e.2 with tlb := e.2.tlb.filter (fun t => t.leaf ≠ leaf) })),
    inEffect := s.inEffect.filter (fun t => t.leaf ≠ leaf) }

/-- Step 1 of R342: MB set, a shootdown made. DEDUCED, log 53. -/
def State.moveBegins (s : State) (leaf : Nat) : State :=
  { (s.setEntry leaf (s.peek64 leaf ||| 0x100)).dropLeaf leaf with busy := leaf :: s.busy }

/-- Step 2: every L1 and every slice replaces a frame's lines, and no instruction cache keeps any. -/
def State.replaceFrame (s : State) (pa : Nat) : State :=
  let l := frameSectors pa
  let s := s.cores.foldl (fun s e =>
    (e.2.l1.keys.filter (fun k => k / 2048 = pa / 65536)).foldl (fun s k => s.l1Flush e.1 k) s) s
  let s := { s with cores := s.cores.map (fun e =>
    (e.1, { e.2 with icache := e.2.icache.filter (fun x => x.1 / 2048 ≠ pa / 65536) })) }
  l.foldl (fun s k => s.sliceClean k true) s

/-- Step 3: 64 KiB copied, poison marks included; every read passes the ECC checker (R366, R367). -/
def State.copyFrame (s : State) (src dst : Nat) : State :=
  ((frameSectors src).zip (frameSectors dst)).foldl (fun s e =>
    let k := s.dram (e.1 * 32) / 32
    let (s, poison, _) := s.eccRead k
    s.writeDram (s.dram (e.2 * 32) / 32) (dramSector s.mem k) poison) s

/-- An address in one frame named in another. -/
def inFrame (src dst pa : Nat) : Nat := if pa / 65536 = src / 65536 then dst + pa % 65536 else pa

/-- Parked waiters and pending operations of the blocks and musters in a frame go on at their new addresses (R343), and so do
the searches of an index whose record lies there (R347). -/
def State.moveObjects (s : State) (src dst : Nat) : State :=
  let f := inFrame src dst
  let wait (w : Wait) : Wait := match w with
    | .queue b enq => .queue (f b) enq
    | .muster a => .muster (f a)
    | w => w
  { s with
    waiters := s.waiters.map (fun w => { w with block := f w.block }),
    enqs := s.enqs.map (fun e => { e with block := f e.block }),
    searches := s.searches.map (fun e => (e.1, { e.2 with ipa := f e.2.ipa })),
    groups := s.groups.map (fun g => (g.1, { g.2 with
      splits := g.2.splits.map (fun x => (x.1, { x.2 with wait := wait x.2.wait })) })) }

/-- Steps 2 to 4: the page moves to a frame, T as given. -/
def State.moveEnds (s : State) (leaf src dst : Nat) (t : Bool) : State :=
  let s := ((s.replaceFrame src).replaceFrame dst).copyFrame src dst
  let e := s.peek64 leaf
  let e : DWord := (e &&& 0x0000_0000_0000_FEBF) ||| BitVec.ofNat 64 (dst + if t then 64 else 0)
  { ((s.setEntry leaf e).dropLeaf leaf).moveObjects src dst with busy := without s.busy leaf }

/-- A frame holds a queue control block or muster with parked waiters or pending operations (R343). -/
def State.frameWaits (s : State) (pa : Nat) : Bool :=
  s.waiters.any (fun w => w.block / 65536 = pa / 65536) || s.enqs.any (fun e => e.block / 65536 = pa / 65536)

/-- A queued page may be promoted (R341, R343). -/
def State.promotable (s : State) (page leaf : Nat) : Bool :=
  let e := s.peek64 leaf
  let f := capBase + page * 65536
  bit 0 e && bit 7 e && bit 6 e && !bit 4 e && !bit 3 e && bits 51 16 e * 65536 = f &&
    !s.pageShared.contains page && !s.frameWaits f

/-- The clock hand of R343: set bits are cleared and passed over; the first clear one is the page to demote. A page
whose move is under way is passed over. -/
def clockHand (busy : List Nat) : Nat → Nat → List (Nat × Nat × Nat × Bool) →
    Option (Nat × List (Nat × Nat × Nat × Bool))
  | 0, _, _ => none
  | k + 1, h, l =>
    match l[h]? with
    | none => if l.isEmpty then none else clockHand busy k 0 l
    | some (p, f, a, set) =>
      if busy.contains a then clockHand busy k (h + 1) l
      else if set then clockHand busy k (h + 1) (l.set h (p, f, a, false)) else some (h, l)

/-- A promotion finds the pool empty: the slice's engine begins to demote one promoted page of the context (R343). -/
def State.demoteOne (s : State) (slice ctx : Nat) : State :=
  let c := s.ctx ctx
  match clockHand s.busy (3 * c.promoted.length + 3) c.hand c.promoted with
  | none => s
  | some (h, l) =>
    let s := s.setCtx ctx { c with hand := h, promoted := l }
    match l[h]? with
    | some (page, frame, leaf, _) =>
      { s.moveBegins leaf with moves := s.moves ++ [⟨slice, page, ctx, leaf, frame, true⟩] }
    | none => s

/-- A move ends (R342): a demotion returns its frame to the pool; a promotion makes the page the last promoted one. -/
def State.endMove (s : State) (m : Move) : State :=
  let home := capBase + m.page * 65536
  let s := { s with moves := s.moves.erase m }
  if m.down then
    let s := s.moveEnds m.leaf m.frame home true
    let c := s.ctx m.ctx
    let i := c.promoted.findIdx (fun e => e.2.2.1 = m.leaf)
    s.setCtx m.ctx { c with
      pool := c.pool ++ [m.frame], promoted := c.promoted.filter (fun e => e.2.2.1 ≠ m.leaf),
      hand := if i < c.hand then c.hand - 1 else c.hand }
  else
    let s := (s.moveEnds m.leaf home m.frame false).clearPage m.page
    let c := s.ctx m.ctx
    { s.setCtx m.ctx { c with promoted := c.promoted ++ [(m.page, m.frame, m.leaf, false)] } with
      promote := s.promote.filter (fun q => q.2.1 ≠ m.page) }

/-- PAGE_PROMOTION (R341 to R343): the next step of a slice's migration engine. A move begun is ended; else the page at
the head of the queue is taken: one that may not be promoted leaves the queue, its count cleared; with an empty pool a
page is demoted first. -/
def execPagePromotion (slice : Nat) (s : State) : Res :=
  match s.moves.find? (fun m => m.slice = slice) with
  | some m => .next (s.endMove m)
  | none =>
    match s.promote.find? (fun e => e.1 = slice) with
    | none => .next s
    | some q =>
      let (_, page, ctx, leaf) := q
      let c := s.ctx ctx
      if !bit 0 c.migration || !s.promotable page leaf then
        .next ({ s with promote := s.promote.erase q }.clearPage page)
      else
        match c.pool with
        | [] => .next (s.demoteOne slice ctx)
        | h :: rest =>
          let s := (s.setCtx ctx { c with pool := rest }).moveBegins leaf
          .next { s with moves := s.moves ++ [⟨slice, page, ctx, leaf, h, false⟩] }

/-! ### The stack controller -/

/-- The DRAM sectors of a row (R336), by address ÷ 32. -/
def rowSectors (stack pc bank row : Nat) : List Nat :=
  let a := blBase + stack * 2 ^ 36 + pc * 2 ^ 29 + bank * 2 ^ 25 + row * 2 ^ 11
  (List.range 64).map (fun i => a / 32 + i)

/-- ROW_REPAIR (R335, R367): the row is copied to a spare row of its bank, errors met recorded, marks copied; with no
spare row left the pseudo-channel is recorded for retirement. `bank` is 4 × bank group + bank. -/
def execRowRepair (stack pc bank row : Nat) (s : State) : Res :=
  if 8 ≤ stack || 128 ≤ pc || 16 ≤ bank || 16384 ≤ row then .next s
  else
    let used := (s.repaired.filter (fun e => e.1 = stack && e.2.1 = pc && e.2.2.1 = bank)).length
    if used < Config.spareRows then
      let s := (rowSectors stack pc bank row).foldl (fun s k => (s.eccRead k).1) s
      .next { s with repaired := (stack, pc, bank, row) :: s.repaired }
    else
      let ch := stack * 128 + pc
      .next (if s.retire.contains ch then s else { s with retire := ch :: s.retire })

/-- SCRUB (R366, R367): a DRAM sector read by the stack controller: errors are recorded, lasting ones marked. -/
def execScrub (sector : Nat) (s : State) : Res :=
  if sector * 32 < blBase || capBase ≤ sector * 32 then .next s else .next (s.eccRead sector).1

end Sys2Proof.Machine
end

