-- ==== Sys2Proof/Machine/Power.lean ====
section
/-! DEFINITION. The power manager, Camp, cold initialisation and the management controller's own work (R31, R335, R384 to
R391, R395 to R399). -/

namespace Sys2Proof.Machine

/-! ### The core clock (R31) -/

/-- The mean of some measurements against 1,900 W. -/
def vsBudget (l : List Nat) : Ordering := compare (l.foldl (· + ·) 0) (1_900_000 * l.length)

/-- POWER_MEASUREMENT (R31): one step of 125 MHz down above the average's budget, two above 1,960 W; one up only
from below the budget, and only when the manager finds that the average would stay below it: open. The average is that of
the measurements of the last millisecond, or of those made since reset while there are fewer (DESIGN CHOICE, log 20). -/
def execPowerMeasurement (milliwatts : Nat) (s : State) : Res :=
  let p := s.power
  let l := (milliwatts :: p.samples).take 100
  let down (n : Nat) : Nat := max 1000 (p.clock - 125 * n)
  let clock :=
    if 1_960_000 < milliwatts then down 2
    else if vsBudget l = .gt then down 1
    else if vsBudget l = .lt && Config.freeBit (s.fresh * 2 ^ 16) then min 4000 (p.clock + 125) else p.clock
  .next { s with power := { p with samples := l, clock := clock }, fresh := s.fresh + 1 }

/-! ### Camp -/

/-- The compute dies lose their power (R384, R387): every L1 writes back its dirty lines, each slice those of the addresses
below `top`; what the dies held of memory and of translations is gone, and with it the fabric's packets. -/
def State.diesDown (s : State) (top : Nat) : State :=
  let s := s.cores.foldl (fun s e => s.l1WritebackAll e.1) s
  let s := (s.slice.keys.filter (fun k => k * 32 < top)).foldl (fun s k => s.sliceClean k true) s
  { s with
    ports := [], cores := s.cores.map (fun e => (e.1, { e.2 with l1 := [], icache := [], tlb := [] })),
    clusters := s.clusters.map (fun e => (e.1, { e.2 with tlb := [] })) }

/-- Ring messages are delivered to their target stops (R387): walkers that hop and searches' spawns; a message to a heap unit or
a walker waits at its stop in any case, and is applied after the exit. -/
def State.settleRing (s : State) : State :=
  (s.msgs.filter (fun m => m.stop.isSome)).foldl (fun s m => s.arriveStop m (m.stop.getD 0))
    { s with msgs := s.msgs.filter (fun m => m.stop.isNone) }

/-- Steps 2 to 4 of Camp entry (R387): dirty lines are written back, those of the capacity tier kept for exit step 2;
what has arrived and not been applied is dropped; the dies and the ports are off. A debug halt stays one. DEDUCED, log 70. -/
def State.campEnter (s : State) : State :=
  let s := s.settleRing.diesDown capBase
  let p := s.power
  let n : BitVec 16 := if p.campcnt = BitVec.allOnes 16 then p.campcnt else p.campcnt + 1
  { s with
    ctxs := s.ctxs.map (fun e => (e.1, { e.2 with preemptEnd := none })),
    net := s.net.map (fun e => (e.1, { e.2 with held := [] })), links := [],
    power := { p with state := .camp, entering := false, campcnt := n, campStart := s.time, lastDeep := 4 } }

/-- Step 1 of Camp entry is over: every resident workgroup is saved but those of contexts halted for good, and no debug
halt is half way. -/
def State.campReady (s : State) : Bool :=
  s.power.entering && s.wgs.all (fun e => (s.ctx e.2.ctx).dead) &&
    s.ctxs.all (fun e => !e.2.debugHalt || e.2.stopping.isEmpty)

/-- CAMP EXIT (R384, R389, R390): the lines kept for the capacity tier are written to it, migration counters cleared; 40 ms
after its start saved workgroups are restored (R330). -/
def State.campLeave (s : State) : State :=
  let s := s.slice.keys.foldl (fun s k => s.sliceClean k true) s
  { s with
    pageCount := [], pageLeaf := [], pageCtx := [], pageShared := [],
    time := s.time + 40_000_000,
    power := { s.power with state := .run, campns := BitVec.ofNat 64 (s.time - s.power.campStart) } }

/-- CAMP_EXIT (R389): the warning has been low for 100 ms without interruption; a Camp entered by CAMPREQ or MGMT with the
warning low ends only on the sideband. An input that has never risen has been low since reset. -/
def execCampExit (s : State) : Res :=
  let p := s.power
  if p.state = .camp && p.campByWarning && !p.warning && p.warnFell.getD 0 + 100_000_000 ≤ s.time then .next s.campLeave
  else .next s

/-- POWER_FAIL_WARNING (R387, R389): the input rises. -/
def execPowerFailWarning (s : State) : Res :=
  let s := { s with power := { s.power with warning := true, warnFell := none } }
  .next (s.campTrigger true)

/-- POWER_FAIL_WARNING_FALL (R389). -/
def execPowerFailWarningFall (s : State) : Res :=
  .next (if s.power.warning then { s with power := { s.power with warning := false, warnFell := some s.time } } else s)

/-! ### Idle states (R384) -/

/-- A split is ready or will be without another agent: it is neither parked nor in a wait of R46, R167 or the coordination
chapter (R271); one held by its stall count, an interlock or the throttle counts, since nothing ends an idle state for it.
DEDUCED, log 105. -/
def Split.ready (x : Split) (now : Nat) : Bool :=
  x.live && !x.parked && (match x.wait with
    | .none => true
    | .retry c => decide (c ≤ now) || !([3, 4, 5, 6, 9, 10, 11].contains x.why)
    | _ => false)

/-- The condition of Idle-1 to Idle-3: no split ready, no engine, walker, migration or network work outstanding, and
nothing for the distributor to place. -/
def State.quiet (s : State) : Bool :=
  s.groups.all (fun e =>
    e.2.accs.isEmpty && e.2.replies.isEmpty && !e.2.retiring && !e.2.splits.any (fun x => x.2.ready s.cycle)) &&
  s.cores.all (fun e => e.2.copies.isEmpty && e.2.matrix.isEmpty && e.2.near.isEmpty) &&
  s.enqs.isEmpty && s.arrivals.isEmpty && s.searches.isEmpty && s.walkers.isEmpty && s.msgs.isEmpty &&
  s.promote.isEmpty && s.busy.isEmpty && s.moves.isEmpty &&
  s.net.all (fun e => e.2.unacked.isEmpty && e.2.held.isEmpty && e.2.ackDue.isNone) &&
  !s.candidates.any (fun e => s.fitsNow e.1 e.2) && s.ctxs.all (fun e => e.2.preemptEnd.isNone)

/-- The deepest state whose exit latency LTOL (µs) admits: Idle-3 only when every workgroup can be saved. -/
def State.deepest (s : State) : PowerState :=
  let l := s.power.ltol.toNat
  if 3000 ≤ l && s.wgs.all (fun e => s.saveReady e.1 true || (s.ctx e.2.ctx).dead) then .idle3
  else if 80 ≤ l then .idle2
  else if 2 ≤ l then .idle1 else .run

/-- IDLE_ENTRY (R384, R385): Idle-3 saves every resident workgroup and turns the compute dies off. -/
def execIdleEntry (s : State) : Res :=
  if s.power.state ≠ .run || s.power.entering || !s.quiet then .next s
  else
    let d := s.deepest
    let s := if d = .idle3 then
        ((s.wgs.filter (fun e => !(s.ctx e.2.ctx).dead)).foldl (fun s e => s.saveNow e.1 true) s).diesDown (2 ^ 56)
      else s
    .next { s with power := { s.power with state := d, lastDeep := max s.power.lastDeep d.code } }

/-- One of Idle-1 to Idle-3. -/
def PowerState.idle : PowerState → Bool
  | .idle1 | .idle2 | .idle3 => true
  | _ => false

/-- The earliest SLEEP of any group has reached its end. -/
def State.sleepOver (s : State) : Bool :=
  let ended (g : Group) : Bool := g.sleeps.any (fun e => e.2 ≤ s.time)
  s.groups.any (fun e => e.2.live && ended e.2) || s.saved.any (fun v => v.groups.any (fun e => ended e.2))

/-- The exit latency of an idle state, in ns (R384). -/
def PowerState.exitNs : PowerState → Nat
  | .idle1 => 2_000
  | .idle2 => 80_000
  | .idle3 => 3_000_000
  | _ => 0

/-- The device is back in Run one exit latency later (R384). -/
def State.leaveIdle (s : State) : State :=
  if s.power.state.idle then
    { s with time := s.time + s.power.state.exitNs, power := { s.power with state := .run } } else s

/-- IDLE_EXIT (R384): a SLEEP has reached its end; a frame or a management command ends an idle state as it
arrives. -/
def execIdleExit (s : State) : Res := .next (if s.sleepOver then s.leaveIdle else s)

/-! ### Elements from outside (R361, R395, R397) -/

/-- A remote agent's access: at the home slices (R277, R355), a request's whole range in one step. DEDUCED, log 72. -/
def remote (ctx : Nat) (super : Bool) : For := { core := 0, ctx := ctx, super := super, wg := 0, ctl := true }

/-- A remote agent's QENQ.try: the status of R361, or nothing while a page is in migration. A block or slot that does
not translate halts the context (R26). DEDUCED, log 72. -/
def State.remoteEnq (s : State) (ctx va : Nat) (element : List Byte) : Option (State × Nat) :=
  if va = 0 || va % 64 ≠ 0 then some (s, 2)
  else
    match s.translate ctx true false 1 va with
    | .busy => none
    | .fault c => some (s.halt ctx c (BitVec.ofNat 64 va) 809, 3)
    | .ok pa _ _ =>
      if (queueFails (s.peekBytes pa 64) ctx none false false).isSome then some (s, 2)
      else
        let q := s.qRead pa
        if q.elem < element.length then some (s, 2)
        else if q.free ≤ (s.waiters.filter (fun w => !w.isMuster && w.enq && w.block = pa)).length then some (s, 1)
        else
          let i := (q.tail + q.penq) % 2 ^ 32
          let bytes := (element ++ List.replicate (q.elem - element.length) 0).map (fun b => (b, false))
          match s.putBytes (q.elem / 32) (remote ctx true) ⟨0, q.slot i⟩ bytes with
          | (_, .busy) => none
          | (_, .fault c a) => some (s.halt ctx c (BitVec.ofNat 64 a) 809, 3)
          | (s, .ok _) =>
            let s := s.qWrite pa { q with free := q.free - 1, penq := q.penq + 1 }
            let (id, s) := s.nextId
            let e : Enq := { id := id, gid := 2 ^ 32, sid := 0, block := pa, index := i, size := q.elem, stream := 0, space := 0,
                             src := 0, target := .none, lanes := 0, published := true }
            let s := { s with enqs := s.enqs ++ [e] }
            some (State.advanceTail s.enqs.length pa s, 0)

/-! ### Cold initialisation (R395) -/

/-- The image that fails its verification first, 0 for none (R395; DESIGN CHOICE, log 21). -/
def State.failingImage (s : State) : Nat :=
  ([1, 2, 3].find? (fun n => !Config.imageValid n (s.mgmt.images.get [] n))).getD 0

/-- The supervisor launch queue of a context is created (R315, R392, R400): its root, its entry of the queue table and its
empty block. DESIGN CHOICE, log 101. -/
def State.createSupervisor (s : State) (ctx : Nat) : State :=
  let c := s.ctx ctx
  let va := Config.supervisorQueue ctx
  let s := s.setCtx ctx { c with root := Config.bootRoot ctx &&& 0x000F_FFFF_FFFE_0000, tables := c.tables.set 0 0x210 va }
  match s.settledPa ctx 1 va.toNat with
  | none => s
  | some pa =>
    let cap := 1 + Config.supervisorCapacity ctx % 16
    s.qWrite pa
      { esz := 1, scope := 1 + Config.supervisorScope ctx % 2, blk := true, md := true, logcap := cap, owner := ctx, lq := true,
        head := 0, tail := 0, free := 2 ^ cap, enqw := 0, deqw := 0, penq := 0, pdeq := 0,
        slots := Config.supervisorSlots ctx }

/-- The queues of all contexts are created and the supervisor is loaded into that of context 0 (R395 step 5, R400). -/
def State.loadSupervisor (s : State) : State :=
  let s := { s with mem := Config.bootMemory.foldl (fun m e => m.setByte e.1 e.2) s.mem }
  let s := (List.range 8).foldl State.createSupervisor s
  match s.remoteEnq 0 (s.queueVa 0 16) Config.supervisorManifest with
  | some (t, 0) => t
  | _ => s

/-- The device after a cold initialisation before its supervisor is loaded: everything is as after reset but for what the
management controller keeps in its flash; retired channels leave the live list (R335, R395). DEDUCED, log 71. -/
def State.cold (s : State) : State :=
  let bad := s.failingImage
  let ok := bad = 0
  { State.reset with
    booted := ok, links := if ok then [(0, true), (1, true)] else [],
    mgmt := { s.mgmt with failing := bad }, repaired := s.repaired, retire := s.retire,
    retired := (s.retired ++ s.retire).eraseDups.take 1023, populated := s.populated, device := s.device, owner := s.owner,
    mgmtList := s.mgmtList, mac0 := s.mac0, mac1 := s.mac1, ip0 := s.ip0, ip1 := s.ip1, fresh := s.fresh,
    ids := s.ids, turns := s.turns,
    time := s.time, power := { warning := s.power.warning, warnFell := s.power.warnFell } }

/-- COLD INITIALISATION (R335, R395, R400): the device comes up, and its supervisor starts, only when every image passes. -/
def State.coldInit (s : State) : State := if s.failingImage = 0 then s.cold.loadSupervisor else s.cold

def execColdInitialisation (s : State) : Res := .next s.coldInit

/-! ### Status and attestation -/

/-- A number in n bytes, saturating. -/
def satBytes (n x : Nat) : List Byte := toBytes n (min x (2 ^ (8 * n) - 1))

/-- The status block (R397). -/
def State.statusBlock (s : State) : List Byte :=
  let lasting := (List.range 8).foldl (fun n k => n + s.baseDie.get 0 (8 * k + 7)) 0
  toBytes 1 s.power.state.code ++ toBytes 1 s.power.lastDeep ++ toBytes 2 s.power.campcnt.toNat ++
    satBytes 2 lasting ++ toBytes 2 (1024 - s.live) ++ toBytes 1 s.mgmt.failing ++ List.replicate 7 0

/-- What the report says of an image (R397). -/
def State.imageReport (s : State) (n : Nat) : List Byte :=
  let image := s.mgmt.images.get [] n
  (List.range 32).map (Config.digest n image) ++ toBytes 4 (Config.securityVersion n image).toNat ++ List.replicate 4 0

/-- The attestation report (R396, R397). -/
def State.report (s : State) (nonce : List Byte) : List Byte :=
  nonce ++ toBytes 2 s.device.toNat ++ toBytes 2 s.live ++ List.replicate 4 0 ++ (List.range 16).map Config.serial ++
    toBytes 2 s.power.campcnt.toNat ++ List.replicate 6 0 ++ toBytes 8 s.time ++ s.imageReport 1 ++ s.imageReport 2 ++
    s.imageReport 3 ++ List.replicate 64 0

/-- The 7,856-byte signature over a report. -/
def signatureOf (report : List Byte) : List Byte := (List.range 7856).map (Config.signature report)

/-- Bank error registers of some near-bank units (R368, R397). -/
def State.bankRegs (s : State) (stack unit n : Nat) : List Byte :=
  (List.range (32 * n)).flatMap (fun i =>
    toBytes 8 (s.bankErr.get (BitVec.ofNat 64 (i % 32)) (stack * 2048 + unit * 32 + i)).toNat)

/-! ### The sideband (R399) -/

/-- A reply on the sideband, newest first. -/
def State.sideReply (s : State) (l : List Byte) : State :=
  { s with mgmt := { s.mgmt with sideband := l :: s.mgmt.sideband } }

/-- A transaction is NACKed and has no effect. -/
def State.nack (s : State) : State := { s with mgmt := { s.mgmt with nacks := s.mgmt.nacks + 1 } }

def execSidebandReadStatus (s : State) : Res := .next (s.sideReply s.statusBlock)

/-- SIDEBAND 0x11: in Camp it ends Camp; otherwise it is ignored (R389, R399). -/
def execSidebandEndCamp (data : BitVec 8) (s : State) : Res :=
  .next (if data = 0xA5 && s.power.state = .camp then s.campLeave else s)

/-- SIDEBAND 0x12 (R387). -/
def execSidebandEnterCamp (data : BitVec 8) (s : State) : Res :=
  .next (if data = 0xA5 && s.booted then s.campTrigger true else s)

/-- The compute dies are off: Idle-3, Camp, or not initialised (R384, R395, R399). -/
def State.diesOff (s : State) : Bool := !s.booted || s.power.state = .idle3 || s.power.state = .camp

/-- SIDEBAND 0x20: images 1 to 3; the staging area is cleared. -/
def execSidebandSelectImage (image : BitVec 8) (s : State) : Res :=
  if !s.diesOff || image = 0 || 3 < image then .next s.nack
  else .next { s with mgmt := { s.mgmt with selected := image.toNat, staging := [], recovery := 1 } }

/-- SIDEBAND 0x21: 1 to 28 bytes at an offset below 16 MiB. -/
def execSidebandWriteStaging (offset : BitVec 32) (data : List (BitVec 8)) (s : State) : Res :=
  if !s.diesOff || data.isEmpty || 28 < data.length || 2 ^ 24 < offset.toNat + data.length then .next s.nack
  else .next { s with mgmt := { s.mgmt with staging := (offset.toNat, data) :: s.mgmt.staging } }

/-- The staging area up to its last byte written: the newest write of a byte counts, the others are zero. -/
def stagedImage (l : List (Nat × List Byte)) : List Byte :=
  let size := l.foldl (fun n e => max n (e.1 + e.2.length)) 0
  (List.range size).map (fun i =>
    match l.find? (fun e => e.1 ≤ i && i < e.1 + e.2.length) with
    | some e => e.2.getD (i - e.1) 0
    | none => 0)

/-- SIDEBAND 0x22: the staged image is verified; when it passes it goes to flash and a cold initialisation starts. -/
def execSidebandVerifyImage (data : BitVec 8) (s : State) : Res :=
  if !s.diesOff then .next s.nack
  else if data ≠ 0xA5 || s.mgmt.selected = 0 then .next s
  else
    let n := s.mgmt.selected
    let image := stagedImage s.mgmt.staging
    if Config.imageValid n image then
      .next { s with mgmt := { s.mgmt with images := s.mgmt.images.put n image, recovery := 4 } }.coldInit
    else .next { s with mgmt := { s.mgmt with recovery := 3 } }

def execSidebandReadRecovery (s : State) : Res := .next (s.sideReply (toBytes 4 s.mgmt.recovery))
def execSidebandNack (s : State) : Res := .next s.nack

end Sys2Proof.Machine
end

