-- ==== Sys2Proof/Machine/Network.lean ====
section
/-! DEFINITION. Ethernet: waybill streams, remote enqueues and copies, top-k exchange, RoCEv2 requests, MGMT waybills
(R188, R352 to R364, R391, R396, R397). -/

namespace Sys2Proof.Machine

/-! ### The tables of R357 -/

/-- The 32 bytes of entry i of a table whose first word is k. -/
def Context.entry32 (c : Context) (k i : Nat) : List Byte :=
  (List.range 4).flatMap (fun j => toBytes 8 (c.tables.get 0 (k + 4 * i + j)).toNat)

/-- The peer entry of a device number, if the table has one (R353). -/
def Context.peer (c : Context) (dev : Nat) : Option (List Byte) :=
  ((List.range 4096).map (c.entry32 0x4000)).find? (fun e => field e 0 0 = 1 && field e 111 96 = dev)

/-- Regions of a context that some test admits (R357). -/
def Context.region (c : Context) (ok : List Byte → Bool) (va n : Nat) : Bool :=
  ((List.range 4096).map (c.entry32 0xC000)).any (fun e =>
    field e 0 0 = 1 && ok e && field e 191 128 ≤ va && va + n ≤ field e 191 128 + field e 255 192)

/-- The reduction binding of an id (R364). -/
def Context.binding (c : Context) (rid : Nat) : Option (List Byte) :=
  ((List.range 256).map (c.entry32 0x8000)).find? (fun e => field e 0 0 = 1 && field e 127 96 = rid)

/-- Every page of a range is mapped and admits the access; a page in migration makes it wait. -/
inductive Pages where
  | ok
  | busy
  | fault
deriving DecidableEq, Repr

def State.pages (s : State) (ctx va n : Nat) (want : Want) : Pages :=
  let l := (pagesOf va n).map (fun p => s.translate ctx false false want p.1)
  if l.any (fun t => match t with | .fault _ => true | _ => false) then .fault
  else if l.any (· = .busy) then .busy else .ok

/-! ### Streams (R360) -/

def State.stream (s : State) (k : Nat) : NetStream := s.net.get { peer := k / 8, ctx := k % 8 } k
def State.setStream (s : State) (k : Nat) (x : NetStream) : State := { s with net := s.net.put k x }

/-- The number of the stream pair with a peer for a context. -/
def waybillKey (w : Waybill) : Nat := w.src.toNat * 8 + w.ctx.toNat

/-- RTO in ns, and RLIM, of the network register (R360). -/
def Context.rto (c : Context) : Nat := c.network.toNat % 65536 * 1000
def Context.rlim (c : Context) : Nat := c.network.toNat / 65536 % 16

/-- SACK: which of the 32 numbers after ACK are held (R358). -/
def NetStream.sack (x : NetStream) : BitVec 32 :=
  (List.range 32).foldl (fun m j =>
    if x.held.any (fun w => w.seq.toNat = x.rxAck + 1 + j) then m ||| ((1 : BitVec 32) <<< j) else m) 0

/-- The 32-byte header of a waybill (R358): ACK, SEQ, SACK, LEN, DST, SRC, reserved, CTX, reserved, AO, TYPE, VER from bit 255
down. -/
def waybillHeader (w : Waybill) : BitVec 256 :=
  w.ack ++ w.seq ++ w.sack ++ BitVec.ofNat 16 w.payload.length ++ w.dst ++ w.src ++ (0 : BitVec 13) ++ w.ctx ++
    (if w.rsvd then (1 : BitVec 15) else 0) ++ BitVec.ofBool w.ao ++ w.typ ++ w.ver

/-- The waybill of a header and what follows it: LEN is the payload's length, at most 8,192 (R358). -/
def readWaybill (h : BitVec 256) (payload : List Byte) : Option Waybill :=
  if (h.extractLsb' 80 16).toNat ≠ payload.length || 8192 < payload.length then none
  else
    some { ack := h.extractLsb' 192 64, seq := h.extractLsb' 128 64, sack := h.extractLsb' 96 32, dst := h.extractLsb' 64 16,
           src := h.extractLsb' 48 16, ctx := h.extractLsb' 32 3, ao := h.getLsbD 16, typ := h.extractLsb' 8 8,
           ver := h.extractLsb' 0 8, rsvd := h.extractLsb' 35 13 ≠ 0 || h.extractLsb' 17 15 ≠ 0, payload := payload }

/-- A waybill for a stream's peer. -/
def State.makeWaybill (s : State) (k typ seq : Nat) (ao : Bool) (payload : List Byte) : Waybill :=
  let x := s.stream k
  { src := s.device, dst := BitVec.ofNat 16 (k / 8), ctx := BitVec.ofNat 3 (k % 8), typ := BitVec.ofNat 8 typ,
    ver := 1, seq := BitVec.ofNat 64 seq, ack := BitVec.ofNat 64 x.rxAck, sack := x.sack, ao := ao, rsvd := false,
    payload := payload }

/-- A waybill sent: kept until it is acknowledged; it carries the acknowledgement that was due (R360). -/
def State.send (s : State) (k typ : Nat) (payload : List Byte) : State × Waybill :=
  let x := s.stream k
  let w := s.makeWaybill k typ x.txNext false payload
  let due := s.time + (s.ctx (k % 8)).rto
  ({ s.setStream k { x with txNext := x.txNext + 1, unacked := x.unacked ++ [(w, 0, due)], ackDue := none } with
    outbox := s.outbox ++ [w] }, w)

/-- A waybill is covered by an acknowledgement. -/
def covered (ack : Nat) (sack : BitVec 32) (seq : Nat) : Bool :=
  seq ≤ ack || (ack < seq && seq ≤ ack + 32 && sack.getLsbD (seq - ack - 1))

/-- A CPYR's peer stream: destination device and context of g(k+1) (R188). -/
def Copy.stream' (c : Copy) : Nat := bits 15 0 (c.ctl.getD 1 0) * 8 + bits 18 16 (c.ctl.getD 1 0)

/-- Every copy changed, of the cores and of saved workgroups. -/
def State.mapCopies (s : State) (f : Copy → Copy) : State :=
  { s with
    cores := s.cores.map (fun e => (e.1, { e.2 with copies := e.2.copies.map f })),
    saved := s.saved.map (fun v => { v with copies := v.copies.map f }) }

/-- ACK and SACK of a waybill that arrives: what they cover is released; a TOPK record acknowledged is a copy done
(R360, R364). -/
def State.acknowledge (s : State) (k : Nat) (w : Waybill) : State :=
  let x := s.stream k
  let ack := w.ack.toNat
  let s := s.setStream k { x with
    unacked := x.unacked.filter (fun e => !covered ack w.sack e.1.seq.toNat), unreachable := false }
  s.mapCopies (fun c => match c.topk with
    | some q => if c.kind = 3 && c.stream' = k && covered ack w.sack q then { c with sent := false, topk := none } else c
    | none => c)

/-! ### Remote enqueues (R361) -/

/-- What an ENQ names: a launch queue, or a queue control block (R361). -/
def State.enqTarget (s : State) (ctx target : Nat) : Nat :=
  if target / 2 ^ 63 % 2 = 1 then s.queueVa ctx (target % 16) else target

/-- ENQ performed: its status (R361, R400). The supervisor queue's block is named by no ENQ (R392). DESIGN CHOICE, log 95. -/
def State.performEnq (s : State) (ctx : Nat) (payload : List Byte) : Option (State × Nat) :=
  let va := s.enqTarget ctx (ofBytes (payload.take 8))
  if !(s.ctx ctx).live then some (s, 3)
  else if payload.length < 8 || (s.settledPa ctx 0 va).any (s.supervisorBlock ctx) then some (s, 2)
  else s.remoteEnq ctx va (payload.drop 8)

/-! ### Remote copies, served (R357, R362, R363) -/

/-- Data bytes a waybill carries at most: the whole sectors within 8,176 (R362). DEDUCED, log 72. -/
def chunk : Nat := 8160

/-- GETDATA waybills for a range, or one refusal. -/
def State.serveGet (s : State) (k : Nat) (payload : List Byte) : Option State :=
  let f := field payload
  let (tag, len, va) := (payload.take 4, f 63 32, f 127 64)
  let head (off count : Nat) : List Byte := tag ++ toBytes 4 off ++ toBytes 4 count ++ List.replicate 4 0
  let refuse : State := (s.send k 4 (head 0 0xFFFF_FFFF)).1
  if payload.length < 24 || !(s.ctx (k % 8)).region (fun e => field e 4 3 = 3) va len then some refuse
  else
    match s.pages (k % 8) va len 0 with
    | .busy => none
    | .fault => some refuse
    | .ok =>
      match s.getBytes (sectorsOf va len) (remote (k % 8) false) ⟨0, va⟩ len with
      | (t, .ok bs, _) =>
        let data := openBytes (t.fresh * 2 ^ 16) bs
        let t := { t with fresh := t.fresh + 1 }
        some ((List.range ((len + chunk - 1) / chunk)).foldl (fun t i =>
          let part := (data.drop (chunk * i)).take chunk
          (t.send k 4 (head (chunk * i) part.length ++ part)).1) t)
      | _ => none

/-- PUT: its data written at .dev in sectors, or refused; PUTACK reports the bytes of the tag written so far, the waybills
of a tag coming in ascending order (DEDUCED, log 29). -/
def State.servePut (s : State) (k : Nat) (payload : List Byte) : Option (State × Waybill) :=
  let f := field payload
  let (tag, off, va) := (payload.take 4, f 63 32, f 127 64)
  let data := payload.drop 16
  let reply (n : Nat) : List Byte := tag ++ List.replicate 4 0 ++ toBytes 8 n
  let refuse := s.send k 6 (reply (2 ^ 64 - 1))
  if payload.length < 16 || !(s.ctx (k % 8)).region (fun e => field e 4 4 = 1 && field e 2 2 = 1) (va + off) data.length then
    some refuse
  else
    match s.pages (k % 8) (va + off) data.length 1 with
    | .busy => none
    | .fault => some refuse
    | .ok =>
      match s.putBytes (sectorsOf (va + off) data.length) (remote (k % 8) false) ⟨0, va + off⟩
          (data.map (fun b => (b, false))) with
      | (t, .ok _) => some (t.send k 6 (reply (off + data.length)))
      | _ => none

/-! ### Remote copies, asked for (R188, R362) -/

/-- The core and place of a copy in flight with a tag. -/
def State.findCopy (s : State) (k tag : Nat) : Option (Nat × Nat × Copy) :=
  s.cores.findSome? (fun e =>
    (e.2.copies.findIdx? (fun c => c.kind = 3 && c.id % 2 ^ 32 = tag && c.stream' = k)).bind (fun i =>
      (e.2.copies[i]?).map (fun c => (e.1, i, c))))

/-- A saved workgroup holds the copy: its data are taken after the restore (R184, R391). -/
def State.copySaved (s : State) (k tag : Nat) : Bool :=
  s.saved.any (fun v => v.copies.any (fun c => c.kind = 3 && c.id % 2 ^ 32 = tag && c.stream' = k))

/-- A copy ends with a late condition (R162, R188): 5 refused, 6 unreachable. -/
def Copy.refused (c : Copy) (sub : Nat) : Copy :=
  { c with units := [], sent := false, topk := none, fail := some (sub, BitVec.ofNat 64 c.src.addr) }

/-- GETDATA: its data are written locally (R182, R362), the waybills of a tag coming in ascending address order; in a debug
halt it is not taken yet (R376). -/
def State.takeData (s : State) (k : Nat) (payload : List Byte) : Option State :=
  let f := field payload
  let (tag, off, count) := (f 31 0, f 63 32, f 95 64)
  match s.findCopy k tag with
  | none => if s.copySaved k tag then none else some s
  | some (core, i, c) =>
    if !s.mayWork c.ctx (640 + core) then (if (s.ctx c.ctx).debugHalt then none else some s)
    else if count = 0xFFFF_FFFF then some (s.setCopy core i (c.refused 5))
    else
      let data := ((payload.drop 16).take count).map (fun b => (b, false))
      let rest := c.units.filter (fun u => match u with
        | .get o => off + data.length < o + 32
        | _ => true)
      let (l, now, tail) := c.gathered rest.isEmpty { c.dst with addr := c.dst.addr + off } data
      match s.putBytes (sectorsOf l.addr now.length) (c.who core) l now with
      | (_, .busy) => none
      | (_, .fault cause a) => some (s.haltCopy core i c cause a)
      | (t, .ok _) => some (t.setCopy core i { c with units := rest, tail := tail, sent := c.sent && !rest.isEmpty })

/-- PUTACK: the bytes written, or a refusal (R188, R362). -/
def State.takePutAck (s : State) (k : Nat) (payload : List Byte) : Option State :=
  let f := field payload
  let (tag, n) := (f 31 0, f 127 64)
  match s.findCopy k tag with
  | none => if s.copySaved k tag then none else some s
  | some (core, i, c) =>
    if n = 2 ^ 64 - 1 then some (s.setCopy core i (c.refused 5))
    else if c.units.isEmpty && bits 31 0 (c.ctl.getD 0 0) ≤ n then some (s.setCopy core i { c with sent := false })
    else some s

/-- Bytes of a top-k record (R364): 16 + 16 K, K its byte 4. A record whose K lies outside 1 to 128 travels as far as the
2,064 bytes of the rule. DESIGN CHOICE, log 99. -/
def topkBytes (record : List Byte) : Nat := 16 + 16 * min 128 (record.getD 4 0).toNat

/-- The length of the record at a place: its first sector read. -/
def State.topkLength (s : State) (c : Copy) (core : Nat) : Nat :=
  match s.getBytes 1 (c.who core) c.dst 32 with
  | (_, .ok bs, _) => topkBytes (bs.map (·.1))
  | _ => 32

/-- The next waybill of a CPYR (R188, R362, R364): one GET for the whole copy; PUT waybills in ascending order, each once the
engine has requested the data of every earlier copy and has room for its lines (R306); one TOPK waybill to a reduction endpoint.
A device absent from the peer table, or unreachable, gives sub-code 6. -/
def State.remoteUnit (s : State) (core i : Nat) : State :=
  match (s.core core).copies[i]? with
  | none => s
  | some c =>
    let k := c.stream'
    let n := bits 31 0 (c.ctl.getD 0 0)
    if !s.mayWork c.ctx (640 + core) || !s.allDone c.gid c.after || c.units.isEmpty then s
    else
      match (s.ctx c.ctx).peer (k / 8) with
      | none => s.setCopy core i (c.refused 6)
      | some entry =>
        if (s.stream k).unreachable then s.setCopy core i (c.refused 6)
        else
          match c.units with
          | .put off :: _ =>
            let topk := field entry 1 1 = 1
            let m := if topk then s.topkLength c core else min chunk (n - off)
            let l : Loc := { c.dst with addr := c.dst.addr + off }
            if !s.mayRequest core i || !s.hasRoom core c (.put off) then s
            else
            match s.getBytes (sectorsOf l.addr m) (c.who core) l m with
            | (_, .busy, _) => s
            | (_, .fault cause a, _) => s.haltCopy core i c cause a
            | (t, .ok bs, bad) =>
              let data := openBytes (t.fresh * 2 ^ 16) bs
              let t := { t with fresh := t.fresh + 1 }
              let head := toBytes 4 c.id ++ toBytes 4 off ++ toBytes 8 c.src.addr
              let (t, w) := t.send k (if topk then 7 else 5) (if topk then data else head ++ data)
              let rest := if topk then [] else c.units.drop ((m + 31) / 32)
              t.setCopy core i ({ c with
                units := rest, sent := true, topk := if topk then some w.seq.toNat else none }.poisoned bad)
          | .get _ :: _ =>
            if c.sent then s
            else
              let body := toBytes 4 c.id ++ toBytes 4 n ++ toBytes 8 c.src.addr ++ toBytes 8 c.dst.addr
              (s.send k 3 body).1.setCopy core i { c with sent := true }
          | _ => s

/-- A piece of any copy's work. -/
def State.copyWork (s : State) (core i u : Nat) : State :=
  match (s.core core).copies[i]? with
  | some c => if c.kind = 3 then s.remoteUnit core i else s.copyUnit core i u
  | none => s

/-- TOPKSUM (R364): written to its bound buffer at .sys, then one arrival at its muster; an unbound id, or a record
longer than the buffer, is discarded. -/
def State.takeTopk (s : State) (ctx : Nat) (payload : List Byte) : Option State :=
  match (s.ctx ctx).binding (field payload 31 0) with
  | none => some s
  | some e =>
    if field e 95 64 < payload.length then some s
    else
      let a := field e 255 192
      match s.putBytes (sectorsOf a payload.length) (remote ctx false) ⟨0, a⟩ (payload.map (fun b => (b, false))) with
      | (_, .busy) => none
      | (_, .fault c va) => some (s.halt ctx c (BitVec.ofNat 64 va) 809)
      | (t, .ok _) =>
        some { t with arrivals := t.arrivals ++ [{ addr := BitVec.ofNat 64 (field e 191 128), ctx := ctx, count := 1, status := 0 }] }

/-! ### MGMT (R396, R397) -/

/-- What a MGMT request does, and the status and body of its reply; none where none is sent. -/
def State.manage (s : State) (payload : List Byte) : Option (State × Option (Nat × List Byte)) :=
  let n := payload.length
  let f := field payload
  let done (s : State) (body : List Byte) : Option (State × Option (Nat × List Byte)) := some (s, some (0, body))
  let malformed : Option (State × Option (Nat × List Byte)) := some (s, some (2, []))
  match f 7 0 with
  | 1 =>
    if n ≠ 36 then malformed
    else
      let r := s.report (payload.drop 4)
      done s (r ++ signatureOf r)
  | 2 =>
    let (stack, unit, count) := (f 39 32, f 47 40, f 55 48)
    if n ≠ 8 || 8 ≤ stack || count = 0 || 16 < count || 64 < unit + count || f 63 56 ≠ 0 then malformed
    else done s (s.statusBlock ++ s.bankRegs stack unit count)
  | 3 =>
    if n ≠ 8 || f 63 52 ≠ 0 then malformed
    else done { s with power := { s.power with ltol := BitVec.ofNat 20 (f 51 32) } } []
  | 4 => if n ≠ 4 then malformed else done s.campTrigger []
  | 6 =>
    if n ≠ 136 || 7 < f 39 32 || f 63 40 ≠ 0 then malformed
    else
      match s.remoteEnq (f 39 32) (s.queueVa (f 39 32) 16) (payload.drop 8) with
      | none => none
      | some (t, st) => done t (toBytes 1 st)
  | _ => some (s, none)

/-- A MGMT waybill: accepted from the management list, otherwise not permitted; the reply copies the tag (R396,
R397; DESIGN CHOICE, log 30). -/
def State.takeMgmt (s : State) (w : Waybill) : Option State :=
  let p := w.payload
  let reply (s : State) (status : Nat) (body : List Byte) : State :=
    (s.send (waybillKey w) 9 ([(p.getD 0 0) ||| 0x80, BitVec.ofNat 8 status, p.getD 2 0, p.getD 3 0] ++ body)).1
  if !s.mgmtList.contains w.src then some (reply s 1 [])
  else
    match s.manage p with
    | none => none
    | some (s, none) => some s
    | some (s, some (st, body)) => some (reply s st body)

/-! ### Receiving (R359, R360) -/

/-- The receiver discards a waybill (R359). -/
def State.discards (s : State) (w : Waybill) : Bool :=
  w.typ = 0 || 9 < w.typ || w.ver ≠ 1 || w.rsvd || w.dst ≠ s.device || 8192 < w.payload.length

/-- A waybill's effect, with the reply that a duplicate is answered with; none when it cannot be performed now. -/
def State.apply (s : State) (w : Waybill) : Option (State × Option Waybill) :=
  let k := (waybillKey w)
  let ctx := w.ctx.toNat
  let plain (r : Option State) : Option (State × Option Waybill) := r.map (fun t => (t, none))
  match w.typ.toNat with
  | 1 =>
    (s.performEnq ctx w.payload).map (fun r =>
      let (t, a) := r.1.send k 2 (toBytes 8 w.seq.toNat ++ toBytes 1 r.2)
      (t, some a))
  | 3 => plain (s.serveGet k w.payload)
  | 4 => plain (s.takeData k w.payload)
  | 5 => (s.servePut k w.payload).map (fun r => (r.1, some r.2))
  | 6 => plain (s.takePutAck k w.payload)
  | 8 => plain (s.takeTopk ctx w.payload)
  | 9 => plain (s.takeMgmt w)
  | _ => some (s, none)

/-- The next waybill of a stream performed: ACK moves on, the acknowledgement is due within 5 µs unless a reply
carries it (R360). -/
def State.take (s : State) (w : Waybill) : Option State :=
  let k := (waybillKey w)
  let s1 := s.setStream k { s.stream k with rxAck := (s.stream k).rxAck + 1 }
  (s1.apply w).map (fun r =>
    let x := r.1.stream k
    let kept := match r.2 with | some a => x.replies ++ [(w.seq.toNat, a)] | none => x.replies
    let sent := (s1.stream k).txNext < x.txNext
    r.1.setStream k { x with
      replies := kept, ackDue := if sent then none else some (x.ackDue.getD (r.1.time + 5000)) })

/-- Waybills held in order after ACK, performed as far as they go. -/
def State.drainHeld (k : Nat) : Nat → State → State
  | 0, s => s
  | n + 1, s =>
    let x := s.stream k
    match x.held.find? (fun w => w.seq.toNat = x.rxAck + 1) with
    | none => s
    | some w =>
      match s.take w with
      | none => s
      | some t =>
        let y := t.stream k
        State.drainHeld k n (t.setStream k { y with held := y.held.filter (fun v => v.seq ≠ w.seq) })

/-- A waybill with a sequence number arrives (R360): performed in order; held when early; beyond ACK + 32 dropped; a
duplicate dropped, its reply sent again. DESIGN CHOICE, log 22. -/
def State.receive (s : State) (w : Waybill) : State :=
  let k := (waybillKey w)
  let s := s.acknowledge k w
  let x := s.stream k
  let n := w.seq.toNat
  if n ≤ x.rxAck then
    match x.replies.find? (fun e => e.1 = n) with
    | some (_, a) => { s with outbox := s.outbox ++ [a] }
    | none => s.setStream k { x with ackDue := some (x.ackDue.getD (s.time + 5000)) }
  else if n = x.rxAck + 1 then
    match s.take w with
    | some t => State.drainHeld k 32 t
    | none => s
  else if n ≤ x.rxAck + 32 && !x.held.any (fun v => v.seq = w.seq) then
    s.setStream k { x with held := x.held ++ [w], ackDue := some (x.ackDue.getD (s.time + 5000)) }
  else State.drainHeld k 32 s

/-- A waybill of one type arrives. -/
def State.arrives (s : State) (typ : Nat) (w : Waybill) : Res :=
  if w.typ.toNat ≠ typ || w.ao || s.discards w then .next s else .next (s.receive w)

def execEnqWaybill (w : Waybill) (s : State) : Res := s.arrives 1 w
def execGetWaybill (w : Waybill) (s : State) : Res := s.arrives 3 w
def execGetdataWaybill (w : Waybill) (s : State) : Res := s.arrives 4 w
def execPutWaybill (w : Waybill) (s : State) : Res := s.arrives 5 w
def execPutackWaybill (w : Waybill) (s : State) : Res := s.arrives 6 w
def execTopksumWaybill (w : Waybill) (s : State) : Res := s.arrives 8 w

/-- ACK_ONLY_WAYBILL (R358, R360): what ACK and SACK cover is released; SEQ is ignored. -/
def execAckOnlyWaybill (w : Waybill) (s : State) : Res :=
  if w.ao && !s.discards w then .next (s.acknowledge (waybillKey w) w) else .next s

/-- WAYBILL_DISCARD (R359): counted, not by sequence. -/
def execWaybillDiscard (w : Waybill) (s : State) : Res :=
  if s.discards w then .next { s with waybillsDropped := s.waybillsDropped + 1 } else .next s

/-- A MGMT waybill of one command; `codes` says which. -/
def State.arrivesMgmt (s : State) (codes : Nat → Bool) (w : Waybill) : Res :=
  if codes ((w.payload.getD 0 0).toNat) then s.arrives 9 w else .next s

def execMgmtAttest (w : Waybill) (s : State) : Res := s.arrivesMgmt (· = 1) w
def execMgmtReadStatus (w : Waybill) (s : State) : Res := s.arrivesMgmt (· = 2) w
def execMgmtWriteLtol (w : Waybill) (s : State) : Res := s.arrivesMgmt (· = 3) w
def execMgmtEnterCamp (w : Waybill) (s : State) : Res := s.arrivesMgmt (· = 4) w
def execMgmtEnqueue (w : Waybill) (s : State) : Res := s.arrivesMgmt (· = 6) w
def execMgmtUnknownCommand (w : Waybill) (s : State) : Res :=
  s.arrivesMgmt (fun c => c = 0 || c = 5 || 6 < c) w

/-! ### Timers and links -/

/-- No port has a link: timers stand still until one is up (R391). -/
def State.linkless (s : State) : Bool := !s.links.get false 0 && !s.links.get false 1

/-- A peer that does not answer: its stream's copies fail with sub-code 6 (R188, R360); its waybills stay until they are
acknowledged. -/
def State.unreach (s : State) (k : Nat) : State :=
  let x := s.stream k
  (s.setStream k { x with unreachable := true }).mapCopies (fun c =>
    if c.kind = 3 && c.stream' = k && (c.sent || !c.units.isEmpty) then c.refused 6 else c)

/-- RETRANSMISSION_TIMEOUT (R360): the waybills due again are resent; after RLIM retransmissions of one the peer is
unreachable. Timers stand still in Camp, and after it until the ports are up (R391). -/
def execRetransmissionTimeout (stream : Nat) (s : State) : Res :=
  let x := s.stream stream
  let c := s.ctx (stream % 8)
  let due (e : Waybill × Nat × Nat) : Bool := decide (e.2.2 ≤ s.time)
  if s.power.state = .camp || s.linkless || !x.unacked.any due then .next s
  else if x.unacked.any (fun e => due e && c.rlim ≤ e.2.1) then .next (s.unreach stream)
  else
    let again (e : Waybill × Nat × Nat) : Waybill × Nat × Nat :=
      if due e then (e.1, e.2.1 + 1, s.time + c.rto) else e
    .next { s.setStream stream { x with unacked := x.unacked.map again } with
      outbox := s.outbox ++ (x.unacked.filter due).map (·.1) }

/-- ACK_DELAY_EXPIRY (R360): an AO waybill carries the acknowledgement; its TYPE is that of an ENQACK, one of R359's. DESIGN
CHOICE, log 99. -/
def execAckDelayExpiry (stream : Nat) (s : State) : Res :=
  let x := s.stream stream
  match x.ackDue with
  | none => .next s
  | some t =>
    if s.time < t || s.power.state = .camp then .next s
    else
      let w := s.makeWaybill stream 2 0 true []
      .next { s.setStream stream { x with ackDue := none } with outbox := s.outbox ++ [w] }

/-- PORT_LINK_UP (R391): the waybills not yet acknowledged are sent again, their counts from 0. -/
def execPortLinkUp (port : Nat) (s : State) : Res :=
  if 2 ≤ port || s.links.get false port then .next s
  else
    let fresh (e : Nat × NetStream) : Nat × NetStream :=
      (e.1, { e.2 with unacked := e.2.unacked.map (fun u => (u.1, 0, s.time + (s.ctx (e.1 % 8)).rto)) })
    let again := s.net.flatMap (fun e => e.2.unacked.map (·.1))
    .next { s with
      links := s.links.set false port true, net := s.net.map fresh, outbox := s.outbox ++ again }

/-- FRAME_DISCARD (R352): counted at its port. -/
def execFrameDiscard (port : Nat) (s : State) : Res :=
  if 2 ≤ port then .next s else .next { s with frames := s.frames.set 0 port (s.frames.get 0 port + 1) }

/-! ### RoCEv2 (R354 to R356) -/

/-- An answer to a request. -/
def State.answer (s : State) (r : RdmaReply) : State := { s with rdmaOut := s.rdmaOut ++ [r] }

/-- A queue pair enters the error state. -/
def State.failQp (s : State) (qp : Nat) : State :=
  { s with qpError := if s.qpError.contains qp then s.qpError else qp :: s.qpError }

/-- A queue pair that takes no request: it does not exist or is in the error state. -/
def State.qpDead (s : State) (qp : Nat) : Bool := 4096 ≤ qp || s.qpError.contains qp

/-- A request answered: its queue pair goes on to the next number (R391). -/
def State.rdmaDone (s : State) (r : Rdma) (a : RdmaReply) : State :=
  { s with psns := s.psns.put r.qp (r.psn + 1) }.answer a

/-- How far a request is ahead of the one that its queue pair takes next. -/
def State.psnAhead (s : State) (r : Rdma) : Nat := (r.psn - s.psns.get 0 r.qp).toNat

/-- What a queue pair does with a request that is not its next one (R355, R391): nothing in the error state, nor with one
that is ahead of a request not yet performed; one performed before is acknowledged again and not applied. DESIGN CHOICE,
log 100. -/
def State.notNext (s : State) (r : Rdma) : Option State :=
  if s.qpDead r.qp then some s
  else if s.psnAhead r = 0 then none
  else if s.psnAhead r < 2 ^ 23 then some s
  else some (s.answer (.ack r.qp []))

/-- RDMA_WRITE (R355): performed at the home slices in sectors, or NAKed with nothing touched. One that meets a page in
migration is not acknowledged, so that it comes again, before every later one of its queue pair. -/
def execRdmaWrite (r : Rdma) (s : State) : Res :=
  let va := r.va.toNat
  if let some t := s.notNext r then .next t
  else if !(s.ctx r.ctx).region (fun e => field e 1 1 = 1 && field e 2 2 = 1 && field e 127 96 = r.key.toNat) va
      r.data.length then .next (s.rdmaDone r (.nakAccess r.qp))
  else
    match s.pages r.ctx va r.data.length 1 with
    | .busy => .next s
    | .fault => .next (s.rdmaDone r (.nakAccess r.qp))
    | .ok =>
      match s.putBytes (sectorsOf va r.data.length) (remote r.ctx false) ⟨0, va⟩ (r.data.map (fun b => (b, false))) with
      | (t, .ok _) => .next (t.rdmaDone r (.ack r.qp []))
      | _ => .next s

/-- A READ performed before reads again. -/
def State.rereads (s : State) (r : Rdma) : Bool := 2 ^ 23 ≤ s.psnAhead r

/-- RDMA_READ (R355). -/
def execRdmaRead (r : Rdma) (s : State) : Res :=
  let va := r.va.toNat
  let served (t : State) (a : RdmaReply) : State := if s.rereads r then t.answer a else t.rdmaDone r a
  if s.qpDead r.qp || (s.psnAhead r ≠ 0 && !s.rereads r) then .next s
  else if !(s.ctx r.ctx).region (fun e => field e 1 1 = 1 && field e 3 3 = 1 && field e 127 96 = r.key.toNat) va r.len then
    .next (served s (.nakAccess r.qp))
  else
    match s.pages r.ctx va r.len 0 with
    | .busy => .next s
    | .fault => .next (served s (.nakAccess r.qp))
    | .ok =>
      match s.getBytes (sectorsOf va r.len) (remote r.ctx false) ⟨0, va⟩ r.len with
      | (t, .ok bs, _) =>
        .next (served { t with fresh := t.fresh + 1 } (.ack r.qp (openBytes (t.fresh * 2 ^ 16) bs)))
      | _ => .next s

/-- RDMA_SEND (R356): an element of the bound queue; a full queue answers RNR; a queue that fails its checks, or a payload
longer than the element, is NAKed and the queue pair fails. -/
def execRdmaSend (r : Rdma) (s : State) : Res :=
  let c := s.ctx r.ctx
  let bound := bit 0 (c.tables.get 0 (0x10000 + 2 * r.qp))
  let va := (c.tables.get 0 (0x10000 + 2 * r.qp + 1)).toNat
  if let some t := s.notNext r then .next t
  else if !bound || !s.bindable r.ctx va then .next ((s.failQp r.qp).answer (.nakOperational r.qp))
  else
    match s.remoteEnq r.ctx va r.data with
    | none => .next s
    | some (t, 0) => .next (t.rdmaDone r (.ack r.qp []))
    | some (_, 1) => .next (s.answer (.rnr r.qp))
    | some (_, _) => .next ((s.failQp r.qp).answer (.nakOperational r.qp))

/-- ROCE_INVALID_REQUEST (R354). -/
def execRoceInvalidRequest (qp : Nat) (s : State) : Res :=
  if s.qpDead qp then .next s else .next ((s.failQp qp).answer (.nakInvalid qp))

end Sys2Proof.Machine
end

