-- ==== Sys2Proof/Machine/Dispatch.lean ====
section
/-! DEFINITION. The dispatch of every instruction and event to its meaning. -/

namespace Sys2Proof.Machine

/-- The meaning of an instruction or event. -/
def exec (i : Instr) (s : State) : Host.Outcome State Fault Refusal :=
  match i with
  | .iadd x => Sys2Proof.Machine.execIadd x s
  | .iadd3 x => Sys2Proof.Machine.execIadd3 x s
  | .isub x => Sys2Proof.Machine.execIsub x s
  | .imul x => Sys2Proof.Machine.execImul x s
  | .imulh x => Sys2Proof.Machine.execImulh x s
  | .imad x => Sys2Proof.Machine.execImad x s
  | .idiv x => Sys2Proof.Machine.execIdiv x s
  | .irem x => Sys2Proof.Machine.execIrem x s
  | .imin x => Sys2Proof.Machine.execImin x s
  | .imax x => Sys2Proof.Machine.execImax x s
  | .iabs x => Sys2Proof.Machine.execIabs x s
  | .ineg x => Sys2Proof.Machine.execIneg x s
  | .idot4 x => Sys2Proof.Machine.execIdot4 x s
  | .lea x => Sys2Proof.Machine.execLea x s
  | .and x => Sys2Proof.Machine.execAnd x s
  | .or x => Sys2Proof.Machine.execOr x s
  | .xor x => Sys2Proof.Machine.execXor x s
  | .andn x => Sys2Proof.Machine.execAndn x s
  | .not x => Sys2Proof.Machine.execNot x s
  | .shl x => Sys2Proof.Machine.execShl x s
  | .shr x => Sys2Proof.Machine.execShr x s
  | .sar x => Sys2Proof.Machine.execSar x s
  | .rotl x => Sys2Proof.Machine.execRotl x s
  | .popc x => Sys2Proof.Machine.execPopc x s
  | .clz x => Sys2Proof.Machine.execClz x s
  | .ctz x => Sys2Proof.Machine.execCtz x s
  | .brev x => Sys2Proof.Machine.execBrev x s
  | .bfx x => Sys2Proof.Machine.execBfx x s
  | .bfi x => Sys2Proof.Machine.execBfi x s
  | .icmp x => Sys2Proof.Machine.execIcmp x s
  | .isel x => Sys2Proof.Machine.execIsel x s
  | .mov x => Sys2Proof.Machine.execMov x s
  | .movl x => Sys2Proof.Machine.execMovl x s
  | .pand x => Sys2Proof.Machine.execPand x s
  | .por x => Sys2Proof.Machine.execPor x s
  | .pxor x => Sys2Proof.Machine.execPxor x s
  | .pnot x => Sys2Proof.Machine.execPnot x s
  | .pmov x => Sys2Proof.Machine.execPmov x s
  | .vote x => Sys2Proof.Machine.execVote x s
  | .shfl x => Sys2Proof.Machine.execShfl x s
  | .redux x => Sys2Proof.Machine.execRedux x s
  | .scan x => Sys2Proof.Machine.execScan x s
  | .xchg x => Sys2Proof.Machine.execXchg x s
  | .bra x => Sys2Proof.Machine.execBra x s
  | .brd x => Sys2Proof.Machine.execBrd x s
  | .join x => Sys2Proof.Machine.execJoin x s
  | .loop x => Sys2Proof.Machine.execLoop x s
  | .brk x => Sys2Proof.Machine.execBrk x s
  | .call x => Sys2Proof.Machine.execCall x s
  | .ret x => Sys2Proof.Machine.execRet x s
  | .jmpi x => Sys2Proof.Machine.execJmpi x s
  | .exit x => Sys2Proof.Machine.execExit x s
  | .nop x => Sys2Proof.Machine.execNop x s
  | .yield x => Sys2Proof.Machine.execYield x s
  | .fadd x => Sys2Proof.Machine.execFadd x s
  | .fsub x => Sys2Proof.Machine.execFsub x s
  | .fmul x => Sys2Proof.Machine.execFmul x s
  | .ffma x => Sys2Proof.Machine.execFfma x s
  | .fmin x => Sys2Proof.Machine.execFmin x s
  | .fmax x => Sys2Proof.Machine.execFmax x s
  | .fcmp x => Sys2Proof.Machine.execFcmp x s
  | .fclass x => Sys2Proof.Machine.execFclass x s
  | .fdiv x => Sys2Proof.Machine.execFdiv x s
  | .frcp x => Sys2Proof.Machine.execFrcp x s
  | .frsq x => Sys2Proof.Machine.execFrsq x s
  | .fsqrt x => Sys2Proof.Machine.execFsqrt x s
  | .fex2 x => Sys2Proof.Machine.execFex2 x s
  | .flg2 x => Sys2Proof.Machine.execFlg2 x s
  | .fsin x => Sys2Proof.Machine.execFsin x s
  | .fcos x => Sys2Proof.Machine.execFcos x s
  | .frnd x => Sys2Proof.Machine.execFrnd x s
  | .cvt x => Sys2Proof.Machine.execCvt x s
  | .cvtsc x => Sys2Proof.Machine.execCvtsc x s
  | .hadd2 x => Sys2Proof.Machine.execHadd2 x s
  | .hmul2 x => Sys2Proof.Machine.execHmul2 x s
  | .hfma2 x => Sys2Proof.Machine.execHfma2 x s
  | .hdot2 x => Sys2Proof.Machine.execHdot2 x s
  | .qdot4 x => Sys2Proof.Machine.execQdot4 x s
  | .ld x => Sys2Proof.Machine.execLd x s
  | .st x => Sys2Proof.Machine.execSt x s
  | .ldfe x => Sys2Proof.Machine.execLdfe x s
  | .stfe x => Sys2Proof.Machine.execStfe x s
  | .sbind x => Sys2Proof.Machine.execSbind x s
  | .sclose x => Sys2Proof.Machine.execSclose x s
  | .atom x => Sys2Proof.Machine.execAtom x s
  | .red x => Sys2Proof.Machine.execRed x s
  | .fence x => Sys2Proof.Machine.execFence x s
  | .fencex x => Sys2Proof.Machine.execFencex x s
  | .fencea x => Sys2Proof.Machine.execFencea x s
  | .cpy x => Sys2Proof.Machine.execCpy x s
  | .cpyt x => Sys2Proof.Machine.execCpyt x s
  | .cpyg x => Sys2Proof.Machine.execCpyg x s
  | .cpyr x => Sys2Proof.Machine.execCpyr x s
  | .tld x => Sys2Proof.Machine.execTld x s
  | .tst x => Sys2Proof.Machine.execTst x s
  | .tmov x => Sys2Proof.Machine.execTmov x s
  | .mzero x => Sys2Proof.Machine.execMzero x s
  | .mma x => Sys2Proof.Machine.execMma x s
  | .mloop x => Sys2Proof.Machine.execMloop x s
  | .mlda x => Sys2Proof.Machine.execMlda x s
  | .msta x => Sys2Proof.Machine.execMsta x s
  | .mcvt x => Sys2Proof.Machine.execMcvt x s
  | .bfence x => Sys2Proof.Machine.execBfence x s
  | .bwait x => Sys2Proof.Machine.execBwait x s
  | .bpoll x => Sys2Proof.Machine.execBpoll x s
  | .qinit x => Sys2Proof.Machine.execQinit x s
  | .qenq x => Sys2Proof.Machine.execQenq x s
  | .qdeq x => Sys2Proof.Machine.execQdeq x s
  | .qstat x => Sys2Proof.Machine.execQstat x s
  | .musterInit x => Sys2Proof.Machine.execMusterInit x s
  | .musterArrive x => Sys2Proof.Machine.execMusterArrive x s
  | .musterWait x => Sys2Proof.Machine.execMusterWait x s
  | .musterPoll x => Sys2Proof.Machine.execMusterPoll x s
  | .claim x => Sys2Proof.Machine.execClaim x s
  | .give x => Sys2Proof.Machine.execGive x s
  | .relay x => Sys2Proof.Machine.execRelay x s
  | .cancel x => Sys2Proof.Machine.execCancel x s
  | .cntrd x => Sys2Proof.Machine.execCntrd x s
  | .bar x => Sys2Proof.Machine.execBar x s
  | .nmdot x => Sys2Proof.Machine.execNmdot x s
  | .nmdist x => Sys2Proof.Machine.execNmdist x s
  | .nmlut x => Sys2Proof.Machine.execNmlut x s
  | .nmred x => Sys2Proof.Machine.execNmred x s
  | .nmfill x => Sys2Proof.Machine.execNmfill x s
  | .search x => Sys2Proof.Machine.execSearch x s
  | .scancel x => Sys2Proof.Machine.execScancel x s
  | .wnode x => Sys2Proof.Machine.execWnode x s
  | .wnbr x => Sys2Proof.Machine.execWnbr x s
  | .wdist x => Sys2Proof.Machine.execWdist x s
  | .wheap x => Sys2Proof.Machine.execWheap x s
  | .wkth x => Sys2Proof.Machine.execWkth x s
  | .wvisit x => Sys2Proof.Machine.execWvisit x s
  | .whop x => Sys2Proof.Machine.execWhop x s
  | .wspawn x => Sys2Proof.Machine.execWspawn x s
  | .wend x => Sys2Proof.Machine.execWend x s
  | .trap x => Sys2Proof.Machine.execTrap x s
  | .rtt x => Sys2Proof.Machine.execRtt x s
  | .tmask x => Sys2Proof.Machine.execTmask x s
  | .tunmask x => Sys2Proof.Machine.execTunmask x s
  | .srd x => Sys2Proof.Machine.execSrd x s
  | .swr x => Sys2Proof.Machine.execSwr x s
  | .bkpt x => Sys2Proof.Machine.execBkpt x s
  | .pfrd x => Sys2Proof.Machine.execPfrd x s
  | .time x => Sys2Proof.Machine.execTime x s
  | .sleep x => Sys2Proof.Machine.execSleep x s
  | .iaddI32Reg w => Sys2Proof.Machine.execIaddI32Reg w s
  | .iaddI32Imm w => Sys2Proof.Machine.execIaddI32Imm w s
  | .isubI32Reg w => Sys2Proof.Machine.execIsubI32Reg w s
  | .isubI32Imm w => Sys2Proof.Machine.execIsubI32Imm w s
  | .imulI32Reg w => Sys2Proof.Machine.execImulI32Reg w s
  | .imulI32Imm w => Sys2Proof.Machine.execImulI32Imm w s
  | .imadI32Base w => Sys2Proof.Machine.execImadI32Base w s
  | .imulhI32Base w => Sys2Proof.Machine.execImulhI32Base w s
  | .imulhN32Base w => Sys2Proof.Machine.execImulhN32Base w s
  | .iminI32Base w => Sys2Proof.Machine.execIminI32Base w s
  | .imaxI32Base w => Sys2Proof.Machine.execImaxI32Base w s
  | .iminN32Base w => Sys2Proof.Machine.execIminN32Base w s
  | .imaxN32Base w => Sys2Proof.Machine.execImaxN32Base w s
  | .iabsI32Base w => Sys2Proof.Machine.execIabsI32Base w s
  | .inegI32Base w => Sys2Proof.Machine.execInegI32Base w s
  | .iaddI64Base w => Sys2Proof.Machine.execIaddI64Base w s
  | .andN32Reg w => Sys2Proof.Machine.execAndN32Reg w s
  | .andN32Imm w => Sys2Proof.Machine.execAndN32Imm w s
  | .orN32Reg w => Sys2Proof.Machine.execOrN32Reg w s
  | .orN32Imm w => Sys2Proof.Machine.execOrN32Imm w s
  | .xorN32Reg w => Sys2Proof.Machine.execXorN32Reg w s
  | .xorN32Imm w => Sys2Proof.Machine.execXorN32Imm w s
  | .andnN32Base w => Sys2Proof.Machine.execAndnN32Base w s
  | .notN32Base w => Sys2Proof.Machine.execNotN32Base w s
  | .shlN32Reg w => Sys2Proof.Machine.execShlN32Reg w s
  | .shlN32Imm w => Sys2Proof.Machine.execShlN32Imm w s
  | .shrN32Reg w => Sys2Proof.Machine.execShrN32Reg w s
  | .shrN32Imm w => Sys2Proof.Machine.execShrN32Imm w s
  | .sarI32Reg w => Sys2Proof.Machine.execSarI32Reg w s
  | .sarI32Imm w => Sys2Proof.Machine.execSarI32Imm w s
  | .rotlN32Imm w => Sys2Proof.Machine.execRotlN32Imm w s
  | .popcN32Base w => Sys2Proof.Machine.execPopcN32Base w s
  | .movN32Base w => Sys2Proof.Machine.execMovN32Base w s
  | .movN64Base w => Sys2Proof.Machine.execMovN64Base w s
  | .faddF32Reg w => Sys2Proof.Machine.execFaddF32Reg w s
  | .faddF32Imm w => Sys2Proof.Machine.execFaddF32Imm w s
  | .fsubF32Base w => Sys2Proof.Machine.execFsubF32Base w s
  | .fmulF32Reg w => Sys2Proof.Machine.execFmulF32Reg w s
  | .fmulF32Imm w => Sys2Proof.Machine.execFmulF32Imm w s
  | .ffmaF32Base w => Sys2Proof.Machine.execFfmaF32Base w s
  | .fminF32Base w => Sys2Proof.Machine.execFminF32Base w s
  | .fmaxF32Base w => Sys2Proof.Machine.execFmaxF32Base w s
  | .hadd2F16Base w => Sys2Proof.Machine.execHadd2F16Base w s
  | .hmul2F16Base w => Sys2Proof.Machine.execHmul2F16Base w s
  | .hfma2F16Base w => Sys2Proof.Machine.execHfma2F16Base w s
  | .hadd2Bf16Base w => Sys2Proof.Machine.execHadd2Bf16Base w s
  | .hfma2Bf16Base w => Sys2Proof.Machine.execHfma2Bf16Base w s
  | .ldN32Base w => Sys2Proof.Machine.execLdN32Base w s
  | .stN32Base w => Sys2Proof.Machine.execStN32Base w s
  | .ldN64Base w => Sys2Proof.Machine.execLdN64Base w s
  | .stN64Base w => Sys2Proof.Machine.execStN64Base w s
  | .exitBase w => Sys2Proof.Machine.execExitBase w s
  | .nopBase w => Sys2Proof.Machine.execNopBase w s
  | .asyncWriteArrival gid k => Sys2Proof.Machine.execAsyncWriteArrival gid k s
  | .spillEngineFill gid => Sys2Proof.Machine.execSpillEngineFill gid s
  | .throttleRotation gid => Sys2Proof.Machine.execThrottleRotation gid s
  | .xchgRequestArrival k => Sys2Proof.Machine.execXchgRequestArrival k s
  | .fabricGrant port => Sys2Proof.Machine.execFabricGrant port s
  | .packetPromotion port input chan => Sys2Proof.Machine.execPacketPromotion port input chan s
  | .congestionInterval cluster => Sys2Proof.Machine.execCongestionInterval cluster s
  | .qenqPublish k => Sys2Proof.Machine.execQenqPublish k s
  | .queueWaiterServed blk enq => Sys2Proof.Machine.execQueueWaiterServed blk enq s
  | .queuePollRetry gid sid => Sys2Proof.Machine.execQueuePollRetry gid sid s
  | .musterArrivalCommand k => Sys2Proof.Machine.execMusterArrivalCommand k s
  | .claimServed slot => Sys2Proof.Machine.execClaimServed slot s
  | .sleepEnd gid sid => Sys2Proof.Machine.execSleepEnd gid sid s
  | .copyCompletion core k => Sys2Proof.Machine.execCopyCompletion core k s
  | .copyFeRowWrite core k => Sys2Proof.Machine.execCopyFeRowWrite core k s
  | .matrixInstructionStart core => Sys2Proof.Machine.execMatrixInstructionStart core s
  | .mloopStep core => Sys2Proof.Machine.execMloopStep core s
  | .matrixInstructionComplete core => Sys2Proof.Machine.execMatrixInstructionComplete core s
  | .nmCommandForward core k => Sys2Proof.Machine.execNmCommandForward core k s
  | .nmCommandComplete core k => Sys2Proof.Machine.execNmCommandComplete core k s
  | .searchAdmission k => Sys2Proof.Machine.execSearchAdmission k s
  | .searchEnd k => Sys2Proof.Machine.execSearchEnd k s
  | .walkerHopArrival k => Sys2Proof.Machine.execWalkerHopArrival k s
  | .walkerSpawnStart k => Sys2Proof.Machine.execWalkerSpawnStart k s
  | .heapOffer k => Sys2Proof.Machine.execHeapOffer k s
  | .visitedRequest k => Sys2Proof.Machine.execVisitedRequest k s
  | .walkerReplyArrival k => Sys2Proof.Machine.execWalkerReplyArrival k s
  | .manifestIntake ctx queue => Sys2Proof.Machine.execManifestIntake ctx queue s
  | .workgroupPlacement core => Sys2Proof.Machine.execWorkgroupPlacement core s
  | .groupRetirement gid => Sys2Proof.Machine.execGroupRetirement gid s
  | .launchCompletion launch => Sys2Proof.Machine.execLaunchCompletion launch s
  | .relayCommit wg => Sys2Proof.Machine.execRelayCommit wg s
  | .cancelGraceExpiry ctx level id => Sys2Proof.Machine.execCancelGraceExpiry ctx level id s
  | .preemptionRequest ctx => Sys2Proof.Machine.execPreemptionRequest ctx s
  | .drainExpiry wg => Sys2Proof.Machine.execDrainExpiry wg s
  | .preemptionDeadline ctx => Sys2Proof.Machine.execPreemptionDeadline ctx s
  | .flushAndRestart wg => Sys2Proof.Machine.execFlushAndRestart wg s
  | .workgroupSave wg => Sys2Proof.Machine.execWorkgroupSave wg s
  | .workgroupRestore core => Sys2Proof.Machine.execWorkgroupRestore core s
  | .contextHalt ctx cause faddr engine => Sys2Proof.Machine.execContextHalt ctx cause faddr engine s
  | .engineHaltStop ctx engine => Sys2Proof.Machine.execEngineHaltStop ctx engine s
  | .shootdownPortWrite ctx va => Sys2Proof.Machine.execShootdownPortWrite ctx va s
  | .shootdownComplete ctx k => Sys2Proof.Machine.execShootdownComplete ctx k s
  | .poolPortWrite ctx pa => Sys2Proof.Machine.execPoolPortWrite ctx pa s
  | .migrationWindowEnd ctx => Sys2Proof.Machine.execMigrationWindowEnd ctx s
  | .pagePromotion slice => Sys2Proof.Machine.execPagePromotion slice s
  | .rowRepair stack pc bank row => Sys2Proof.Machine.execRowRepair stack pc bank row s
  | .scrub sector => Sys2Proof.Machine.execScrub sector s
  | .contextRelease writer ctx => Sys2Proof.Machine.execContextRelease writer ctx s
  | .debugHaltRequest ctx => Sys2Proof.Machine.execDebugHaltRequest ctx s
  | .debugStep ctx => Sys2Proof.Machine.execDebugStep ctx s
  | .debugResume ctx => Sys2Proof.Machine.execDebugResume ctx s
  | .campreq writer => Sys2Proof.Machine.execCampreq writer s
  | .powerControlRead reader => Sys2Proof.Machine.execPowerControlRead reader s
  | .partitionTableWrite writer cluster v => Sys2Proof.Machine.execPartitionTableWrite writer cluster v s
  | .fabricWeightWrite ctx v => Sys2Proof.Machine.execFabricWeightWrite ctx v s
  | .schedulingRegisterWrite ctx v => Sys2Proof.Machine.execSchedulingRegisterWrite ctx v s
  | .migrationControlWrite ctx v => Sys2Proof.Machine.execMigrationControlWrite ctx v s
  | .qpBindingWrite ctx qp lo hi => Sys2Proof.Machine.execQpBindingWrite ctx qp lo hi s
  | .controlSpaceWrite writer addr size v => Sys2Proof.Machine.execControlSpaceWrite writer addr size v s
  | .enqWaybill w => Sys2Proof.Machine.execEnqWaybill w s
  | .getWaybill w => Sys2Proof.Machine.execGetWaybill w s
  | .getdataWaybill w => Sys2Proof.Machine.execGetdataWaybill w s
  | .putWaybill w => Sys2Proof.Machine.execPutWaybill w s
  | .putackWaybill w => Sys2Proof.Machine.execPutackWaybill w s
  | .topksumWaybill w => Sys2Proof.Machine.execTopksumWaybill w s
  | .ackOnlyWaybill w => Sys2Proof.Machine.execAckOnlyWaybill w s
  | .waybillDiscard w => Sys2Proof.Machine.execWaybillDiscard w s
  | .retransmissionTimeout stream => Sys2Proof.Machine.execRetransmissionTimeout stream s
  | .ackDelayExpiry stream => Sys2Proof.Machine.execAckDelayExpiry stream s
  | .rdmaWrite r => Sys2Proof.Machine.execRdmaWrite r s
  | .rdmaRead r => Sys2Proof.Machine.execRdmaRead r s
  | .rdmaSend r => Sys2Proof.Machine.execRdmaSend r s
  | .roceInvalidRequest qp => Sys2Proof.Machine.execRoceInvalidRequest qp s
  | .frameDiscard port => Sys2Proof.Machine.execFrameDiscard port s
  | .mgmtAttest w => Sys2Proof.Machine.execMgmtAttest w s
  | .mgmtReadStatus w => Sys2Proof.Machine.execMgmtReadStatus w s
  | .mgmtWriteLtol w => Sys2Proof.Machine.execMgmtWriteLtol w s
  | .mgmtEnterCamp w => Sys2Proof.Machine.execMgmtEnterCamp w s
  | .mgmtEnqueue w => Sys2Proof.Machine.execMgmtEnqueue w s
  | .mgmtUnknownCommand w => Sys2Proof.Machine.execMgmtUnknownCommand w s
  | .sidebandReadStatus => Sys2Proof.Machine.execSidebandReadStatus s
  | .sidebandEndCamp data => Sys2Proof.Machine.execSidebandEndCamp data s
  | .sidebandEnterCamp data => Sys2Proof.Machine.execSidebandEnterCamp data s
  | .sidebandSelectImage image => Sys2Proof.Machine.execSidebandSelectImage image s
  | .sidebandWriteStaging offset data => Sys2Proof.Machine.execSidebandWriteStaging offset data s
  | .sidebandVerifyImage data => Sys2Proof.Machine.execSidebandVerifyImage data s
  | .sidebandReadRecovery => Sys2Proof.Machine.execSidebandReadRecovery s
  | .sidebandNack => Sys2Proof.Machine.execSidebandNack s
  | .powerFailWarning => Sys2Proof.Machine.execPowerFailWarning s
  | .campExit => Sys2Proof.Machine.execCampExit s
  | .coldInitialisation => Sys2Proof.Machine.execColdInitialisation s
  | .powerMeasurement milliwatts => Sys2Proof.Machine.execPowerMeasurement milliwatts s
  | .idleEntry => Sys2Proof.Machine.execIdleEntry s
  | .idleExit => Sys2Proof.Machine.execIdleExit s
  | .unassignedOpcode word => Sys2Proof.Machine.execUnassignedOpcode word s
  | .powerFailWarningFall => Sys2Proof.Machine.execPowerFailWarningFall s
  | .portLinkUp port => Sys2Proof.Machine.execPortLinkUp port s

end Sys2Proof.Machine
end

