-- ==== Sys2Proof/Machine/Turn.lean ====
section
/-! DEFINITION. What moves next (R254, R271, R272, R311), fetching an instruction's bytes (R33, R86, R337, R374), and the
passage of time with the counters it feeds (R232, R309, R310, R382, R383). -/

namespace Sys2Proof.Machine

/-! ### Which split may issue -/

/-- A SLEEP keeps the whole group from issuing, but for the split that has to issue it anew after a save, until its end
(R232, R311). -/
def Group.asleep (g : Group) (now sid : Nat) : Bool :=
  g.splits.any (fun e => e.2.live && e.2.wait = .sleep) ||
    g.sleeps.any (fun e => e.1 ≠ sid && now < e.2 && (g.split e.1).live)

/-- YIELD keeps a split back while a split that was ready has not issued since (R142). -/
def State.yields (s : State) (x : Split) : Bool :=
  s.cycle < x.yieldEnd && x.yieldTo.any (fun k =>
    let y := (s.group (k / 4)).split (k % 4)
    (s.group (k / 4)).live && y.live && y.last ≤ x.last)

/-- A split can take up its next instruction (R271): its trap, if one is to be delivered, comes first (R371); a split that
stopped at a breakpoint issues at RESUME or STEP (R380). `step`: a debugger's STEP issues in a halted context. -/
def State.ableTo (s : State) (step : Bool) (gid sid : Nat) : Bool :=
  let g := s.group gid
  let x := g.split sid
  g.live && !g.retiring && (step || (s.mayWork g.ctx (slotOf gid) && s.mayStart g.ctx && !x.atBreak)) && !s.stoppedWg g &&
    x.free s.cycle && (g.handler.all (fun h => h.split = sid)) && !g.asleep s.time sid &&
    (g.handler.isSome || (takeTrap g g.traps).isNone)

/-- The slot may choose it in this cycle: nothing has issued in the slot yet, and no YIELD keeps it back. -/
def State.mayIssue (s : State) (step : Bool) (gid sid : Nat) : Bool :=
  s.ableTo step gid sid && (s.slot (slotOf gid)).issuedAt ≠ s.cycle + 1 && !s.yields ((s.group gid).split sid)

/-- What R272 compares: promoted, priority, wait, resident index, split; the lesser comes first. -/
structure Rank where
  promoted : Bool
  prio : Nat
  wait : Nat
  index : Nat
  split : Nat

def Rank.before (a b : Rank) : Bool :=
  if a.promoted ≠ b.promoted then a.promoted
  else if a.prio ≠ b.prio then b.prio < a.prio
  else if a.wait ≠ b.wait then b.wait < a.wait
  else if a.index ≠ b.index then a.index < b.index
  else a.split < b.split

def State.rank (s : State) (e : Nat × Nat) : Rank :=
  let g := s.group e.1
  let w := s.cycle - (g.split e.2).last
  { promoted := 256 ≤ w, prio := g.prio, wait := w, index := e.1 % 16, split := e.2 }

/-- The split the slot issues (R254, R272). -/
def State.chosen (s : State) (slot : Nat) : Option (Nat × Nat) :=
  let l := (s.slotGroups slot).flatMap (fun e => (e.2.liveSplits.map (fun i => (e.1, i))))
  (l.filter (fun e => s.mayIssue false e.1 e.2)).foldl (fun b e =>
    match b with
    | none => some e
    | some a => if (s.rank e).before (s.rank a) then some e else b) none

/-! ### Fetch -/

/-- What a fetch meets. -/
inductive Fetched where
  | ok (words : List Word)
  | busy
  | fault (cause : BitVec 8) (va : Nat)
deriving DecidableEq, Repr

/-- A sector put into an instruction cache of 128 KiB (R19). DESIGN CHOICE, log 11. -/
def State.codePut (s : State) (core sec : Nat) (x : Sector) : State :=
  let c := s.core core
  let l := c.icache.del sec
  let l := if l.length < 4096 then l else l.eraseIdx (Config.victim s.fresh % 4096)
  { s.setCore core { c with icache := l.ins sec x } with fresh := s.fresh + 1 }

/-- One word fetched by a core: translated with X, read from the instruction cache or through the ECC checker at its home;
a poisoned sector, or an address that is no multiple of 4, halts with cause 0xC2 (R161, R374; DESIGN CHOICE, log 11 and
log 31). -/
def State.fetchWord (s : State) (core ctx : Nat) (super : Bool) (va : Nat) : State × Fetched :=
  if va % 4 ≠ 0 then (s, .fault 0xC2 va)
  else
    match s.coreTranslate core ctx super false 2 va with
    | (t, .busy) => (t, .busy)
    | (t, .fault c) => (t, .fault c va)
    | (t, .ok pa e leaf) =>
      let t := t.noteLeaf ctx pa leaf
      let word (x : Sector) : Fetched := .ok [BitVec.ofNat 32 (sectorBytes x.data (pa % 32) 4)]
      if t.window pa = some 3 then (t, .ok [(t.ctlRead ctx pa 4).setWidth 32])
      else
        match (t.core core).icache.look (pa / 32) with
        | some x => (t, word x)
        | none =>
          let (t, x, _) := (t.countPage ctx pa e leaf).homeRead (pa / 32)
          if x.poison then (t, .fault 0xC2 va) else (t.codePut core (pa / 32) x, word x)

/-- Instruction prefetch for a group (R340); a poisoned line is discarded (R367). -/
def State.prefetch (s : State) (gid va : Nat) : State :=
  let g := s.group gid
  let core := coreOf gid
  match s.speculative core g.ctx g.super false 2 va with
  | none => s
  | some pa =>
    if !g.live || ((s.core core).icache.look (pa / 32)).isSome then s
    else
      let (t, x, _) := s.homeRead (pa / 32)
      if x.poison then t else t.codePut core (pa / 32) x

/-- n words fetched one after another. -/
def State.fetchWords (core ctx : Nat) (super : Bool) : Nat → Nat → State → State × Fetched
  | 0, _, s => (s, .ok [])
  | n + 1, va, s =>
    match s.fetchWord core ctx super va with
    | (s, .ok ws) =>
      match State.fetchWords core ctx super n (va + 4) s with
      | (s, .ok vs) => (s, .ok (ws ++ vs))
      | r => r
    | r => r

/-- All the words of the instruction at an address: the first fixes their number (R86). -/
def State.fetch (s : State) (core ctx : Nat) (super : Bool) (va : Nat) : State × Fetched :=
  match s.fetchWord core ctx super va with
  | (s, .ok (w :: _)) => State.fetchWords core ctx super (lengthWords w) va s
  | r => r

/-- The instruction of some words, legal or not: its meaning decides what an illegal one does (R60). -/
def instrOf (walker : Bool) (ws : List Word) : Option Instr :=
  match decode walker (ws.flatMap bytesOfWord) with
  | .ok i _ => some i
  | .illegal _ i _ => some i
  | .truncated => none

/-! ### Trials -/

/-- What the device would be if a split's next instruction issued now. -/
def State.trial (s : State) (gid sid : Nat) : Option State :=
  let g := s.group gid
  match s.fetch (coreOf gid) g.ctx g.super (g.split sid).pc.toNat with
  | (t, .ok ws) =>
    match instrOf false ws with
    | some i =>
      match exec i { t with who := .split gid sid } with
      | .next u => some u
      | _ => none
    | none => none
  | _ => none

/-- The stall cause for which a split's next instruction would be held, if it would (R271, R382). -/
def State.heldFor (s : State) (gid sid : Nat) : Option Nat :=
  match s.trial gid sid with
  | none => some 8
  | some u =>
    let x := (u.group gid).split sid
    if (u.group gid).issued = (s.group gid).issued && x.wait ≠ .none then some x.why else none

/-- The splits of a slot that are ready (R271): those that nothing holds when each is tried. DEDUCED, log 42. -/
def State.readyIn (s : State) (slot : Nat) : List Nat :=
  (s.slotGroups slot).flatMap (fun e => (e.2.liveSplits.filter (fun i =>
    s.ableTo false e.1 i && (s.heldFor e.1 i).isNone)).map (fun i => e.1 * 4 + i))

/-- The slot notes the splits that are ready when a YIELD issues (R142). -/
def State.noted (s : State) (gid : Nat) (i : Instr) : State :=
  match i with
  | .yield _ =>
    let k := slotOf gid
    s.setSlot k { s.slot k with peers := s.readyIn k }
  | _ => s

/-! ### Plans -/

/-- What a step does: an instruction or event is executed, or something of the machine moves. -/
inductive Plan where
  | exec (i : Instr) (s : State)
  | done (s : State)

/-- A split's next instruction is fetched and taken up. -/
def State.runSplit (s : State) (gid sid : Nat) : Plan :=
  let g := s.group gid
  match s.fetch (coreOf gid) g.ctx g.super (g.split sid).pc.toNat with
  | (t, .ok ws) =>
    match instrOf false ws with
    | some i => .exec i { t.noted gid i with who := .split gid sid }
    | none => .done t
  | (t, .busy) => .done (t.hold gid sid 0)
  | (t, .fault c va) => .done (t.halt g.ctx c (BitVec.ofNat 64 va) (slotOf gid))

/-- One word of walker code, read from DRAM (R250); none where it does not translate. -/
def State.walkerWord (s : State) (ctx va : Nat) : State × Option (Word × Bool) :=
  match s.translate ctx false false 2 va with
  | .ok pa _ _ =>
    if va % 4 ≠ 0 || s.window pa = some 3 then (s, none)
    else
      let k := s.dram pa / 32
      let (s, poison, _) := s.eccRead k
      (s, some (BitVec.ofNat 32 (sectorBytes (dramSector s.mem k) (pa % 32) 4), poison))
  | _ => (s, none)

def State.walkerWords (ctx : Nat) : Nat → Nat → State → State × Option (List (Word × Bool))
  | 0, _, s => (s, some [])
  | n + 1, va, s =>
    match s.walkerWord ctx va with
    | (s, some w) =>
      match State.walkerWords ctx n (va + 4) s with
      | (s, some l) => (s, some (w :: l))
      | r => r
    | (s, none) => (s, none)

/-- A walker can take up its next instruction. -/
def State.walkerReady (s : State) (id : Nat) : Bool :=
  let k := s.walker id
  let ctx := (s.search k.search).ctx
  s.hasWalker id && !k.waiting && !k.travel && !s.power.entering && s.mayWork ctx (776 + 4 * k.stack + k.engine)

/-- The walker that an engine (stack × 4 + engine) serves next: its ready contexts round-robin (R250, R252). -/
def State.nextWalker (s : State) (engine : Nat) : Option Nat :=
  let l := (s.walkers.filter (fun e => 4 * e.2.stack + e.2.engine = engine && s.walkerReady e.1)).map (·.1)
  l.find? (fun id => s.lastWalker.get 0 engine ≤ id) <|> l.head?

/-- A walker's next instruction, when its engine serves it: code that does not translate is a fault of the walker, at the word
that does not; code on a page in migration waits;
poisoned code halts the context (R250, R374). -/
def State.runWalker (s : State) (id : Nat) : Plan :=
  let k := s.walker id
  let ctx := (s.search k.search).ctx
  let engine := 4 * k.stack + k.engine
  if s.nextWalker engine ≠ some id then .done s
  else
    let s := { s with lastWalker := s.lastWalker.set 0 engine (id + 1) }
    if s.translate ctx false false 2 k.pc.toNat = .busy then .done s
    else
      match s.walkerWord ctx k.pc.toNat with
      | (t, none) => .done (t.walkerMiss id (some k.pc.toNat))
      | (t, some (w, _)) =>
        let at' (i : Nat) : Nat := k.pc.toNat + 4 * i
        let later := (List.range (lengthWords w)).find? (fun i => match s.translate ctx false false 2 (at' i) with
          | .ok _ _ _ => false
          | _ => true)
        if later.any (fun i => s.translate ctx false false 2 (at' i) = .busy) then .done t
        else
        match State.walkerWords ctx (lengthWords w) k.pc.toNat t with
        | (t, none) => .done (t.walkerMiss id (some (at' (later.getD 0))))
        | (t, some l) =>
          if l.any (·.2) then .done (t.halt ctx 0xC2 k.pc (776 + 4 * k.stack + k.engine))
          else
            match instrOf true (l.map (·.1)) with
            | some i => .exec i { t with who := .walker id }
            | none => .done t

/-! ### Time -/

/-- The stall cause of a group in a cycle in which it issues nothing (R382): that of its split with the longest wait. During a
stall count fetch, spill work or the throttle comes first, when its next instruction waits for one. -/
def State.stallCause (s : State) (gid : Nat) : Option Nat :=
  let g := s.group gid
  let now := s.cycle
  let l := g.liveSplits.filter (fun i => !(g.split i).parked && g.handler.all (fun h => h.split = i))
  match l with
  | [] => none
  | i :: is =>
    let k := is.foldl (fun b j => if (g.split j).last < (g.split b).last then j else b) i
    let x := g.split k
    match x.wait with
    | .none =>
      if now < x.readyAt then
        match s.heldFor gid k with
        | some c => some (if c = 2 || c = 7 || c = 8 then c else 0)
        | none => some 0
      else none
    | .retry c => if now < c then (if x.why = 10 then some 0 else if x.why ≤ 8 then some x.why else none) else none
    | .queue .. | .publish => some 6
    | .muster _ | .bar | .relay => some 5
    | .claim => some 3
    | .sleep => none

/-- A group's stall counters over some cycles; a cycle in which it issued counts none. A store of its that R205 holds
counts the dependency stall when nothing else does (R309). -/
def State.countCycles (s : State) (gid : Nat) (held : Bool) (n : Nat) : Group :=
  let g := s.group gid
  let n := if g.splits.any (fun e => e.2.live && e.2.last = s.cycle) && g.issued ≠ 0 then n - 1 else n
  if !g.live || n = 0 then g
  else
    match s.stallCause gid <|> (if held then some 0 else none) with
    | some c => g.countStall c n
    | none => g

/-- A store of a group, issued or about to issue, is held by the interlock of R205. -/
def State.storesHeld (s : State) (gid : Nat) : Bool :=
  let g := s.group gid
  g.live && (g.accs.any (fun a =>
    a.space = 1 && a.kind.writes && a.lanes.any (fun l => s.matrixHolds gid a.id l.addr a.bytes)) ||
    g.liveSplits.any (fun i => (g.split i).why = 10 && (match (g.split i).wait with
      | .retry c => s.cycle < c
      | _ => false)))

/-- The same of any group of a core. -/
def State.storeHeld (s : State) (core : Nat) : Bool :=
  s.groups.any (fun e => coreOf e.1 = core && s.storesHeld e.1)

/-- Of some cycles, those in which the running matrix instruction of a core waits: for its start, for full words, for empty
ones, or in the fetch lead (R304, R309). -/
def State.operandWait (s : State) (m : Matrix) (n : Nat) : Nat :=
  if !m.started || (m.op = 5 && m.step < m.steps && m.phase ≠ 2) ||
      (!m.written.isEmpty && m.row < 128 && !m.rowReady (s.wg m.wg) m.row) then n
  else min n (m.ready - s.cycle)

/-- A request of a copy waits for its translation: its page is in migration (R310, R344). -/
def State.copyBusy (s : State) (c : Copy) (want : Want) (l : Loc) : Bool :=
  l.space ≠ 1 && s.translate c.ctx c.super (l.space = 2) want l.addr = .busy

/-- Why the copy engine writes nothing, of the k-th copy (R310): 8 its next request, to read or to write, waits for its
translation, 9 the window is full or channel 1 of the cluster's injection port has no room, 10 a request is outstanding; none
when it waits for words, for its turn, for earlier accesses or for another device. DEDUCED, log 87. -/
def State.copyCause (s : State) (core k : Nat) (c : Copy) : Option Nat :=
  if !s.copyGoes core c then none
  else if c.staged.any (fun x => s.copyBusy c 1 x.dst) then some 8
  else
    match c.units with
    | [] => none
    | unit :: _ =>
      let lines := unit.lines c
      let space := match unit with | .sector src _ => src.space | .put _ => c.dst.space | _ => c.src.space
      let writes := match unit with | .sector _ dst => s.copyBusy c 1 dst | _ => false
      if lines.isEmpty then (if writes then some 8 else none)
      else if !s.mayRequest core k then none
      else if lines.any (fun l => s.copyBusy c 0 ⟨space, 128 * l⟩) then some 8
      else if !s.hasRoom core c unit || s.linkFull (core / 4) 1 then some 9
      else some 10

/-- Counters of a core's engines over some cycles (R309, R310). -/
def State.countCore (s : State) (n : Nat) (e : Nat × Core) : Nat × Core :=
  let add (k n : Nat) (b : Bool) (t : Tab Nat) : Tab Nat := if b then t.set 0 k (t.get 0 k + n) else t
  let c : Core := { e.2 with matrix := e.2.matrix.map (fun (m : Matrix) => m.observe (s.wg m.wg) s.cycle) }
  let t := add 2 n (!c.matrix.isEmpty) c.counters
  let t := add 0 (match c.matrix with | m :: _ => s.operandWait m n | [] => 0) (!c.matrix.isEmpty) t
  let t := add 1 n (s.storeHeld e.1) t
  let causes := c.copies.zipIdx.filterMap (fun x => s.copyCause e.1 x.2 x.1)
  let idle := if c.wroteAt = s.cycle + 1 then n - 1 else n
  (e.1, { c with counters := match [8, 9, 10].find? causes.contains with
    | some k => add k idle true t
    | none => t })

/-- Hop wait and heap wait of the walkers over some base-die cycles (R346, R383). -/
def State.countWalkers (s : State) (n : Nat) : Tab Nat :=
  s.walkers.foldl (fun t e =>
    let add (k : Nat) (b : Bool) (t : Tab Nat) : Tab Nat := if b then t.set 0 k (t.get 0 k + n) else t
    add (8 * e.2.stack + 3) e.2.travel (add (8 * e.2.stack + 4) e.2.waiting t)) s.baseDie

/-- Some core cycles and nanoseconds pass. Cores stand still outside Run. DESIGN CHOICE, log 32. -/
def State.pass (s : State) (cycles ns : Nat) : State :=
  let s := { s with time := s.time + ns }
  if s.power.state ≠ .run || !s.booted then s
  else
    { s with
      cycle := s.cycle + cycles, baseDie := s.countWalkers (2 * ns), cores := s.cores.map (s.countCore cycles),
      groups := s.groups.map (fun e => (e.1, s.countCycles e.1 (s.storesHeld e.1) cycles)) }

/-- One core cycle at the core clock, with the nanoseconds it completes. DESIGN CHOICE, log 78. -/
def State.tick (s : State) : State :=
  let f := max 1 s.power.clock
  let sub := s.sub + 1000
  { s with sub := sub % f }.pass 1 (sub / f)

/-- A split of some slot is ready in one of the next cycles, and issues in it (R271, R272). -/
def State.issues (s : State) (cycles : Nat) : Bool :=
  let t := { s with cycle := s.cycle + (cycles - 1) }
  s.booted && s.power.state = .run && (s.groups.map (fun e => slotOf e.1)).eraseDups.any (fun k => (t.chosen k).isSome)

/-- Cycles in which no slot has anything to issue and no throttle rotation is due (R272 to R274). -/
def State.passIdle (s : State) (cycles ns : Nat) : State :=
  if s.issues (max 1 cycles) || (s.rotationBy (s.cycle + (cycles - 1))).isSome || s.campReady then s else s.pass cycles ns

/-! ### Turns -/

/-- Transactions of the sideband, the power inputs and a cold start, which reach the device in every state. -/
def isAlways : Instr → Bool
  | .sidebandReadStatus | .sidebandEndCamp _ | .sidebandEnterCamp _ | .sidebandSelectImage _ | .sidebandWriteStaging _ _
  | .sidebandVerifyImage _ | .sidebandReadRecovery | .sidebandNack | .coldInitialisation | .powerFailWarning
  | .powerFailWarningFall | .campExit => true
  | _ => false

/-- Frames and management commands, which end an idle state (R384). -/
def isFrame : Instr → Bool
  | .enqWaybill _ | .getWaybill _ | .getdataWaybill _ | .putWaybill _ | .putackWaybill _ | .topksumWaybill _
  | .ackOnlyWaybill _ | .waybillDiscard _ | .rdmaWrite _ | .rdmaRead _ | .rdmaSend _ | .roceInvalidRequest _
  | .frameDiscard _ | .mgmtAttest _ | .mgmtReadStatus _ | .mgmtWriteLtol _ | .mgmtEnterCamp _ | .mgmtEnqueue _
  | .mgmtUnknownCommand _ => true
  | _ => false

/-- MGMT command 0x02, the one that is answered after a failed verification (R395). -/
def isStatusRead : Instr → Bool
  | .mgmtReadStatus _ => true
  | _ => false

def isIdleEnd : Instr → Bool
  | .idleExit => true
  | _ => false

/-- An event happens, in the states of the device that let it. -/
def State.event (s : State) (i : Instr) : Plan :=
  let s := { s with who := .none }
  if isAlways i then .exec i s
  else if !s.booted then (if isStatusRead i then .exec i s else .done s)
  else if s.power.state = .camp then .done s
  else if s.power.state.idle then
    (if isFrame i then .exec i s.leaveIdle else if isIdleEnd i then .exec i s else .done s)
  else .exec i s

/-- A cached translation is replaced: of a core, or beyond its 64 of the core's cluster. -/
def State.evictTlb (s : State) (core k : Nat) : State :=
  if k < 64 then s.setCore core { s.core core with tlb := (s.core core).tlb.eraseIdx k }
  else
    let c := s.cluster (core / 4)
    s.setCluster (core / 4) { c with tlb := c.tlb.eraseIdx (k - 64) }

/-- A DRAM error of a stack appears: the sector fails when it is next read (R366). -/
def State.addError (s : State) (sector : Nat) (lasting : Bool) : State :=
  if sector * 32 < blBase || capBase ≤ sector * 32 || s.ecc.any (fun e => e.1 = sector) then s
  else { s with ecc := (sector, lasting) :: s.ecc }

/-- A turn of an agent of the running device. DESIGN CHOICE, log 10. -/
def State.runTurn (s : State) (t : Turn) : Plan :=
  match t with
  | .issue core slot =>
    match s.chosen (core * 4 + slot % 4) with
    | some (gid, sid) => s.runSplit gid sid
    | none => .done s
  | .split gid sid => if s.chosen (slotOf gid) = some (gid, sid) then s.runSplit gid sid else .done s
  | .walker id => s.runWalker id
  | .event i => .exec i s
  | .perform gid id lane => .done (s.perform gid id lane)
  | .copyUnit core k u => .done (s.copyWork core k u)
  | .copyRequest core k => .done (s.copyRequest core k)
  | .copyStaged core k j => .done (s.copyStaged core k j)
  | .flags gid k => .done (s.joinFlags gid k)
  | .element k => .done (s.takeElement k)
  | .prefetch gid va => .done (s.prefetch gid va)
  | .readAhead core k => .done (s.readAhead core k)
  | .evictCode core sector => .done (s.setCore core { s.core core with icache := (s.core core).icache.del sector })
  | .evictTlb core k => .done (s.evictTlb core k)
  | .tick cycles ns => .done (s.passIdle cycles ns)
  | .send x => .done (s.sendPacket x)
  | .drain port chan flits => .done (s.takeFlits port chan flits)
  | .sample cluster => .done (s.sampleFlits cluster)
  | .ecc sector lasting => .done (s.addError sector lasting)
  | .matrixRow core =>
    match (s.core core).matrix with
    | m :: _ => if s.mayWork (s.wg m.wg).ctx (512 + core) then .done (s.matrixRow core) else .done s
    | [] => .done s
  | .matrixRead core sector =>
    match (s.core core).matrix with
    | m :: _ => if s.mayWork (s.wg m.wg).ctx (512 + core) then .done (s.matrixRead core sector) else .done s
    | [] => .done s
  | .matrixPass core =>
    match (s.core core).matrix with
    | m :: _ => if s.mayWork (s.wg m.wg).ctx (512 + core) then .done (s.matrixPass core) else .done s
    | [] => .done s
  | .near core k => .done (s.nearStep core k)
  | .campEntry => .done (if s.campReady then s.campEnter else s)

/-- A turn taken. -/
def State.turn (s : State) (t : Turn) : Plan :=
  match t with
  | .event i => s.event i
  | .tick cycles ns => .done (s.passIdle cycles ns)
  | .ecc sector lasting => .done (s.addError sector lasting)
  | t => if s.booted && s.power.state = .run then s.runTurn t else .done s

/-! ### Without a turn -/

/-- The slots that hold a group, the focus slot first. -/
def State.slotsInTurn (s : State) : List Nat := (s.focus :: s.groups.map (fun e => slotOf e.1)).eraseDups

/-- An access of the slot's groups that can be performed, oldest first. -/
def State.nextAccess (s : State) (slot : Nat) : Option (Nat × Acc) :=
  (s.slotGroups slot).findSome? (fun e =>
    (e.2.accs.find? (fun a => !s.accHeld e.1 a)).map (fun a => (e.1, a)))

/-- A result of the slot's groups that has not arrived. -/
def State.nextReply (s : State) (slot : Nat) : Option Nat :=
  ((s.slotGroups slot).find? (fun e => !e.2.replies.isEmpty)).map (·.1)

/-- An access of the slot performed, if anything of it can be now. -/
def State.accessOf (s : State) (slot : Nat) : Option State :=
  match s.nextAccess slot with
  | some (gid, a) =>
    let t := s.perform gid a.id (a.lanes.headD ⟨0, 0, 0, 0⟩).lane
    if (t.group gid).accs = (s.group gid).accs && (t.ctx (s.group gid).ctx).halted = (s.ctx (s.group gid).ctx).halted then
      none
    else some t
  | none => none

/-- An access of some slot performed, the focus slot's first: every one in finite time (R264). -/
def State.accessStep (s : State) : Option State := s.slotsInTurn.findSome? s.accessOf

/-- A split that some slot has ready, the focus slot first (R272). -/
def State.anyChosen (s : State) : Option (Nat × Nat) :=
  s.slotsInTurn.findSome? s.chosen

/-- A walker whose engine has run none in this cycle, and that its engine serves next. -/
def State.anyWalker (s : State) : Option Nat :=
  (s.walkers.map (fun e => 4 * e.2.stack + e.2.engine)).eraseDups.findSome? (fun k =>
    if s.walkedAt.get 0 k = s.cycle + 1 then none else s.nextWalker k)

/-- The fabric's next work, as a plan (R298). -/
def State.fabricPlan (s : State) (x : FabricWork) : Plan :=
  let t := { s with who := .none }
  match x with
  | .promote port input chan => .exec (.packetPromotion port input chan) t
  | .grant port => .exec (.fabricGrant port) t
  | .take port chan => .done (s.takeFlits port chan 16)

/-- What moves without a turn (DESIGN CHOICE, log 4): an access is performed, a result arrives, the focus slot's first;
every slot issues what it has ready; a throttle rotation that is due happens; every walker engine serves a walker; the
fabric grants; then a cycle passes (R252, R264, R272 to R274, R298). -/
def State.focusPlan (s : State) : Plan :=
  match s.accessStep with
  | some t => .done t
  | none =>
    match s.slotsInTurn.findSome? s.nextReply with
    | some gid => .done (s.arrive gid 0)
    | none =>
      match s.anyChosen with
      | some (gid, sid) => s.runSplit gid sid
      | none =>
        match s.rotationBy s.cycle with
        | some gid => .exec (.throttleRotation gid) { s with who := .none }
        | none =>
          match s.anyWalker with
          | some id =>
            let k := s.walker id
            { s with walkedAt := s.walkedAt.set 0 (4 * k.stack + k.engine) (s.cycle + 1) }.runWalker id
          | none =>
            match s.fabricWork with
            | some x => s.fabricPlan x
            | none => .done s.tick

/-- A context with a STEP under way (R262, R378). -/
def State.stepping (s : State) : Option (Nat × Option Nat) :=
  s.ctxs.findSome? (fun e => e.2.stepReq.map (fun r => (e.1, r)))

/-- The focused split's instruction has still to issue, and can: it waits for spill-engine work, an interlock, a scoreboarded
register, the throttle, its fetch, or the end of its SLEEP, and not as R262 lists. -/
def State.stepWaits (s : State) (ctx gid n : Nat) : Bool :=
  let g := s.group gid
  let x := g.split g.dbgfocus.toNat
  s.canStep ctx gid && g.issued = n && (s.ctx ctx).debugHalt && (g.handler.isSome || (takeTrap g g.traps).isNone) &&
    (match x.wait with
    | .retry _ => x.why ≤ 2 || x.why = 7 || x.why = 8 || x.why = 11
    | .sleep => true
    | _ => false)

/-- The focused split of a context takes up one instruction, and is tried again while that waits for work that a step does;
then STEPS is set (R262). -/
def State.stepPlan (s : State) (ctx : Nat) (r : Option Nat) : Plan :=
  let c := s.ctx ctx
  let gid := c.focus
  let g := s.group gid
  let sid := g.dbgfocus.toNat
  let x := g.split sid
  match r with
  | some n =>
    if !s.stepWaits ctx gid n then .done (s.stepDone ctx gid n)
    else if x.free s.cycle then s.runSplit gid sid
    else
      match g.sleeps.look sid with
      | some t => if x.wait = .sleep && t ≤ s.time then .exec (.sleepEnd gid sid) { s with who := .none } else s.focusPlan
      | none => s.focusPlan
  | none =>
    let t := s.setGroup gid (g.setSplit sid { x with wait := .none, readyAt := min x.readyAt s.cycle })
    let t := State.fillAll 64 gid (t.setCtx ctx { c with stepReq := some (some g.issued) })
    if s.canStep ctx gid && (g.handler.isSome || (takeTrap g g.traps).isNone) then t.runSplit gid sid else .done t

/-- WHAT THE DEVICE DOES NEXT: the first turn; without one: a cold start, the end of Camp entry, a STEP, the focus
slot. -/
def State.plan (s : State) : Plan :=
  match s.turns with
  | t :: rest => { s with turns := rest }.turn t
  | [] =>
    if !s.booted then .done s.coldInit
    else if s.campReady then .done s.campEnter
    else if s.power.state ≠ .run then .done s.tick
    else
      match s.stepping with
      | some (ctx, r) => s.stepPlan ctx r
      | none => s.focusPlan

end Sys2Proof.Machine
end

