-- ==== Sys2Proof/Machine/Place.lean ====
section
/-! DEFINITION. A program put into the machine from outside (DESIGN CHOICE, log 1): what the supervisor and the distributor would have
set up before its first instruction: a running context with one page mapped, and one resident group at the code. -/

namespace Sys2Proof.Machine

/-- Physical addresses of the level-1 table, the level-2 table and the code, whose virtual address is the same. -/
def placeRoot : Nat := 0x20000
def placeTable : Nat := 0x40000
def placeCode : Nat := 0x80000

/-- The bytes of a program: words of an opcode-table row, lowest first, then zeros. -/
def placeBytes (nbits w : Nat) : List Byte :=
  (tableWords (w % 2 ^ nbits)).flatMap bytesOfWord ++ List.replicate 12 0

/-- The context: live, its root at the level-1 table. -/
def placeContext : Context := { live := true, root := BitVec.ofNat 64 placeRoot }

/-- The group: 256 rows, all of them in its window, at the code with every lane (R77, R253). -/
def placeGroup : Group :=
  { live := true, wg := 1, phys := List.range 256, winSize := 256, rtop := 256,
    splits := [(0, { live := true, pc := BitVec.ofNat 64 placeCode, mask := 0xFFFF_FFFF })] }

/-- Its workgroup, alone on core 0 with everything a descriptor can ask for. -/
def placeWorkgroup : Workgroup :=
  { launch := 1, entry := BitVec.ofNat 64 placeCode, rowsPer := 256, ngrp := 1, sgran := 16, accm := 0xF,
    tilem := 0xFF, spill := 8, groups := [0] }

/-- Its launch: one workgroup, placed. -/
def placeLaunch : Launch := { grid := 1, next := 1, cores := [0] }

/-- Three table sectors and the code at the home slices: a large page that maps the first 512 MiB onto itself,
writable and executable (R337, R338). -/
def State.placeMemory (s : State) (bs : List Byte) : State :=
  let s := s.homePut (placeRoot / 32) (BitVec.ofNat 256 (placeTable + 1)) false
  let s := s.homePut (placeTable / 32) 0xF false
  s.homePut (placeCode / 32) (sectorOf bs) false

/-- No cache holds a translation of a context. -/
def State.dropContext (s : State) (ctx : Nat) : State :=
  { s with
    cores := s.cores.map (fun c => (c.1, { c.2 with tlb := c.2.tlb.filter (·.ctx ≠ ctx) })),
    clusters := s.clusters.map (fun c => (c.1, { c.2 with tlb := c.2.tlb.filter (·.ctx ≠ ctx) })) }

/-- The machine about to run one instruction: its group's split has the next turn. -/
def State.placeProgram (s : State) (nbits w : Nat) : State :=
  let s := (s.dropContext 0).placeMemory (placeBytes nbits w)
  { s with
    booted := true, power := { s.power with state := .run, entering := false }, turns := [.split 0 0],
    ctxs := s.ctxs.put 0 placeContext, groups := s.groups.put 0 placeGroup, wgs := s.wgs.put 1 placeWorkgroup,
    launches := s.launches.put 1 placeLaunch, slots := s.slots.put 0 {},
    cores := s.cores.put 0 {}, clusters := s.clusters.put 0 { owner := 0x80 }, busy := without s.busy placeTable }

end Sys2Proof.Machine
end

