-- ==== Sys2Proof/Machine/Step.lean ====
section
/-! DEFINITION. One step of the device. -/

namespace Sys2Proof.Machine

/-- One step: the instruction or event that comes next has its meaning; everything else that moves is a next
state. -/
def step (s : State) : Res :=
  match s.plan with
  | .exec i t => exec i t
  | .done t => .next t

/-- The state with an opcode-table word as the next instruction (DESIGN CHOICE, log 1). -/
def State.withFetchWord (s : State) (nbits w : Nat) : State := s.placeProgram nbits w

end Sys2Proof.Machine
end

