-- ==== Sys2Proof/Safety.lean ====
section
/-! DEFINITION. The terms in which claims are stated: safe states and runs; when a split's instruction issues at once; and
what an instruction that writes only registers leaves behind. -/

namespace Sys2Proof.Machine

/-- No context has been halted by a fatal cause (R375). -/
def State.unhalted (s : State) : Bool := s.ctxs.all (fun e => !e.2.halted || e.2.debugHalt)

/-- Memory is in its canonical form. -/
def State.wf (s : State) : Bool := s.mem.wf

/-- A safe state. -/
def State.safe (s : State) : Bool := s.wf && s.unhalted

/-- n steps, all answered with a next state, through safe states only. -/
def SafeRun : Nat → State → Prop
  | 0, s => s.safe = true
  | n + 1, s => s.safe = true ∧ ∃ t, step s = .next t ∧ SafeRun n t

/-! ### An instruction that issues at once -/

/-- The encoding of a core instruction, extended or base (R79, R82); none for events and unassigned words. -/
def encOf (i : Instr) : Option Enc :=
  match i.code with
  | .ext xop x => some (Enc.ofExt xop x)
  | .base bop w => (baseRow bop).map (fun r => Enc.ofBase r.form r.xop r.mod w)
  | .unassigned _ | .event => none

/-- A group once the results that have become readable have joined its registers and flags (R55, R100). -/
def State.calm (s : State) (gid : Nat) : Group := (s.group gid).settle s.cycle

/-- The state with a group's readable results joined. -/
def State.calmed (s : State) (gid : Nat) : State := s.setGroup gid (s.calm gid)

/-- The source fields an entry reads as operands (R79): field, 64-bit. -/
def Enc.sources (e : Enc) : List (Src × Bool) :=
  match shape e.xop e.x with
  | none => []
  | some sh =>
    let f (r : SrcRule) (s : Src) : List (Src × Bool) := if r.cls.isEmpty then [] else [(s, r.wide)]
    f sh.a e.x.a ++ f sh.b e.x.b ++ (match sh.c with | .third r => f r e.x.cSrc | _ => [])

/-- The effective lanes of an instruction of a split: active, with the guard (R39). -/
def State.lanes (s : State) (gid sid : Nat) (e : Enc) : Mask :=
  let pm := (s.calm gid).pred e.x.gp.toNat
  ((s.group gid).split sid).mask &&& (if e.x.gn then ~~~pm else pm)

/-- A split is to issue, and nothing before its instruction intervenes: every earlier result of the group is readable and
none is outstanding (R55 to R58), no trap is deferred or waits for a place in the queue (R370 to R372), no breakpoint
matches (R380) and no step trap is enabled (R381). -/
structure Quiet (s : State) (gid sid : Nat) : Prop where
  who : s.who = .split gid sid
  fresh : (s.calm gid).fresh = []
  pending : (s.group gid).pending = []
  deferred : (s.group gid).deferred = []
  queue : (s.group gid).traps.length ≤ 4
  noStep : (s.group gid).stepping = false
  noBreak : ((s.group gid).split sid).skips.contains ((s.group gid).split sid).pc = true ∨
    (s.ctx (s.group gid).ctx).matchBp ((s.group gid).split sid).pc = none

/-- The instruction is legal where it stands (R60) and some lane executes it (R39). -/
structure Legal (s : State) (gid sid : Nat) (e : Enc) : Prop where
  legal : e.sub = 0
  window : vTopOf e.xop e.x ≤ (s.group gid).winSize
  lanes : s.lanes gid sid e ≠ 0

/-- The same, and the ports it names are bound, full or empty as it needs them, and in order (R46, R169, R279). -/
structure Ready (s : State) (gid sid : Nat) (e : Enc) : Prop extends Legal s gid sid e where
  bound : ∀ i ∈ inPorts e.sources ++ outPorts e.x.d, ((s.group gid).port i).bound = true
  full : ∀ i ∈ inPorts e.sources, s.portFull gid i = true
  empty : ∀ i ∈ outPorts e.x.d, s.portEmpty gid i = true
  order : (s.calmed gid).portsOrdered gid sid (inPorts e.sources ++ outPorts e.x.d) = true

/-- What a source field gives in a lane (R40 to R49); no read is short. The high half of a 64-bit port read is open (DESIGN CHOICE, log 5). -/
def State.operand (s : State) (gid : Nat) (e : Enc) (how : As) (wide : Bool) (f : Src) (lane : Nat) : Nat :=
  readSrc (s.calm gid) { State.portView { s with fresh := s.fresh + 1 } gid with seen := fun g _ => g } e.x.lit how wide f
    lane

/-! ### What it leaves behind -/

/-- The split has moved past its instruction: the next address, the stall count and the time of issue (R33, R55). -/
structure Passed (s t : State) (gid sid : Nat) (e : Enc) : Prop where
  pc : ((t.group gid).split sid).pc = ((s.group gid).split sid).pc + BitVec.ofNat 64 e.size
  readyAt : ((t.group gid).split sid).readyAt = s.cycle + e.x.stall.toNat + 1
  last : ((t.group gid).split sid).last = s.cycle
  wait : ((t.group gid).split sid).wait = .none
  mask : ((t.group gid).split sid).mask = ((s.group gid).split sid).mask
  live : ((t.group gid).split sid).live = ((s.group gid).split sid).live
  splits : ∀ k, k ≠ sid → (t.group gid).split k = (s.group gid).split k

/-- Nothing outside the group's registers, its slot's notes of issue and its workgroup's ports has changed: not memory, not
a cache, not another group, and of the group no status, trap, mode or stack register. -/
structure OnlyRegs (s t : State) (gid : Nat) : Prop where
  device : t = { s with groups := t.groups, slots := t.slots, wgs := t.wgs, fresh := t.fresh }
  memory : ∀ a, t.mem.byte a = s.mem.byte a
  groups : ∀ k, k ≠ gid → t.group k = s.group k
  slots : ∀ k, k ≠ slotOf gid → t.slot k = s.slot k
  slot : t.slot (slotOf gid) = { s.slot (slotOf gid) with
    lastPc := (t.slot (slotOf gid)).lastPc, rotation := (t.slot (slotOf gid)).rotation,
    issuedAt := (t.slot (slotOf gid)).issuedAt }
  group : t.group gid = { s.calm gid with
    rows := (t.group gid).rows, o := (t.group gid).o, l := (t.group gid).l, p := (t.group gid).p, g := (t.group gid).g,
    splits := (t.group gid).splits, fresh := (t.group gid).fresh, issued := (t.group gid).issued,
    recent := (t.group gid).recent, lastSplit := (t.group gid).lastSplit, ports := (t.group gid).ports }

/-- The 32-bit rows of the window a destination names; for a pair two (R42, R267). -/
def rowsNamed (g : Group) (d : Dst) (wide : Bool) : List Nat :=
  if d.cls = .v then (if wide then [g.row d.idx.toNat, g.row (d.idx.toNat + 1)] else [g.row d.idx.toNat]) else []
/-- The o registers a destination names. -/
def oNamed (d : Dst) (wide : Bool) : List Nat :=
  if d.cls = .o then (if wide then [d.idx.toNat, d.idx.toNat + 1] else [d.idx.toNat]) else []
/-- The register word of a 32-bit half. -/
def half (v : DWord) (k : Nat) : Word := if k = 0 then v.extractLsb 31 0 else v.extractLsb 63 32

/-- The destination and every other register after a result (R45, R47): `v` is the result of each lane; the lanes are
`eff`, and a g register and the latches beside it take the lowest lane's. p0 and the zero port discard. -/
structure Registers (s t : State) (gid : Nat) (d : Dst) (wide : Bool) (eff : Mask) (v : Nat → DWord) : Prop where
  rows : ∀ n lane, lane < 32 → n ∉ rowsNamed (s.calm gid) d wide →
    (t.group gid).rows.get 0 (n * 32 + lane) = (s.group gid).rows.get 0 (n * 32 + lane)
  /-- A 32-bit result, or the high half of a pair. -/
  rowTop : d.cls = .v → ∀ lane, lane < 32 →
    (t.group gid).rows.get 0 ((s.calm gid).row (d.idx.toNat + (if wide then 1 else 0)) * 32 + lane) =
      if Mask.has eff lane then half (v lane) (if wide then 1 else 0)
      else (s.group gid).rows.get 0 ((s.calm gid).row (d.idx.toNat + (if wide then 1 else 0)) * 32 + lane)
  /-- The low half of a pair. -/
  rowLow : d.cls = .v → wide = true → (s.calm gid).row d.idx.toNat ≠ (s.calm gid).row (d.idx.toNat + 1) →
    ∀ lane, lane < 32 → (t.group gid).rows.get 0 ((s.calm gid).row d.idx.toNat * 32 + lane) =
      if Mask.has eff lane then half (v lane) 0
      else (s.group gid).rows.get 0 ((s.calm gid).row d.idx.toNat * 32 + lane)
  o : ∀ n lane, lane < 32 → (t.group gid).o.get 0 (n * 32 + lane) =
    if n ∈ oNamed d wide ∧ Mask.has eff lane then half (v lane) (n - d.idx.toNat)
    else (s.group gid).o.get 0 (n * 32 + lane)
  g : ∀ n, (t.group gid).gReg n = if d.cls = .g ∧ n = d.idx.toNat then v (lowLane eff) else (s.group gid).gReg n
  p : ∀ n lane, lane < 32 → Mask.has ((t.group gid).pred n) lane =
    if d.cls = .p ∧ n = d.idx.toNat ∧ n ≠ 0 ∧ Mask.has eff lane then decide (v lane ≠ 0)
    else Mask.has ((s.group gid).pred n) lane
  l0 : ∀ lane, lane < 32 → (t.group gid).l.get 0 lane =
    if Mask.has eff lane then half (v (if d.cls = .g then lowLane eff else lane)) 0 else (s.group gid).l.get 0 lane
  l1 : ∀ lane, lane < 32 → (t.group gid).l.get 0 (32 + lane) =
    if Mask.has eff lane then (s.group gid).l.get 0 lane else (s.group gid).l.get 0 (32 + lane)

/-- Word k of the element at a port's position (R169). -/
def Group.elem (g : Group) (i k : Nat) : Nat := ((g.port i).base + 128 * (g.port i).pos) / 4 + k

/-- Ports and the scratchpad after a result: an out port's element takes the lanes' values, 0 in the other lanes, and is
full; in ports' elements are empty; each named port has advanced; nothing else of the scratchpad has changed (R46, R169). -/
structure PortsMoved (s t : State) (gid : Nat) (ins outs : List Nat) (eff : Mask) (v : Nat → DWord) : Prop where
  word : ∀ i ∈ outs, ∀ k, k < 32 → (t.wgOf gid).sp.get 0 ((s.group gid).elem i k) =
    if Mask.has eff k then half (v k) 0 else 0
  words : ∀ a, (∀ i ∈ outs, ∀ k, k < 32 → a ≠ (s.group gid).elem i k) →
    (t.wgOf gid).sp.get 0 a = (s.wgOf gid).sp.get 0 a
  full : ∀ i ∈ outs, ∀ k, k < 32 → (t.wgOf gid).isFull ((s.group gid).elem i k) = true
  empty : ∀ i ∈ ins, ∀ k, k < 32 → (t.wgOf gid).isFull ((s.group gid).elem i k) = false
  bits : ∀ a, (∀ i ∈ ins ++ outs, ∀ k, k < 32 → a ≠ (s.group gid).elem i k) →
    (t.wgOf gid).isFull a = (s.wgOf gid).isFull a
  position : ∀ i, (t.group gid).port i =
    if i ∈ ins ++ outs then
      { (s.group gid).port i with pos := (((s.group gid).port i).pos + 1) % (max 1 ((s.group gid).port i).count) }
    else (s.group gid).port i
  rest : t.wgOf gid = { s.wgOf gid with sp := (t.wgOf gid).sp, full := (t.wgOf gid).full }
  wgs : ∀ k, k ≠ (s.group gid).wg → t.wg k = s.wg k

/-- The flags of a result, and the cycle from which it is readable and they join FPFLAGS (R55, R100, R101). -/
structure Noted (s t : State) (gid : Nat) (latency : Nat) (flags : Flags) : Prop where
  one : (t.group gid).fresh.length = 1
  cycle : ∀ f ∈ (t.group gid).fresh, f.cycle = s.cycle + latency
  flags : ∀ f ∈ (t.group gid).fresh, f.flags = flags

/-- AN INSTRUCTION OF FIXED LATENCY IS DONE: everything it changes, and that nothing else has changed. -/
structure Done (s t : State) (gid sid : Nat) (e : Enc) (wide : Bool) (latency : Nat) (v : Nat → DWord)
    (flags : Flags) : Prop where
  passed : Passed s t gid sid e
  only : OnlyRegs s t gid
  registers : Registers s t gid e.x.d wide (s.lanes gid sid e) v
  ports : PortsMoved s t gid (inPorts e.sources) (outPorts e.x.d) (s.lanes gid sid e) v
  noted : Noted s t gid latency flags

/-- Two states differ at most in groups, slots, workgroups and the counter of open values. -/
def KeepsDevice (s t : State) : Prop :=
  ∃ a b c n, t = { s with groups := a, slots := b, wgs := c, fresh := n }

/-- AN INSTRUCTION HAS BEEN TAKEN UP: the state in which it acts. Its split stands at the next instruction with the stall
count begun and waits for nothing, the issue is noted, and nothing else has changed (R33, R55). -/
structure Began (s b : State) (gid sid : Nat) (size stall : Nat) : Prop where
  group : b.group gid = { s.calm gid with
    splits := (b.group gid).splits, issued := (b.group gid).issued, recent := (b.group gid).recent,
    lastSplit := (b.group gid).lastSplit }
  split : (b.group gid).split sid =
    { (s.group gid).split sid with
      pc := ((s.group gid).split sid).pc + BitVec.ofNat 64 size, readyAt := s.cycle + stall + 1, last := s.cycle,
      wait := .none, pend := none, skips := ((s.group gid).split sid).skips.erase ((s.group gid).split sid).pc, atBreak := false }
  splits : ∀ k, k ≠ sid → (b.group gid).split k = (s.group gid).split k
  groups : ∀ k, k ≠ gid → b.group k = s.group k
  slots : ∀ k, k ≠ slotOf gid → b.slot k = s.slot k
  slot : b.slot (slotOf gid) = { s.slot (slotOf gid) with
    lastPc := (b.slot (slotOf gid)).lastPc, rotation := (b.slot (slotOf gid)).rotation,
    issuedAt := (b.slot (slotOf gid)).issuedAt }
  device : KeepsDevice s b
  fresh : b.fresh = s.fresh + 1
  wgs : b.wgs = s.wgs

/-- Of the device only this group differs. -/
structure OnlyGroup (b t : State) (gid : Nat) : Prop where
  device : t = { b with groups := t.groups }
  groups : ∀ k, k ≠ gid → t.group k = b.group k

/-- Of the device only this group differs, and of the group only this split. -/
structure OnlySplit (b t : State) (gid sid : Nat) : Prop where
  only : OnlyGroup b t gid
  group : t.group gid = { b.group gid with splits := (t.group gid).splits }
  splits : ∀ k, k ≠ sid → (t.group gid).split k = (b.group gid).split k

/-- The same with the workgroup no longer restartable (R328). -/
def State.spent (b : State) (gid : Nat) : State :=
  b.setWg (b.group gid).wg { b.wgOf gid with restartable := false }

/-- An instruction is executed to its end: exec answers a state t, by way of the state b in which the instruction acts. -/
def Takes (i : Instr) (s : State) (gid sid : Nat) (e : Enc) (post : State → State → Prop) : Prop :=
  ∃ b t, exec i s = .next t ∧ Began s b gid sid e.size e.x.stall.toNat ∧ post b t

/-- A source that no port stands in (R40 to R49), in a lane. -/
def State.source (s : State) (gid : Nat) (e : Enc) (how : As) (wide : Bool) (f : Src) (lane : Nat) : Nat :=
  readSrc (s.calm gid) noPorts e.x.lit how wide f lane

end Sys2Proof.Machine
end

