-- ==== Sys2Proof/Certificates/Slice0/Obligations.lean ====
section
/-! DEFINITION. The statements for the provers: one `def Obligations.<Name> : Prop` each, with the arithmetic of the spec's
tables written out in BitVec and Int beside them. -/

namespace Sys2Proof.Machine.Rules

/-! ### Integer tables (R113 to R124) -/

/-- The number that w bits of an operand stand for (R50, R115). -/
def num (isSigned : Bool) (w a : Nat) : Int :=
  if isSigned then (BitVec.ofNat w a).toInt else ((BitVec.ofNat w a).toNat : Int)

/-- The greatest and the least number of a type. -/
def top (isSigned : Bool) (w : Nat) : Int := if isSigned then 2 ^ (w - 1) - 1 else 2 ^ w - 1
def least (isSigned : Bool) (w : Nat) : Int := if isSigned then -2 ^ (w - 1) else 0

/-- wrap and clamp of R115, at the type's width. -/
def fit (isSigned sat : Bool) (w : Nat) (r : Int) : BitVec w :=
  BitVec.ofInt w (if sat then max (least isSigned w) (min (top isSigned w) r) else r)

/-- A result as a 64-bit register would hold it: extended by the type (R113). -/
def reg (isSigned : Bool) {w : Nat} (v : BitVec w) : DWord := if isSigned then v.signExtend 64 else v.setWidth 64

/-- The signedness and width of an instruction's type (R50). -/
def sg (e : Enc) : Bool := isSignedTy e.x.ty
def wd (e : Enc) : Nat := if isWideTy e.x.ty then 64 else 32

/-- The operand fields as bits, read in a lane: A and B at the type's width, C, and 32-bit reads. -/
structure Reads where
  a : Nat
  b : Nat
  c : Nat

/-- The exact result of class 0 but for IDOT4 and LEA (R116), with the zero divisors of R118. -/
def exact (op : Nat) (isSigned : Bool) (w : Nat) (a b c : Int) : Int :=
  match op with
  | 0x00 => a + b
  | 0x01 => a + b + c
  | 0x02 => a - b
  | 0x03 => a * b
  | 0x04 => a * b / 2 ^ w
  | 0x05 => a * b + c
  | 0x06 => if b = 0 then (if isSigned then -1 else 2 ^ w - 1) else Int.tdiv a b
  | 0x07 => a - b * Int.tdiv a b
  | 0x08 => min a b
  | 0x09 => max a b
  | 0x0A => (a.natAbs : Int)
  | _ => -a

/-- Byte j of a 32-bit operand as a number. -/
def byteNum (isSigned : Bool) (a j : Nat) : Int := num isSigned 8 (a / 2 ^ (8 * j))

/-- Class 0 (R116 to R118): the register value of a lane from its operands. -/
def intResult (e : Enc) (r : Reads) : DWord :=
  match e.xop with
  | 0x00C =>
    let sb := if bit 0 e.x.mod then !sg e else sg e
    let sum := num (sg e || sb) 32 r.c + byteNum (sg e) r.a 0 * byteNum sb r.b 0 + byteNum (sg e) r.a 1 * byteNum sb r.b 1 +
      byteNum (sg e) r.a 2 * byteNum sb r.b 2 + byteNum (sg e) r.a 3 * byteNum sb r.b 3
    reg (sg e) (fit (sg e || sb) e.x.d.sat 32 sum)
  | 0x00D => BitVec.ofNat 64 r.a + (reg (!bit 3 e.x.mod) (BitVec.ofNat 32 r.b) <<< e.x.m20)
  | op => reg (sg e) (fit (sg e) e.x.d.sat (wd e)
      (exact op (sg e) (wd e) (num (sg e) (wd e) r.a) (num (sg e) (wd e) r.b) (num (sg e) (wd e) r.c)))

/-- The width of D in class 0 (R113, R116). -/
def intWide (e : Enc) : Bool := if e.xop = 0x00C then false else if e.xop = 0x00D then true else isWideTy e.x.ty

/-- What a lane of class 0 reads: IDOT4 32-bit operands, LEA a 64-bit A and a 32-bit B (R116). -/
def intReads (s : State) (gid : Nat) (e : Enc) (lane : Nat) : Reads :=
  { a := s.operand gid e .int (intWide e) e.x.a lane,
    b := s.operand gid e .int (if e.xop = 0x00D then false else intWide e) e.x.b lane,
    c := s.operand gid e .int (intWide e) e.x.cSrc lane }

/-- Whether a comparison code of R121 holds between two numbers. -/
def compares (code : Nat) (a b : Int) : Bool :=
  match code with
  | 0 => a = b
  | 1 => a ≠ b
  | 2 => a < b
  | 3 => a ≤ b
  | 4 => b < a
  | _ => b ≤ a

/-- Bits hi:lo of a value are the field that a control word names, at width w: the length used (R120). -/
def fieldLength (w c : Nat) : Nat := if c % 256 < w then min (c / 256 % 256) (w - c % 256) else 0

/-- Class 1 (R119, R120): the register value of a lane, w the type's width. -/
def logicResult (e : Enc) (r : Reads) : DWord :=
  let w := wd e
  let a := BitVec.ofNat w r.a
  let b := BitVec.ofNat w r.b
  let z : Nat → DWord := fun n => reg (sg e) (BitVec.ofNat 32 n)
  match e.xop with
  | 0x040 => reg (sg e) (a &&& b)
  | 0x041 => reg (sg e) (a ||| b)
  | 0x042 => reg (sg e) (a ^^^ b)
  | 0x043 => reg (sg e) (a &&& ~~~b)
  | 0x044 => reg (sg e) (~~~a)
  | 0x045 => reg (sg e) (a <<< r.b)
  | 0x046 => reg (sg e) (a >>> r.b)
  | 0x047 => reg (sg e) (a.sshiftRight r.b)
  | 0x048 => reg (sg e) (a.rotateLeft r.b)
  | 0x049 => z ((List.range w).countP (fun j => a.getLsbD j))
  | 0x04A => z ((List.range w).takeWhile (fun j => !a.getLsbD (w - 1 - j))).length
  | 0x04B => z ((List.range w).takeWhile (fun j => !a.getLsbD j)).length
  | 0x04C => reg (sg e) a.reverse
  | 0x04D =>
    let n := fieldLength w r.b
    let f := (a >>> (r.b % 256)).setWidth n
    reg (sg e) (if n = 0 then 0 else if sg e then f.signExtend w else f.setWidth w)
  | _ =>
    let n := fieldLength w r.c
    let m : BitVec w := (BitVec.allOnes n).setWidth w <<< (r.c % 256)
    reg (sg e) ((b &&& ~~~m) ||| ((a <<< (r.c % 256)) &&& m))

/-- What a lane of class 1 reads: A at the type's width; B too in the two-operand forms, else 32 bits; C 32 bits (R119). -/
def logicReads (s : State) (gid : Nat) (e : Enc) (lane : Nat) : Reads :=
  let w := isWideTy e.x.ty
  { a := s.operand gid e .bits w e.x.a lane,
    b := s.operand gid e .bits (w && (e.xop ≤ 0x043 || e.xop = 0x04E)) e.x.b lane,
    c := s.operand gid e .bits false e.x.cSrc lane }

/-- POPC, CLZ and CTZ write 32 bits (R113). -/
def logicWide (e : Enc) : Bool := isWideTy e.x.ty && !(e.xop = 0x049 || e.xop = 0x04A || e.xop = 0x04B)

/-- Class 2 (R121 to R124): the register value of a lane. `eff` are the effective lanes, `p` what each lane's A is. -/
def moveResult (s : State) (gid : Nat) (e : Enc) (eff : Mask) (lane : Nat) : DWord :=
  let w := isWideTy e.x.ty
  let bitsOf (f : Src) : Nat := s.operand gid e .bits w f lane
  let low (f : Src) (l : Nat) : Nat := s.operand gid e .bits false f l
  let typed (a : Nat) : DWord := reg (sg e) (BitVec.ofNat (wd e) a)
  match e.xop with
  | 0x080 =>
    let a := num (sg e) (wd e) (s.operand gid e .int w e.x.a lane)
    let b := num (sg e) (wd e) (s.operand gid e .int w e.x.b lane)
    reg (sg e) (if compares e.x.m20 a b then 0xFFFF_FFFF#32 else 0#32)
  | 0x081 => typed (if low e.x.cSrc lane ≠ 0 then bitsOf e.x.a else bitsOf e.x.b)
  | 0x082 =>
    if bit 0 e.x.mod then
      (if w then s.sreg gid e.x.a.idx.toNat lane else reg (sg e) ((s.sreg gid e.x.a.idx.toNat lane).setWidth 32))
    else typed (bitsOf e.x.a)
  | 0x083 => typed (bitsOf e.x.a)
  | 0x084 => BitVec.ofNat 64 (low e.x.a lane * low e.x.b lane)
  | 0x085 => BitVec.ofNat 64 (max (low e.x.a lane) (low e.x.b lane))
  | 0x086 => BitVec.ofNat 64 ((low e.x.a lane + low e.x.b lane) % 2)
  | 0x087 => BitVec.ofNat 64 (1 - low e.x.a lane)
  | _ =>
    match e.x.m10 with
    | 0 => BitVec.ofNat 64 (low e.x.a lane)
    | 1 => (maskOf (fun i => Mask.has eff i && low e.x.a i = 1)).setWidth 64
    | _ => BitVec.ofNat 64 (low e.x.a lane / 2 ^ lane % 2)

/-- The width of D in class 2. -/
def moveWide (e : Enc) : Bool := isWideTy e.x.ty && (e.xop = 0x081 || e.xop = 0x082 || e.xop = 0x083)

/-! ### Across lanes (R125 to R127) -/

/-- The combination of two numbers under REDUX and SCAN (R127), at the type's width. -/
def joinTwo (e : Enc) (a b : BitVec (wd e)) : BitVec (wd e) :=
  let less (x y : BitVec (wd e)) : Bool := if sg e then x.slt y else x.ult y
  match e.x.m20 with
  | 0 => a + b
  | 1 => if less b a then b else a
  | 2 => if less a b then b else a
  | 3 => a &&& b
  | 4 => a ||| b
  | _ => a ^^^ b

/-- The identity of an operation of R127. -/
def unit (e : Enc) : BitVec (wd e) :=
  match e.x.m20 with
  | 1 => BitVec.ofInt (wd e) (top (sg e) (wd e))
  | 2 => BitVec.ofInt (wd e) (least (sg e) (wd e))
  | 3 => BitVec.allOnes (wd e)
  | _ => 0

/-- Class 3 but for XCHG (R125 to R127): the register value of a lane. -/
def laneResult (s : State) (gid : Nat) (e : Enc) (eff : Mask) (lane : Nat) : DWord :=
  let w := isWideTy e.x.ty
  let a (l : Nat) : Nat := s.operand gid e .bits w e.x.a l
  let av (l : Nat) : BitVec (wd e) := BitVec.ofNat (wd e) (a l)
  let holds (l : Nat) : Bool := a l = 1
  let b := s.operand gid e .bits false e.x.b lane
  match e.xop with
  | 0x0C0 =>
    match e.x.m10 with
    | 0 => if (lanesOf eff).all holds then 1 else 0
    | 1 => if (lanesOf eff).any holds then 1 else 0
    | 2 => if (lanesOf eff).all holds || (lanesOf eff).all (fun l => !holds l) then 1 else 0
    | _ => (maskOf (fun l => Mask.has eff l && holds l)).setWidth 64
  | 0x0C1 =>
    let from' : Nat :=
      match e.x.m10 with
      | 0 => b % 32
      | 1 => if lane < b then lane else lane - b
      | 2 => if 31 < lane + b then lane else lane + b
      | _ => lane ^^^ (b % 32)
    reg (sg e) (av from')
  | 0x0C2 => reg (sg e) ((lanesOf eff).foldl (fun t l => joinTwo e t (av l)) (unit e))
  | _ =>
    let before := (lanesOf eff).filter (fun l => if bit 3 e.x.mod then l < lane else l ≤ lane)
    reg (sg e) (before.foldl (fun t l => joinTwo e t (av l)) (unit e))

/-! ### Floating point (R145 to R159) -/

/-- The instruction flushes (R145). -/
def flushing (s : State) (gid : Nat) (e : Enc) : Bool := e.x.ftz || bit 0 (s.group gid).fpmode

/-- Classes 5 and 7 and FRND, CVT, CVTSC and the special functions (R147 to R159): bits and flags of a lane. `fl` is
flushing; the operands are read as `fpReads` says, D too where .ins keeps its other bits. -/
def fpResult (e : Enc) (fl : Bool) (r : Reads) (d : Nat) : Nat × Flags :=
  let m := e.x.m43
  let v (y : Nat) : FVal := FVal.read f32 fl y
  let out (y : FVal) : Nat × Flags := y.round f32 m fl false
  let h (j y : Nat) : FVal := FVal.read (fmtOf e.x.ty) fl (y / 2 ^ (16 * j) % 2 ^ 16)
  let both (f : FVal → FVal → FVal → FVal) : Nat × Flags :=
    let one (j : Nat) : Nat × Flags := (f (h j r.a) (h j r.b) (h j r.c)).round (fmtOf e.x.ty) m fl false
    ((one 0).1 + 2 ^ 16 * (one 1).1, (one 0).2 ||| (one 1).2)
  match e.xop with
  | 0x140 => out (FVal.add m (v r.a) (v r.b))
  | 0x141 => out (FVal.add m (v r.a) (v r.b).negate)
  | 0x142 => out (FVal.mul (v r.a) (v r.b))
  | 0x143 => out (FVal.add m (FVal.mul (v r.a) (v r.b)) (v r.c))
  | 0x144 => pick32 (fun a b => FVal.lt true b a) fl r.a r.b
  | 0x145 => pick32 (fun a b => FVal.lt true a b) fl r.a r.b
  | 0x146 => fcmp e.x.m10 fl r.a r.b
  | 0x147 => (fclass (e.x.m10 = 1) r.a r.b, 0)
  | 0x148 =>
    let (q, f) := FVal.div (v r.a) (v r.b)
    ((out q).1, f ||| (out q).2)
  | 0x187 => frnd e.x fl r.a
  | 0x188 => (cvt e.x).f fl r.a r.b r.c d
  | 0x189 => (cvtsc e.x).f fl r.a r.b r.c d
  | 0x1C0 => both (fun a b _ => FVal.add m a b)
  | 0x1C1 => both (fun a b _ => FVal.mul a b)
  | 0x1C2 => both (fun a b c => FVal.add m (FVal.mul a b) c)
  | 0x1C3 => out (FVal.total m (v r.c :: [0, 1].map (fun j => FVal.mul (h j r.a) (h j r.b))))
  | 0x1C4 =>
    let tb := if bit 0 e.x.mod then 23 - e.x.ty else e.x.ty
    let q (t j y : Nat) : FVal := FVal.read (fmtOf t) false (y / 2 ^ (8 * j) % 2 ^ 8)
    out (FVal.total m (v r.c :: [0, 1, 2, 3].map (fun j => FVal.mul (q e.x.ty j r.a) (q tb j r.b))))
  | op => special op m fl r.a

/-- How each field of a floating-point instruction is read (R44, R147, R154 to R159). -/
def fpReads (s : State) (gid : Nat) (e : Enc) (lane : Nat) : Reads :=
  let t := e.x.ty
  let tb := if bit 0 e.x.mod then 23 - t else t
  let (ha, hb, hc, wa) : As × As × As × Bool :=
    match e.xop with
    | 0x147 => (.fp 8, .bits, .fp 8, false)
    | 0x188 => (cvtHow e.x.srcTy, .fp 8, .fp 8, isWideTy e.x.srcTy)
    | 0x189 => (.fp e.x.srcTy, if e.x.m10 = 0 then .bits else .fp 8, .fp 8, false)
    | 0x1C0 => (.fp t, .fp t, .fp t, false)
    | 0x1C1 => (.fp t, .fp t, .fp t, false)
    | 0x1C2 => (.fp t, .fp t, .fp t, false)
    | 0x1C3 => (.fp t, .fp t, .fp 8, false)
    | 0x1C4 => (.fp t, .fp tb, .fp 8, false)
    | _ => (.fp 8, .fp 8, .fp 8, false)
  { a := s.operand gid e ha wa e.x.a lane,
    b := if (e.xop = 0x147 ∧ e.x.m10 ≠ 1) ∨ e.xop = 0x188 then 0 else s.operand gid e hb false e.x.b lane,
    c := s.operand gid e hc false e.x.cSrc lane }

/-- The instruction accepts flushing: all but FCLASS (R150). -/
def fpFlush (s : State) (gid : Nat) (e : Enc) : Bool := e.xop ≠ 0x147 && flushing s gid e

/-- A lane's old D, which CVT.ins keeps but for one slot: 32 bits, or all 64 of a g register (R155). -/
def oldD (s : State) (gid : Nat) (e : Enc) (lane : Nat) : Nat :=
  (readTarget (s.calm gid) (targetOf (s.calm gid) (s.gens gid) e.x.d false) lane).toNat

def fpLane (s : State) (gid : Nat) (e : Enc) (lane : Nat) : Nat × Flags :=
  fpResult e (fpFlush s gid e) (fpReads s gid e lane) (if e.xop = 0x188 ∧ e.x.m10 = 1 then oldD s gid e lane else 0)

/-- Latencies of R55. -/
def fpLatency (xop : Nat) : Nat := if xop = 0x148 ∨ (0x180 ≤ xop ∧ xop ≤ 0x186) then 16 else 6

end Sys2Proof.Machine.Rules

open Sys2Proof Sys2Proof.Machine Sys2Proof.Machine.Rules

/-- R113, R115 to R118: every instruction of class 0, in extended and base form. Whatever its operands, sources and
destination, it completes, each effective lane takes the table's result, and nothing else changes. That IDOT4 reads its third
operand and saturates as signed when either byte type is signed is the model's reading (DEDUCED, log 38). -/
def Sys2Proof.Machine.Rules.IntegerArithmetic : Prop :=
  ∀ (i : Instr) (s : State) (gid sid : Nat) (e : Enc), encOf i = some e → e.xop < 0x00E → Quiet s gid sid → Ready s gid sid e →
    ∃ t, exec i s = .next t ∧
      Done s t gid sid e (intWide e) (if e.xop = 0x006 ∨ e.xop = 0x007 then 16 else 4)
        (fun lane => intResult e (intReads s gid e lane)) 0

/-- R119 and R120: every instruction of class 1, in extended and base form. That a negated shift count is inverted is the
model's choice (DESIGN CHOICE, log 96). -/
def Sys2Proof.Machine.Rules.LogicAndBits : Prop :=
  ∀ (i : Instr) (s : State) (gid sid : Nat) (e : Enc), encOf i = some e → e.xop / 64 = 1 → Quiet s gid sid →
    Ready s gid sid e →
    ∃ t, exec i s = .next t ∧
      Done s t gid sid e (logicWide e) 4 (fun lane => logicResult e (logicReads s gid e lane)) 0

/-- IntegerArithmetic and LogicAndBits (above), together. -/
def Obligations.IntegersAndBits : Prop :=
  IntegerArithmetic ∧ LogicAndBits

/-- R121 to R124: every instruction of class 2, in extended and base form. That MOV of a special register takes the width of
its type is the model's reading (DEDUCED, log 36). -/
def Sys2Proof.Machine.Rules.CompareSelectMove : Prop :=
  ∀ (i : Instr) (s : State) (gid sid : Nat) (e : Enc), encOf i = some e → e.xop / 64 = 2 → Quiet s gid sid →
    Ready s gid sid e →
    ∃ t, exec i s = .next t ∧
      Done s t gid sid e (moveWide e) 4 (moveResult s gid e (s.lanes gid sid e)) 0

/-- R125 to R127: VOTE, SHFL, REDUX and SCAN. That a negated B of SHFL is inverted is the model's choice (DESIGN CHOICE,
log 96). -/
def Sys2Proof.Machine.Rules.AcrossLanes : Prop :=
  ∀ (i : Instr) (s : State) (gid sid : Nat) (e : Enc), encOf i = some e → e.xop / 64 = 3 → e.xop ≠ 0x0C4 → Quiet s gid sid →
    Ready s gid sid e →
    ∃ t, exec i s = .next t ∧
      Done s t gid sid e (isWideTy e.x.ty) 8 (laneResult s gid e (s.lanes gid sid e)) 0

/-- CompareSelectMove and AcrossLanes (above), together. -/
def Obligations.MovesAndLanes : Prop :=
  CompareSelectMove ∧ AcrossLanes

/-- R145 to R159: every instruction of classes 5, 6 and 7, in extended and base form; the flags are the OR over the
effective lanes (R146). The model's choices here: the value of a special function within its bound (log 8), how narrow
results stand in g registers (log 40), the NaN of an E4M3 overflow and of CVTSC (logs 56, 80), NV of a poison operand
(log 79), and the immediates of CVT and CVTSC.mul8 (logs 84, 102). -/
def Obligations.FloatingPoint : Prop :=
  ∀ (i : Instr) (s : State) (gid sid : Nat) (e : Enc), encOf i = some e → 5 ≤ e.xop / 64 → e.xop / 64 ≤ 7 → Quiet s gid sid →
    Ready s gid sid e →
    ∃ t, exec i s = .next t ∧
      Done s t gid sid e (e.xop = 0x188 && isWideTy e.x.ty) (fpLatency e.xop)
        (fun lane => BitVec.ofNat 64 (fpLane s gid e lane).1)
        (orAll ((lanesOf (s.lanes gid sid e)).map (fun lane => (fpLane s gid e lane).2)))

/-! ### Floating-point results against the arithmetic of R87 to R98

Values are integers here: a finite encoding stands for a whole number of least subnormals of its format, so that sums and
products of encodings are exact, and a rounding is a nearest whole number that has an encoding. -/

namespace Sys2Proof.Machine.Rules

/-- Exponent and mantissa bits of the formats whose results are stated, by type code (R87). -/
def ebOf (ty : Nat) : Nat := match ty with | 8 => 8 | 10 => 8 | 11 => 4 | 15 => 2 | _ => 5
def mbOf (ty : Nat) : Nat := match ty with | 8 => 23 | 9 => 10 | 10 => 7 | 11 => 3 | 15 => 1 | _ => 2
def widthOf (ty : Nat) : Nat := 1 + ebOf ty + mbOf ty

/-- The fields of an encoding. -/
def expOf (ty x : Nat) : Nat := x / 2 ^ mbOf ty % 2 ^ ebOf ty
def manOf (ty x : Nat) : Nat := x % 2 ^ mbOf ty
def signOf (ty x : Nat) : Bool := x / 2 ^ (widthOf ty - 1) % 2 = 1

/-- R88: the value of a finite encoding, in units of the format's least subnormal, 2^-`unitOf`. -/
def valOf (ty x : Nat) : Int :=
  let v : Nat := if expOf ty x = 0 then manOf ty x else (2 ^ mbOf ty + manOf ty x) * 2 ^ (expOf ty x - 1)
  if signOf ty x then -(v : Int) else v
def unitOf (ty : Nat) : Nat := 2 ^ (ebOf ty - 1) + mbOf ty - 2

/-- R88: in E4M3 every encoding is finite but 0x7F and 0xFF, in E2M1 every one; elsewhere those whose E is not all ones. -/
def finite (ty x : Nat) : Prop :=
  match ty with
  | 15 => True
  | 11 => x % 128 ≠ 127
  | _ => expOf ty x ≠ 2 ^ ebOf ty - 1

/-- The largest finite encoding, and what an overflow under rne gives instead (R93). -/
def maxEnc (ty : Nat) : Nat := if ty = 11 then 0x7E else (2 ^ ebOf ty - 1) * 2 ^ mbOf ty - 1
def overEnc (ty : Nat) (neg : Bool) : Nat :=
  if ty = 11 then 0x7F else maxEnc ty + 1 + (if neg then 2 ^ (widthOf ty - 1) else 0)

/-- R93: N ÷ D, rounded to nearest with an unbounded exponent, exceeds the largest finite value: it lies beyond the middle
between that and the next value of the same exponent, or in the middle and the largest is not even. -/
def overflows (ty : Nat) (N : Int) (D : Nat) : Prop :=
  let mid : Int := 2 * valOf ty (maxEnc ty) + 2 ^ (expOf ty (maxEnc ty) - 1)
  mid * D < 2 * N.natAbs ∨ (mid * D = 2 * N.natAbs ∧ maxEnc ty % 2 = 1)

/-- R92 and R93: r is the value N ÷ D, in units of the least subnormal, rounded once by a mode. -/
def Rounded (ty mode : Nat) (N : Int) (D r : Nat) : Prop :=
  let max := valOf ty (maxEnc ty)
  let v := valOf ty r
  let each (p : Int → Nat → Prop) : Prop := ∀ u, u < 2 ^ widthOf ty → finite ty u → p (valOf ty u) u
  r < 2 ^ widthOf ty ∧ (N ≠ 0 → ty ≠ 11 ∨ finite ty r → signOf ty r = decide (N < 0)) ∧
  match mode with
  | 0 =>
    (overflows ty N D → r = overEnc ty (N < 0)) ∧
    (¬ overflows ty N D → finite ty r ∧
      each (fun w _ => (v * D - N).natAbs ≤ (w * D - N).natAbs) ∧
      each (fun w _ => (v * D - N).natAbs = (w * D - N).natAbs → w = v ∨ r % 2 = 0))
  | 1 => finite ty r ∧ v.natAbs * D ≤ N.natAbs ∧ each (fun w _ => w.natAbs * D ≤ N.natAbs → w.natAbs ≤ v.natAbs)
  | 2 =>
    if max * D < N then r = overEnc ty false
    else finite ty r ∧ N ≤ v * D ∧ each (fun w _ => N ≤ w * D → v ≤ w)
  | _ =>
    if N < -max * D then r = overEnc ty true
    else finite ty r ∧ v * D ≤ N ∧ each (fun w _ => w * D ≤ N → w ≤ v)

/-- R92 to R94: the flags of a rounding to nearest: inexact, overflow, and underflow of what is inexact and, rounded with an
unbounded exponent, below the smallest normal value. -/
def FlagsOf (ty : Nat) (N : Int) (D r : Nat) (f : Flags) : Prop :=
  (f.getLsbD 4 = true ↔ overflows ty N D ∨ valOf ty r * D ≠ N) ∧ (f.getLsbD 2 = true ↔ overflows ty N D) ∧
  (f.getLsbD 3 = true ↔ valOf ty r * D ≠ N ∧ ¬ overflows ty N D ∧ 4 * N.natAbs < (2 ^ (mbOf ty + 2) - 1) * D) ∧
  f.getLsbD 0 = false ∧ f.getLsbD 1 = false

/-- The NaNs of binary32 (R89, R90). -/
abbrev nan32 (x : Nat) : Prop := expOf 8 x = 255 ∧ manOf 8 x ≠ 0
abbrev signalling32 (x : Nat) : Prop := nan32 x ∧ manOf 8 x < 2 ^ 22
abbrev poison32 (x : Nat) : Prop := x % 2 ^ 31 = 0x7FC0_0BAD

/-- n is N ÷ D rounded to a whole number by a mode (R98, R153). -/
def Whole (mode : Nat) (N : Int) (D : Nat) (n : Int) : Prop :=
  match mode with
  | 0 => 2 * (n * D - N).natAbs ≤ D ∧ (2 * (n * D - N).natAbs = D → n % 2 = 0)
  | 1 => n.natAbs * D ≤ N.natAbs ∧ N.natAbs < (n.natAbs + 1) * D ∧ 0 ≤ n * N
  | 2 => N ≤ n * D ∧ (n - 1) * D < N
  | _ => n * D ≤ N ∧ N < (n + 1) * D

/-- Half j of a register. -/
def halfOf (j x : Nat) : Nat := x / 2 ^ (16 * j) % 2 ^ 16

end Sys2Proof.Machine.Rules

/-- R88, R92 to R94, R147, R157 and R158: what a lane of FADD, FSUB, FMUL, FFMA, FDIV, HADD2, HMUL2, HFMA2 and HDOT2 gives for
finite operands without flushing is the exact sum, product or quotient rounded once by the mode the instruction names; the
flags of a binary32 result under rne. `FloatingPoint` says that the instruction leaves `fpResult` in its lanes. -/
def Sys2Proof.Machine.Rules.ArithmeticIsRounded : Prop :=
  ∀ (e : Enc) (r : Reads) (d : Nat), r.a < 2 ^ 32 → r.b < 2 ^ 32 → r.c < 2 ^ 32 →
    let m := e.x.m43
    let y := (fpResult e false r d).1
    let f := (fpResult e false r d).2
    let a := valOf 8 r.a
    let b := valOf 8 r.b
    let c := valOf 8 r.c
    let u : Nat := 2 ^ 149
    let one (N : Int) (D : Nat) : Prop := Rounded 8 m N D y ∧ (m = 0 → FlagsOf 8 N D y f)
    (finite 8 r.a → finite 8 r.b →
      (e.xop = 0x140 → one (a + b) 1) ∧ (e.xop = 0x141 → one (a - b) 1) ∧ (e.xop = 0x142 → one (a * b) u) ∧
      (e.xop = 0x143 → finite 8 r.c → one (a * b + c * u) u) ∧
      (e.xop = 0x148 → b ≠ 0 → one (if b < 0 then -(a * u) else a * u) b.natAbs)) ∧
    (∀ t, e.x.ty = t → t = 9 ∨ t = 10 → (∀ j, j < 2 → finite t (halfOf j r.a) ∧ finite t (halfOf j r.b)) →
      let h (j x : Nat) : Int := valOf t (halfOf j x)
      (∀ j, j < 2 →
        (e.xop = 0x1C0 → Rounded t m (h j r.a + h j r.b) 1 (halfOf j y)) ∧
        (e.xop = 0x1C1 → Rounded t m (h j r.a * h j r.b) (2 ^ unitOf t) (halfOf j y)) ∧
        (e.xop = 0x1C2 → finite t (halfOf j r.c) →
          Rounded t m (h j r.a * h j r.b + h j r.c * 2 ^ unitOf t) (2 ^ unitOf t) (halfOf j y))) ∧
      (e.xop = 0x1C3 → finite 8 r.c →
        Rounded 8 m ((h 0 r.a * h 0 r.b + h 1 r.a * h 1 r.b) * 2 ^ 149 + c * 2 ^ (2 * unitOf t)) (2 ^ (2 * unitOf t)) y))

/-- R89, R90 and R147 to R150: the special operands of class 5, without flushing. A NaN gives the canonical NaN, a poison NaN
poison; infinities and zeros give what the tables say; FMIN, FMAX and FCMP order finite values; FCLASS names the class. -/
def Sys2Proof.Machine.Rules.SpecialOperands : Prop :=
  ∀ (e : Enc) (r : Reads) (d : Nat), r.a < 2 ^ 32 → r.b < 2 ^ 32 →
    let y := fpResult e false r d
    let inf (x : Nat) : Prop := expOf 8 x = 255 ∧ manOf 8 x = 0
    let zero (x : Nat) : Prop := x % 2 ^ 31 = 0
    let neg : Bool := signOf 8 r.a != signOf 8 r.b
    let arith : Prop := e.xop = 0x140 ∨ e.xop = 0x141 ∨ e.xop = 0x142 ∨ e.xop = 0x148
    (arith → poison32 r.a ∨ poison32 r.b → y.1 = 0x7FC0_0BAD ∧ (¬ signalling32 r.a → ¬ signalling32 r.b → y.2 = 0)) ∧
    (arith → nan32 r.a ∨ nan32 r.b → ¬ poison32 r.a → ¬ poison32 r.b →
      y.1 = 0x7FC0_0000 ∧ (y.2 = flNV ↔ signalling32 r.a ∨ signalling32 r.b) ∧ (y.2 = flNV ∨ y.2 = 0)) ∧
    (e.xop = 0x140 → inf r.a → inf r.b → y = if neg then (0x7FC0_0000, flNV) else (r.a, 0)) ∧
    (e.xop = 0x142 → inf r.a ∧ zero r.b ∨ zero r.a ∧ inf r.b → y = (0x7FC0_0000, flNV)) ∧
    (e.xop = 0x148 → zero r.a ∧ zero r.b ∨ inf r.a ∧ inf r.b → y = (0x7FC0_0000, flNV)) ∧
    (e.xop = 0x148 → finite 8 r.a → ¬ zero r.a → zero r.b → y = (overEnc 8 neg, flDZ)) ∧
    (e.xop = 0x148 → finite 8 r.a → inf r.b → y = (if neg then 2 ^ 31 else 0, 0)) ∧
    (e.xop = 0x144 ∨ e.xop = 0x145 → finite 8 r.a → finite 8 r.b →
      let best := if e.xop = 0x144 then min (valOf 8 r.a) (valOf 8 r.b) else max (valOf 8 r.a) (valOf 8 r.b)
      y.2 = 0 ∧ (y.1 = r.a ∨ y.1 = r.b) ∧ valOf 8 y.1 = best ∧
      (zero r.a → zero r.b → neg = true → signOf 8 y.1 = decide (e.xop = 0x144))) ∧
    (e.xop = 0x144 ∨ e.xop = 0x145 → nan32 r.a → ¬ nan32 r.b → ¬ poison32 r.a → y.1 = r.b) ∧
    (e.xop = 0x144 ∨ e.xop = 0x145 → nan32 r.a → nan32 r.b → ¬ poison32 r.a → ¬ poison32 r.b → y.1 = 0x7FC0_0000) ∧
    (e.xop = 0x146 → finite 8 r.a → finite 8 r.b → y = (if
      (match e.x.m10 with
        | 0 => decide (valOf 8 r.a = valOf 8 r.b)
        | 1 => decide (valOf 8 r.a < valOf 8 r.b)
        | 2 => decide (valOf 8 r.a ≤ valOf 8 r.b)
        | _ => false) then 0xFFFF_FFFF else 0, 0)) ∧
    (e.xop = 0x147 → e.x.m10 ≠ 1 → y.2 = 0 ∧ y.1 = 2 ^ (
      if inf r.a then (if signOf 8 r.a then 0 else 7)
      else if signalling32 r.a then 8
      else if poison32 r.a then 10
      else if nan32 r.a then 9
      else if zero r.a then (if signOf 8 r.a then 3 else 4)
      else if expOf 8 r.a = 0 then (if signOf 8 r.a then 2 else 5)
      else if signOf 8 r.a then 1 else 6))

/-- R95, R98 and R153 to R155: what a lane of CVT without .ins, and of FRND, gives for a finite source without flushing or
.sat. Into an integer type the value is rounded to a whole number and clamped; into a floating type it is rounded once; a
narrower format widens exactly; between integer types it is extended or cut. -/
def Sys2Proof.Machine.Rules.ConversionsKeepValues : Prop :=
  ∀ (e : Enc) (r : Reads) (d : Nat), r.a < 2 ^ 32 → e.x.d.sat = false →
    let m := e.x.m43
    let y := fpResult e false r d
    let a := valOf 8 r.a
    let src := e.x.srcTy
    let dst := e.x.ty
    let isInt (t : Nat) : Prop := t = 2 ∨ t = 3 ∨ t = 6 ∨ t = 7
    let w := tyBits dst
    let isSigned := isSignedTy dst
    (e.xop = 0x188 → e.x.m10 = 0 → src = 8 → finite 8 r.a →
      (isInt dst → ∃ n, Whole m a (2 ^ 149) n ∧
        y = ((BitVec.ofInt w (max (least isSigned w) (min (top isSigned w) n))).toNat,
          if n < least isSigned w ∨ top isSigned w < n then flNV else if n * 2 ^ 149 ≠ a then flNX else 0)) ∧
      (dst = 9 ∨ dst = 10 ∨ dst = 11 ∨ dst = 12 → m = 0 →
        Rounded dst 0 a (2 ^ (149 - unitOf dst)) y.1 ∧ FlagsOf dst a (2 ^ (149 - unitOf dst)) y.1 y.2)) ∧
    (e.xop = 0x188 → e.x.m10 = 0 → dst = 8 → src = 9 ∨ src = 10 ∨ src = 11 ∨ src = 12 →
      let x := r.a / 2 ^ (tyBits src * e.x.b.idx.toNat) % 2 ^ tyBits src
      finite src x → finite 8 y.1 ∧ valOf 8 y.1 = valOf src x * 2 ^ (149 - unitOf src) ∧ y.2 = 0) ∧
    (e.xop = 0x188 → e.x.m10 = 0 → dst = 8 → src = 2 ∨ src = 6 →
      Rounded 8 m (num (isSignedTy src) 32 r.a * 2 ^ 149) 1 y.1) ∧
    (e.xop = 0x188 → e.x.m10 = 0 → src = 2 ∨ src = 6 → isInt dst →
      y = ((BitVec.ofInt w (num (isSignedTy src) 32 r.a)).toNat, 0)) ∧
    (e.xop = 0x187 → finite 8 r.a → ∃ n, Whole m a (2 ^ 149) n ∧ finite 8 y.1 ∧ valOf 8 y.1 = n * 2 ^ 149 ∧
      signOf 8 y.1 = signOf 8 r.a ∧ y.2 = if e.x.m10 = 1 ∧ n * 2 ^ 149 ≠ a then flNX else 0)

/-- ArithmeticIsRounded, SpecialOperands and ConversionsKeepValues (above), together. -/
def Obligations.FloatingPointValues : Prop :=
  ArithmeticIsRounded ∧ SpecialOperands ∧ ConversionsKeepValues

/-! ### Control flow (R130 to R142, R254, R267) -/

namespace Sys2Proof.Machine.Rules

/-- The target of a branch: its own address plus 4 times the signed offset (R130). -/
def target (s : State) (gid sid : Nat) (e : Enc) : DWord :=
  ((s.group gid).split sid).pc +
    4#64 * (if e.x.b.cls = .imm then (e.x.b.idx : BitVec 8).signExtend 64 else e.x.lit.getD 0)

/-- The address after the instruction. -/
def nextPc (s : State) (gid sid : Nat) (e : Enc) : DWord := ((s.group gid).split sid).pc + BitVec.ofNat 64 e.size

/-- Nothing of the two stacks waits to be brought back from memory (R259, R266). -/
abbrev filled (s : State) (gid : Nat) : Prop := (s.group gid).tokFill = false ∧ (s.group gid).retFill = false

/-- The active lanes in which a BRD's predicate holds (R134). -/
def brdTrue (s : State) (gid sid : Nat) (e : Enc) : Mask :=
  maskOf (fun l => Mask.has ((s.group gid).split sid).mask l && (s.source gid e .bits false e.x.a l = 1))

/-- The tokens of the group's stack, the group otherwise as it was. -/
structure Tokens (b t : State) (gid : Nat) (l : List Token) : Prop where
  only : OnlyGroup b t gid
  group : t.group gid = { b.group gid with
    splits := (t.group gid).splits, tokens := l, accs := (t.group gid).accs, ops := (t.group gid).ops, fresh := (t.group gid).fresh,
    exited := (t.group gid).exited, retiring := (t.group gid).retiring }

end Sys2Proof.Machine.Rules

/-- R131, R132, R142: BRA, JMPI and NOP (extended and base) move the whole split: to the target, to A, to the next
instruction. No lane is divided off, and nothing else changes. -/
def Sys2Proof.Machine.Rules.JumpsMoveTheSplit : Prop :=
  ∀ (i : Instr) (s : State) (gid sid : Nat) (e : Enc), encOf i = some e →
    e.xop = 0x100 ∨ e.xop = 0x107 ∨ e.xop = 0x109 → Quiet s gid sid → Legal s gid sid e → filled s gid →
    (e.xop = 0x107 → s.source gid e .int true e.x.a 0 % 4 = 0) →
    Takes i s gid sid e (fun b t => OnlySplit b t gid sid ∧
      (t.group gid).split sid = { (b.group gid).split sid with
        pc := if e.xop = 0x100 then target s gid sid e
          else if e.xop = 0x107 then BitVec.ofNat 64 (s.source gid e .int true e.x.a 0)
          else nextPc s gid sid e })

/-- R134 and R254: BRD with room on the hardware stack. With no lane on one side the whole split goes to the other; else
a free split takes the true lanes to the target and a JOIN token is pushed, or with four splits a DEFER token keeps the
false lanes. -/
def Sys2Proof.Machine.Rules.BrdDivides : Prop :=
  ∀ (i : Instr) (s : State) (gid sid : Nat) (e : Enc), encOf i = some e → e.xop = 0x101 → Quiet s gid sid →
    Legal s gid sid e → filled s gid → (s.group gid).tokens.length < 32 →
    let me := (s.group gid).split sid
    let taken := brdTrue s gid sid e
    let rest := me.mask &&& ~~~taken
    let rejoin := me.pc + BitVec.ofNat 64 (4 * e.x.mod.toNat)
    Takes i s gid sid e (fun b t =>
      if taken = 0 then OnlySplit b t gid sid ∧ (t.group gid).split sid = (b.group gid).split sid
      else if rest = 0 then OnlySplit b t gid sid ∧
        (t.group gid).split sid = { (b.group gid).split sid with pc := target s gid sid e }
      else match (s.group gid).freeSplit with
      | some n =>
        Tokens b t gid ({ kind := .join, pc1 := rejoin, sp1 := sid, sp2 := n } :: (s.group gid).tokens) ∧
        (n ≠ sid → (t.group gid).split sid = { (b.group gid).split sid with mask := rest }) ∧
        (n ≠ sid → (t.group gid).split n = {
          live := true, pc := target s gid sid e, mask := taken,
          readyAt := s.cycle + e.x.stall.toNat + 1, last := s.cycle }) ∧
        ∀ k, k ≠ sid → k ≠ n → (t.group gid).split k = (s.group gid).split k
      | none =>
        Tokens b t gid ({ kind := .defer, pc1 := rejoin, pc2 := nextPc s gid sid e, sp1 := sid, maskA := rest } ::
          (s.group gid).tokens) ∧
        (t.group gid).split sid = { (b.group gid).split sid with mask := taken, pc := target s gid sid e } ∧
        ∀ k, k ≠ sid → (t.group gid).split k = (s.group gid).split k)

/-- R135, for a stack that is all in hardware: JOIN at the topmost token that names its split, and as NOP where there is
none or its address differs. A JOIN token parks the split, or with the partner parked merges both in the parent; a DEFER
token changes the paths over, then unites them; a LOOP token gives the parked lanes back. Lanes that have exited come back
nowhere (R138). -/
def Sys2Proof.Machine.Rules.JoinMeetsItsToken : Prop :=
  ∀ (i : Instr) (s : State) (gid sid : Nat) (e : Enc), encOf i = some e → e.xop = 0x102 → Quiet s gid sid →
    Legal s gid sid e → filled s gid → (s.group gid).tokSpill = 0 → ((s.group gid).split sid).live = true →
    ((s.group gid).split sid).parked = false →
    let me := (s.group gid).split sid
    let l := (s.group gid).tokens
    let k := l.findIdx (fun t => t.names sid)
    let alive := ~~~(s.group gid).exited
    Takes i s gid sid e (fun b t =>
      match l[k]? with
      | none => OnlySplit b t gid sid ∧ (t.group gid).split sid = (b.group gid).split sid
      | some x =>
        if x.pc1 ≠ me.pc then OnlySplit b t gid sid ∧ (t.group gid).split sid = (b.group gid).split sid
        else match x.kind with
        | .join =>
          let y := if x.sp1 = sid then { x with ppk := true, maskA := me.mask } else { x with cpk := true, maskB := me.mask }
          if y.ppk && y.cpk then
            (y.sp1 ≠ y.sp2 → (y.maskA ||| y.maskB) &&& alive ≠ 0 → Tokens b t gid (l.eraseIdx k) ∧
              ((t.group gid).split y.sp1).mask = (y.maskA ||| y.maskB) &&& alive ∧
              ((t.group gid).split y.sp1).pc = x.pc1 + 12 ∧ ((t.group gid).split y.sp1).live = true ∧
              ((t.group gid).split y.sp1).parked = false ∧ ((t.group gid).split y.sp2).live = false ∧
              ∀ n, n ≠ y.sp1 → n ≠ y.sp2 → (t.group gid).split n = (b.group gid).split n)
          else Tokens b t gid (l.set k y) ∧
            (t.group gid).split sid = { (b.group gid).split sid with parked := true, pc := x.pc1, parkPc := x.pc1 } ∧
            ∀ n, n ≠ sid → (t.group gid).split n = (s.group gid).split n
        | .defer =>
          if x.phase then
            Tokens b t gid (l.eraseIdx k) ∧ ((t.group gid).split sid).mask = me.mask ||| (x.maskB &&& alive) ∧
              ((t.group gid).split sid).pc = x.pc1 + 12
          else x.maskA &&& alive ≠ 0 → Tokens b t gid (l.set k { x with phase := true, maskB := me.mask }) ∧
            (t.group gid).split sid = { (b.group gid).split sid with mask := x.maskA &&& alive, pc := x.pc2 }
        | .loop =>
          Tokens b t gid (l.eraseIdx k) ∧ ((t.group gid).split sid).mask = me.mask ||| (x.maskB &&& alive) ∧
            ((t.group gid).split sid).pc = x.pc1 + 12
        | .other => True)

/-- BrdDivides and JoinMeetsItsToken (above), together. -/
def Obligations.SplitsDivideAndMeet : Prop :=
  BrdDivides ∧ JoinMeetsItsToken

/-- R136: LOOP pushes its token, with room on the hardware stack; BRK moves its lanes into the parked mask of the topmost
LOOP token, when some lanes of its split remain. -/
def Sys2Proof.Machine.Rules.LoopAndBreak : Prop :=
  ∀ (i : Instr) (s : State) (gid sid : Nat) (e : Enc), encOf i = some e → Quiet s gid sid → Legal s gid sid e →
    filled s gid → (s.group gid).tokSpill = 0 →
    let l := (s.group gid).tokens
    let eff := s.lanes gid sid e
    (e.xop = 0x103 → l.length < 32 → Takes i s gid sid e (fun b t =>
      Tokens b t gid ({ kind := .loop, pc1 := target s gid sid e, sp1 := sid } :: l) ∧
        (t.group gid).splits = (b.group gid).splits)) ∧
    (e.xop = 0x104 → ∀ k x, k = l.findIdx (fun t => t.kind = .loop) → l[k]? = some x →
      ((s.group gid).split sid).mask &&& ~~~eff ≠ 0 → Takes i s gid sid e (fun b t =>
        Tokens b t gid (l.set k { x with maskB := x.maskB ||| eff }) ∧
        (t.group gid).split sid = { (b.group gid).split sid with mask := ((s.group gid).split sid).mask &&& ~~~eff } ∧
        ∀ n, n ≠ sid → (t.group gid).split n = (s.group gid).split n))

/-- R139 and R140, with no row to move: CALL saves the address after it, the window and the depth of the stack, and opens
the window k rows up; RET takes the entry back. One split only (R141). -/
def Sys2Proof.Machine.Rules.CallAndReturn : Prop :=
  ∀ (i : Instr) (s : State) (gid sid : Nat) (e : Enc), encOf i = some e → Quiet s gid sid → Legal s gid sid e →
    filled s gid → (s.group gid).liveSplits.length ≤ 1 →
    let g := s.group gid
    let f := 8 * (e.x.mod.toNat % 256)
    let up := g.winBase + e.x.d.idx.toNat
    (e.xop = 0x105 → f ≤ g.alloc → up + f ≤ g.alloc + g.rbot → g.rbot ≤ g.rtop → g.rtop ≤ g.rbot + g.alloc → g.rets.length < 32 →
      up + f ≤ s.rowRoom gid + g.alloc →
      Takes i s gid sid e (fun b t => OnlyGroup b t gid ∧
        t.group gid = { b.group gid with
          rets := ⟨nextPc s gid sid e, g.winBase, g.winSize, g.rtop, g.tokens.length + g.tokSpill⟩ :: g.rets,
          winBase := up, winSize := f, rtop := max g.rtop (up + f), rbot := (t.group gid).rbot,
          splits := (t.group gid).splits, fresh := (t.group gid).fresh } ∧
        (t.group gid).rbot = g.rbot ∧
        (t.group gid).split sid = { (b.group gid).split sid with pc := target s gid sid e })) ∧
    (e.xop = 0x106 → ∀ r rest, g.rets = r :: rest → g.tokens.length + g.tokSpill ≤ r.depth → g.rbot = r.rtops - g.alloc →
      Takes i s gid sid e (fun b t => OnlyGroup b t gid ∧
        t.group gid = { b.group gid with
          rets := rest, winBase := r.wbs, winSize := r.wsz, rtop := r.rtops, rbot := g.rbot,
          splits := (t.group gid).splits, fresh := (t.group gid).fresh } ∧
        (t.group gid).split sid = { (b.group gid).split sid with pc := r.rpc }))

/-- JumpsMoveTheSplit, LoopAndBreak and CallAndReturn (above), together. -/
def Obligations.BranchesLoopsAndCalls : Prop :=
  JumpsMoveTheSplit ∧ LoopAndBreak ∧ CallAndReturn

/-- R138: EXIT (extended and base) takes its lanes out of the group for good: no split has them any more, and what a token
gives back to a split later is without them; the other splits and the tokens stay. When
lanes of its split remain nothing else follows; a group with one split and no token, left without lanes, retires. -/
def Sys2Proof.Machine.Rules.ExitRemovesLanes : Prop :=
  ∀ (i : Instr) (s : State) (gid sid : Nat) (e : Enc), encOf i = some e → e.xop = 0x108 → Quiet s gid sid → Legal s gid sid e →
    filled s gid →
    let eff := s.lanes gid sid e
    let left := ((s.group gid).split sid).mask &&& ~~~eff
    (left ≠ 0 → (∀ k, k ≠ sid → ((s.group gid).split k).mask &&& eff = 0 ∧
        (((s.group gid).split k).live = true → ((s.group gid).split k).parked = true ∨ ((s.group gid).split k).mask ≠ 0)) →
      Takes i s gid sid e (fun b t =>
        OnlyGroup b t gid ∧
        t.group gid = { b.group gid with splits := (t.group gid).splits, exited := (s.group gid).exited ||| eff } ∧
        (t.group gid).split sid = { (b.group gid).split sid with mask := left } ∧
        ∀ k, k ≠ sid → (t.group gid).split k = (s.group gid).split k)) ∧
    (left = 0 → (s.group gid).liveSplits = [sid] → (s.group gid).tokens = [] → (s.group gid).tokSpill = 0 →
      ((s.group gid).split sid).parked = false →
      Takes i s gid sid e (fun b t =>
        OnlyGroup b t gid ∧ (t.group gid).exited = (s.group gid).exited ||| eff ∧ (t.group gid).retiring = true ∧
        (t.group gid).liveSplits = []))

/-- R142: YIELD lets the other splits of its slot go first that were ready when the slot chose it: it keeps its own split from
issuing for at most 64 cycles while one of them has not issued. The slot finds which are ready by trying each one's next
instruction as YIELD is taken up (R271; the model's reading, log 42). -/
def Sys2Proof.Machine.Rules.YieldLetsOthersGo : Prop :=
  (∀ (i : Instr) (s : State) (gid sid : Nat) (e : Enc), encOf i = some e → e.xop = 0x10A → Quiet s gid sid → Legal s gid sid e →
    filled s gid →
    let peers := ((s.slot (slotOf gid)).peers).filter (fun k => decide (k ≠ 4 * gid + sid))
    Takes i s gid sid e (fun b t => OnlySplit b t gid sid ∧
      (t.group gid).split sid = { (b.group gid).split sid with yieldTo := peers, yieldEnd := s.cycle + 64 } ∧
      ∀ u : State, u.groups = t.groups → u.cycle < s.cycle + 64 →
        (∃ k ∈ peers, (t.group (k / 4)).live = true ∧ ((t.group (k / 4)).split (k % 4)).live = true ∧
          ((t.group (k / 4)).split (k % 4)).last ≤ s.cycle) → u.mayIssue false gid sid = false)) ∧
  ∀ (s : State) (gid : Nat) (x : Ext) (h n : Nat), h * 4 + n ∈ ((s.noted gid (.yield x)).slot (slotOf gid)).peers → n < 4 →
    slotOf h = slotOf gid ∧ s.ableTo false h n = true ∧
    ∃ u, s.trial h n = some u ∧ ((u.group h).issued ≠ (s.group h).issued ∨ ((u.group h).split n).wait = .none)

/-- ExitRemovesLanes and YieldLetsOthersGo (above), together. -/
def Obligations.ExitAndYield : Prop :=
  ExitRemovesLanes ∧ YieldLetsOthersGo

/-! ### Memory instructions (R160 to R179, R279) -/

namespace Sys2Proof.Machine.Rules

/-- A lane's address: base plus signed offset, modulo 2^64, or 2^32 in the scratchpad (R160). -/
def address (s : State) (gid : Nat) (e : Enc) (offset : Int) (lane : Nat) : Nat :=
  let m : Int := if e.x.space = 1 then 2 ^ 32 else 2 ^ 64
  (((s.source gid e .int (e.x.space ≠ 1) e.x.a lane : Int) + offset) % m).toNat

/-- The signed offset of field B (R160). -/
def offset (e : Enc) : Int := if e.x.b.cls = .imm then e.x.b.idx.toInt else (e.x.lit.getD 0).toInt

/-- Bytes of the type: 1, 2, 4 or 8 (R164). -/
def width (e : Enc) : Nat := tyBits e.x.ty / 8

/-- The lanes of an access: every effective lane, or one for the group (R164). -/
def accessed (s : State) (gid sid : Nat) (e : Enc) : List Nat :=
  let eff := s.lanes gid sid e
  if e.x.d.cls = .g then [lowLane eff] else lanesOf eff

/-- The state in which an instruction that ends restartability acts (R328). -/
def spentIf (c : Bool) (b : State) (gid : Nat) : State := if c then b.spent gid else b

/-- ONE ACCESS MORE IS OUTSTANDING: numbered, of its kind and fields, after what it must follow; its result, if any,
is scoreboarded (R56, R279). Nothing else has changed. -/
structure Issued (b t : State) (gid sid : Nat) (e : Enc) (kind : AccKind) (op bytes : Nat) (lanes : List LaneAcc)
    (into : Target) : Prop where
  device : t = { b with groups := t.groups, ids := b.ids + 1 }
  groups : ∀ k, k ≠ gid → t.group k = b.group k
  group : t.group gid = { b.group gid with accs := (t.group gid).accs, pending := (t.group gid).pending }
  acc : ∃ a, (t.group gid).accs = (b.group gid).accs ++ [a] ∧ a.id = b.ids ∧ a.kind = kind ∧ a.po = 1#4 <<< sid ∧
    a.stream = e.x.stream ∧ a.scope = e.x.scope ∧ a.policy = e.x.policy ∧ a.space = e.x.space ∧ a.ord = e.x.m43 ∧
    a.bytes = bytes ∧ a.op = op ∧ a.ty = e.x.ty ∧ a.lanes = lanes ∧ a.target = into ∧ a.super = (b.group gid).super
  pending : (t.group gid).pending =
    (b.group gid).pending ++ (if into = .none then [] else [(b.ids, into, sid)])

/-- Where D stands for a scoreboarded result: the registers it names with their rows' generations (R270). -/
def resultOf (s : State) (gid : Nat) (e : Enc) (wide : Bool) : Target := targetOf (s.calm gid) (s.gens gid) e.x.d wide

/-- Nothing a release waits for before it issues (R374): no unacknowledged RED of the split on the streams. -/
abbrev redsDone (s : State) (gid sid : Nat) (streams : Nat → Bool) : Prop :=
  ∀ a ∈ (s.group gid).accs, a.kind = .red → a.po.getLsbD sid = true → streams a.stream = false

/-- A sector holds a byte of a range. -/
def inBytes (pa bytes k : Nat) : Prop := pa < (k + 1) * 32 ∧ k * 32 < pa + bytes

/-- A sector's bytes where they are newest for a core: dirty in its L1, else dirty in the home slice, else in DRAM (R280). -/
def newestData (s : State) (core k : Nat) : BitVec 256 :=
  let stored := dramSector s.mem (s.dram (k * 32) / 32)
  let home := match s.slice.look k with
    | some x => if x.dirty then x.data else stored
    | none => stored
  match (s.core core).l1.look k with
  | some x => if x.dirty then x.data else home
  | none => home

/-- The slices have room for every line of a range beside what they hold: no set gives a line up (R19). -/
def noSetOverflows (s : State) (pa bytes : Nat) : Prop :=
  let lines := (s.slice.keys ++ (List.range (bytes / 32)).map (pa / 32 + ·)).map (· / 4)
  ∀ n, (lines.filter (fun k => s.sliceSetOf k = s.sliceSetOf n)).eraseDups.length ≤ 16

end Sys2Proof.Machine.Rules

/-- R160 to R166 and R279: LD and ST, extended and base, with every effective lane aligned. The access they make is
outstanding with each lane's address, a store with each lane's data as read now, a load's destination scoreboarded. -/
def Sys2Proof.Machine.Rules.LoadAndStoreIssue : Prop :=
  ∀ (i : Instr) (s : State) (gid sid : Nat) (e : Enc), encOf i = some e → Quiet s gid sid → Legal s gid sid e →
    s.permitted gid = true →
    (∀ l ∈ lanesOf (s.lanes gid sid e), address s gid e (offset e) l % width e = 0) →
    (e.xop = 0x200 → Takes i s gid sid e (fun b t =>
      Issued b t gid sid e .load 0 (width e)
        ((accessed s gid sid e).map (fun l => { lane := l, addr := address s gid e (offset e) l }))
        (resultOf s gid e (isWideTy e.x.ty)))) ∧
    (e.xop = 0x201 → (e.x.m43 = 2 → redsDone s gid sid (fun k => k = e.x.stream)) → Takes i s gid sid e (fun b t =>
      Issued (spentIf (e.x.m43 = 2 && e.x.scope ≠ 0) b gid) t gid sid e .store 0 (width e)
        ((accessed s gid sid e).map (fun l =>
          { lane := l, addr := address s gid e (offset e) l,
            val := BitVec.ofNat 64 (s.operand gid e .bits (isWideTy e.x.ty) (dataSrc e.x.d) l) })) .none))

/-- R160, R171, R172 and R176: ATOM and RED, aligned: an access of every effective lane with its address and operand, for
cas its compare value; the old value's destination scoreboarded. The workgroup is no longer restartable (R328). -/
def Sys2Proof.Machine.Rules.AtomicsIssue : Prop :=
  ∀ (i : Instr) (s : State) (gid sid : Nat) (e : Enc), encOf i = some e → e.xop = 0x240 ∨ e.xop = 0x241 →
    Quiet s gid sid → Legal s gid sid e → s.permitted gid = true →
    (∀ l ∈ lanesOf (s.lanes gid sid e), address s gid e 0 l % width e = 0) →
    (2 ≤ e.x.m43 → redsDone s gid sid (fun k => k = e.x.stream)) →
    Takes i s gid sid e (fun b t => ∃ lanes,
      Issued (b.spent gid) t gid sid e (if e.xop = 0x240 then .atomic else .red) e.x.m20 (width e) lanes
        (if e.xop = 0x240 then resultOf s gid e (isWideTy e.x.ty) else .none) ∧
      lanes.map (·.lane) = lanesOf (s.lanes gid sid e) ∧
      ∀ a ∈ lanes, a.addr = address s gid e 0 a.lane ∧
        a.val.toNat = s.operand gid e (if 2 < e.x.m20 then .bits else if e.x.ty = 8 then .fp 8 else .int)
          (isWideTy e.x.ty) e.x.b a.lane ∧
        (e.xop = 0x240 → e.x.m20 = 7 → a.cmp.toNat = s.operand gid e .bits (isWideTy e.x.ty) (dataSrc e.x.d) a.lane))

/-- LoadAndStoreIssue and AtomicsIssue (above), together. -/
def Obligations.AccessesIssue : Prop :=
  LoadAndStoreIssue ∧ AtomicsIssue

/-- R177 and R178: FENCE and FENCEX are among the group's accesses, with their streams, but a FENCEX that names fewer than
two streams does nothing but issue; a release above .core ends restartability (R328). -/
def Sys2Proof.Machine.Rules.FencesIssue : Prop :=
  ∀ (i : Instr) (s : State) (gid sid : Nat) (e : Enc), encOf i = some e → Quiet s gid sid → Legal s gid sid e →
    s.permitted gid = true →
    let all := e.x.mod.getLsbD 0
    (e.xop = 0x242 → (2 ≤ e.x.m43 → redsDone s gid sid (fun k => all || k = e.x.stream)) →
      Takes i s gid sid e (fun b t =>
        Issued (spentIf (2 ≤ e.x.m43 && e.x.scope ≠ 0) b gid) t gid sid e
          (if e.x.m43 = 1 then .fenceAcq all else if e.x.m43 = 2 then .fenceRel all else .fenceAr all) 0 0 [] .none)) ∧
    (e.xop = 0x243 → Takes i s gid sid e (fun b t =>
      let m : BitVec 16 := BitVec.ofNat 16 (s.source gid e .bits true e.x.b 0)
      if (List.range 16).countP (fun k => m.getLsbD k) < 2 then t = b else Issued b t gid sid e (.fencex m) 0 0 [] .none))

/-- R179: FENCEA of a range without bytes does nothing but issue. One page, with nothing of it outstanding: the lines of the
range leave the core's L1 and the home slices; each of their sectors stands in DRAM as the L1 held it dirty, else as its slice
held it dirty; and when no set of a slice has to give a line up for them, the rest of that L1, of the slices and of memory
stays. A length above 16 MiB raises trap 0x03 with sub-code 2 and TRAPADDR 0 (the model's choice, log 27); a page of the
capacity tier is noted for its window (log 69). -/
def Sys2Proof.Machine.Rules.FenceaCleansTheRange : Prop :=
  ∀ (i : Instr) (s : State) (gid sid : Nat) (e : Enc), encOf i = some e → e.xop = 0x244 → Quiet s gid sid →
    Legal s gid sid e → s.permitted gid = true →
    let a := s.source gid e .int true e.x.a 0
    let n := s.source gid e .int true e.x.b 0
    let first := a / 128 * 128
    let bytes := (a % 128 + n + 127) / 128 * 128
    (n = 0 → Takes i s gid sid e (fun b t => t = b)) ∧
    (2 ^ 24 < n → ∃ t, exec i s = .next t ∧ t = (s.calmed gid).raise gid
      ⟨0x03, sid, ((s.group gid).split sid).pc, ((s.group gid).split sid).mask, 0, 2, ((s.group gid).split sid).pc⟩) ∧
    (n ≠ 0 → n ≤ 2 ^ 24 → first / 65536 = (first + bytes - 1) / 65536 → (s.group gid).accs = [] → (s.group gid).ops = [] →
      ∀ pa entry leaf, s.translate (s.group gid).ctx (s.group gid).super (e.x.space = 2) 0 first = .ok pa entry leaf →
      s.rangeBusy (s.calm gid) [(first, bytes)] = false →
      Takes i s gid sid e (fun b t =>
        (∀ k, pa < (k + 1) * 32 → k * 32 < pa + bytes →
          k ∉ (t.core (coreOf gid)).l1.keys ∧ k ∉ t.slice.keys) ∧
        t.groups = b.groups ∧ t.wgs = b.wgs ∧ t.ctxs = (b.noteLeaf (s.group gid).ctx pa leaf).ctxs ∧
        (∀ c, c ≠ coreOf gid → (t.core c).l1 = (b.core c).l1) ∧
        (noSetOverflows b pa bytes → (∀ j k, inBytes pa bytes j → inBytes pa bytes k →
            s.dram (j * 32) / 32 = s.dram (k * 32) / 32 → j = k) →
          (∀ k, inBytes pa bytes k → dramSector t.mem (s.dram (k * 32) / 32) = newestData b (coreOf gid) k) ∧
          (∀ k, ¬ inBytes pa bytes k → (t.core (coreOf gid)).l1.look k = (b.core (coreOf gid)).l1.look k ∧
            t.slice.look k = b.slice.look k) ∧
          ∀ y, (∀ k, inBytes pa bytes k → y / 32 ≠ s.dram (k * 32) / 32) → t.mem.byte y = b.mem.byte y)))

/-- FencesIssue and FenceaCleansTheRange (above), together. -/
def Obligations.FencesComplete : Prop :=
  FencesIssue ∧ FenceaCleansTheRange

/-- R167: LDFE with every word full reads them into D and sets them empty; STFE with every word empty, and .init in any
case, writes in each word the D of some lane that names it and sets it full; .empty sets them empty. Every other word and
full/empty bit of the scratchpad, and every other part of the device, stays. -/
def Sys2Proof.Machine.Rules.FullEmptyWords : Prop :=
  ∀ (i : Instr) (s : State) (gid sid : Nat) (e : Enc), encOf i = some e → Quiet s gid sid → Legal s gid sid e →
    s.permitted gid = true → (s.group gid).accs = [] → (s.group gid).ops = [] → (s.core (coreOf gid)).matrix = [] →
    let eff := s.lanes gid sid e
    let at' := fun l => address s gid e (offset e) l
    let used := lanesOf eff
    (∀ l ∈ used, at' l % 4 = 0 ∧ at' l + 4 ≤ (s.wgOf gid).spBytes) →
    (e.xop = 0x202 → (∀ l ∈ used, (s.wgOf gid).isFull (at' l / 4) = true) → Takes i s gid sid e (fun b t =>
      t = { b with groups := t.groups, wgs := t.wgs, ids := b.ids + 1 } ∧
      t.group gid = { b.group gid with
        pending := (t.group gid).pending, replies := (b.group gid).replies ++ [
          { id := b.ids, split := sid, target := resultOf s gid e false,
            vals := used.map (fun l => (l, ((s.wgOf gid).sp.get 0 (at' l / 4)).setWidth 64)) }] } ∧
      (t.wgOf gid).sp = (s.wgOf gid).sp ∧
      ∀ a, (t.wgOf gid).isFull a = if a ∈ used.map (fun l => at' l / 4) then false else (s.wgOf gid).isFull a)) ∧
    (e.xop = 0x203 → (∀ l ∈ used, e.x.m10 = 0 → (s.wgOf gid).isFull (at' l / 4) = false) → Takes i s gid sid e (fun b t =>
        t = { b with wgs := t.wgs } ∧
        (∀ l ∈ used, e.x.m10 ≠ 2 → ∃ k ∈ used, at' k / 4 = at' l / 4 ∧ (t.wgOf gid).sp.get 0 (at' l / 4) =
          BitVec.ofNat 32 (s.source gid e .bits false (dataSrc e.x.d) k)) ∧
        (∀ a, (e.x.m10 = 2 ∨ a ∉ used.map (fun l => at' l / 4)) →
          (t.wgOf gid).sp.get 0 a = (s.wgOf gid).sp.get 0 a) ∧
        ∀ a, (t.wgOf gid).isFull a =
          if a ∈ used.map (fun l => at' l / 4) then decide (e.x.m10 ≠ 2) else (s.wgOf gid).isFull a))

/-- R168 and R170: SBIND binds its port to a ring at position 0, SCLOSE unbinds it; no word, no full/empty bit and no other
port changes. -/
def Sys2Proof.Machine.Rules.PortsBindAndClose : Prop :=
  ∀ (i : Instr) (s : State) (gid sid : Nat) (e : Enc), encOf i = some e → Quiet s gid sid → Legal s gid sid e →
    s.permitted gid = true →
    let base := s.source gid e .int false e.x.a 0
    let count := s.source gid e .int true e.x.b 0
    (e.xop = 0x204 → base % 128 = 0 → 1 ≤ count → count ≤ 8192 → base + 128 * count ≤ (s.wgOf gid).spBytes →
      Takes i s gid sid e (fun b t => OnlyGroup b t gid ∧
        t.group gid = { b.group gid with ports := (t.group gid).ports } ∧
        (t.group gid).port e.x.d.idx.toNat = { bound := true, base := base, count := count, pos := 0 } ∧
        ∀ k, k ≠ e.x.d.idx.toNat → (t.group gid).port k = (s.group gid).port k)) ∧
    (e.xop = 0x205 → ((s.group gid).port e.x.d.idx.toNat).bound = true →
      Takes i s gid sid e (fun b t => OnlyGroup b t gid ∧
        t.group gid = { b.group gid with ports := (t.group gid).ports } ∧
        (t.group gid).port e.x.d.idx.toNat = {} ∧
        ∀ k, k ≠ e.x.d.idx.toNat → (t.group gid).port k = (s.group gid).port k))

/-- FullEmptyWords and PortsBindAndClose (above), together. -/
def Obligations.PortsAndFullWords : Prop :=
  FullEmptyWords ∧ PortsBindAndClose

/-! ### Accesses performed, and the registers their results reach (R161 to R175, R270, R279, R280) -/

namespace Sys2Proof.Machine.Rules

/-- A lane's value among some. -/
def given (l : List (Nat × DWord)) (lane : Nat) : Option DWord := (l.find? (fun e => e.1 = lane)).map (·.2)

/-- The result of an atomic in memory (R172): old value, operand, compare value, at w bits. Adding f32 rounds to
nearest even (R174). -/
def atomicNew (op ty w old val cmp : Nat) : Nat :=
  let n (x : Nat) : Int := num (isSignedTy ty) w x
  match op with
  | 0 => if ty = 8 then ((FVal.add 0 (FVal.read f32 false old) (FVal.read f32 false val)).round f32 0 false false).1
    else (old + val) % 2 ^ w
  | 1 => if n val < n old then val else old
  | 2 => if n old < n val then val else old
  | 3 => old &&& val
  | 4 => old ||| val
  | 5 => old ^^^ val
  | 6 => val
  | _ => if old = cmp then val else old

/-- The flags of an atomic (R101, R174): those of an f32 addition, none where an operand is poison. -/
def atomicFlags (op ty old val : Nat) : Flags :=
  let x := FVal.read f32 false old
  let y := FVal.read f32 false val
  if op ≠ 0 ∨ ty ≠ 8 ∨ x.isPoison ∨ y.isPoison then 0 else ((FVal.add 0 x y).round f32 0 false false).2

/-- What a register takes from a load of a type (R165): narrow i types sign-extended to 32 bits. -/
def extended (ty v : Nat) : DWord :=
  if isSignedTy ty && tyBits ty < 32 then ((BitVec.ofNat (tyBits ty) v).signExtend 32).setWidth 64 else BitVec.ofNat 64 v

/-- The turn of an outstanding access has come: it may be performed. -/
structure Performable (s : State) (gid id lane : Nat) (a : Acc) (rest : List Turn) : Prop where
  run : s.booted = true ∧ s.power.state = .run
  turn : s.turns = .perform gid id lane :: rest
  acc : (s.group gid).accs.find? (fun b => b.id = id) = some a
  follows : s.canPerform gid a = true
  works : s.mayWork (s.group gid).ctx (slotOf gid) = true

/-- A sector as an access of a core sees it (R54, R280): its L1's, under nol1 only a dirty one, else the home's. -/
def seenBy (s : State) (core k policy : Nat) : BitVec 256 :=
  match s.l1Look core k with
  | some x => if policy = 3 ∧ x.dirty = false then s.peekSector k else x.data
  | none => s.peekSector k

/-- Nothing that a core or the home slice would read of a sector is poisoned, no error is pending, and no other cached sector
is a name of the same DRAM (R366, R374). -/
structure Clean (s : State) (core sec : Nat) : Prop where
  ecc : s.ecc = []
  poison : s.poison = []
  slice : ∀ k x, s.slice.look k = some x → x.poison = false
  l1 : ∀ k x, s.l1Look core k = some x → x.poison = false
  alone : ∀ k ∈ s.slice.keys ++ (s.core core).l1.keys, s.dram (k * 32) / 32 = s.dram (sec * 32) / 32 → k = sec

end Sys2Proof.Machine.Rules

/-- R161, R165, R166, R172 and R175 in the scratchpad, for an access of one lane with plain ordering: a load answers the bytes, a
store puts its bytes and sets the words full, an atomic stores the combination, ATOM answers what it replaced and its flags, and a RED's flags join FPFLAGS. The
access is no longer outstanding; the words it does not touch and all their full/empty bits stay. -/
def Sys2Proof.Machine.Rules.ScratchpadAccessPerformed : Prop :=
  ∀ (s : State) (gid id : Nat) (a : Acc) (l : LaneAcc) (rest : List Turn),
    Performable s gid id l.lane a rest → a.space = 1 → a.ord = 0 → a.kind.real = true → a.lanes = [l] → a.bad = none →
    (a.bytes = 1 ∨ a.bytes = 2 ∨ a.bytes = 4 ∨ a.bytes = 8) → l.addr % a.bytes = 0 →
    l.addr + a.bytes ≤ (s.wgOf gid).spBytes → s.matrixHolds gid a.id l.addr a.bytes = false →
    let old := (s.wgOf gid).spRead l.addr a.bytes
    ∃ t, step s = .next t ∧
      (t.group gid).accs = (s.group gid).accs.filter (fun b => b.id ≠ a.id) ∧
      (∀ w, w ≠ l.addr / 4 → w ≠ (l.addr + a.bytes - 1) / 4 →
        (t.wgOf gid).sp.get 0 w = (s.wgOf gid).sp.get 0 w ∧ (t.wgOf gid).isFull w = (s.wgOf gid).isFull w) ∧
      (match a.kind with
      | .load => (t.wgOf gid).sp = (s.wgOf gid).sp ∧ ∃ r, (t.group gid).replies = (s.group gid).replies ++ [r] ∧
          r.id = a.id ∧ r.target = a.target ∧ r.vals = a.got ++ [(l.lane, extended a.ty old)]
      | .store => (t.wgOf gid).spRead l.addr a.bytes = l.val.toNat % 2 ^ (8 * a.bytes) ∧
          (t.wgOf gid).isFull (l.addr / 4) = true ∧ (t.wgOf gid).isFull ((l.addr + a.bytes - 1) / 4) = true ∧
          (t.group gid).replies = (s.group gid).replies
      | .atomic => (t.wgOf gid).spRead l.addr a.bytes =
            atomicNew a.op a.ty (8 * a.bytes) old l.val.toNat l.cmp.toNat % 2 ^ (8 * a.bytes) ∧
          ∃ r, (t.group gid).replies = (s.group gid).replies ++ [r] ∧ r.id = a.id ∧ r.target = a.target ∧
            r.vals = a.got ++ [(l.lane, BitVec.ofNat 64 old)] ∧
            r.flags = a.flags ||| atomicFlags a.op a.ty old l.val.toNat
      | _ => (t.wgOf gid).spRead l.addr a.bytes =
            atomicNew a.op a.ty (8 * a.bytes) old l.val.toNat l.cmp.toNat % 2 ^ (8 * a.bytes) ∧
          (t.group gid).replies = (s.group gid).replies ∧ (t.group gid).fpflags =
            (s.group gid).fpflags ||| (a.flags ||| atomicFlags a.op a.ty old l.val.toNat).setWidth 32) ∧
      t.mem = s.mem ∧ t.slice = s.slice ∧ ∀ k, k ≠ gid → t.group k = s.group k

/-- R166 and R280: what a core stores in a sector it then loads, at every scope and policy: the stored bytes new, the others
as the core would have loaded them before, whatever the caches replace meanwhile. No cached sector is another name of the
same DRAM. -/
def Sys2Proof.Machine.Rules.CoreReadsItsStores : Prop :=
  ∀ (s : State) (core sec scope policy policy' : Nat) (mask data : BitVec 256),
    s.ecc = [] → s.poison = [] → (∀ x, s.slice.look sec = some x → x.poison = false) →
    (∀ x, s.l1Look core sec = some x → x.poison = false) → (policy = 3 ↔ policy' = 3) →
    (policy = 3 → s.linePresent core sec = false) →
    (∀ k ∈ s.slice.keys, s.dram (k * 32) / 32 = s.dram (sec * 32) / 32 → k = sec) →
    let t := s.l1Write core sec scope policy mask data
    (t.l1Read core sec policy').2.1.data = blend mask data (s.l1Read core sec policy').2.1.data

/-- R164 to R166, R172, R280 and R288 in global and bank-linear memory, for an access of one lane with plain ordering whose
page is mapped, where nothing is poisoned: a load answers the bytes as its core sees them; after a store its core sees the
bytes new and the rest of the sector as before, and at .dev and .sys the home slice has them too; an atomic combines with
the newest bytes, leaves the result at the home and nothing of the sector in the L1, and ATOM answers what it replaced and
its flags. An atomic on an MS page of the capacity tier is performed in the home slice (the model's choice, log 104). -/
def Obligations.MemoryAccessesArePerformed : Prop :=
  ∀ (s u : State) (gid id : Nat) (a : Acc) (l : LaneAcc) (rest : List Turn) (pa leaf : Nat) (entry : DWord),
    Performable s gid id l.lane a rest → a.space = 0 ∨ a.space = 2 → a.ord = 0 → a.kind.real = true → a.lanes = [l] →
    a.bad = none → a.bytes = 1 ∨ a.bytes = 2 ∨ a.bytes = 4 ∨ a.bytes = 8 → pa % a.bytes = 0 → pa % 32 = l.addr % 32 →
    s.coreTranslate (coreOf gid) (s.group gid).ctx a.super (a.space = 2) (if a.kind.writes then 1 else 0) l.addr =
      (u, .ok pa entry leaf) → u.window pa ≠ some 3 →
    let core := coreOf gid
    let sec := pa / 32
    Clean u core sec → (a.kind = .store → a.policy = 3 → u.linePresent core sec = false) →
    let m := byteMask (pa % 32) a.bytes
    let new := BitVec.ofNat 256 l.val.toNat <<< (8 * (pa % 32))
    let newest := seenBy u core sec 3
    let old := sectorBytes newest (pa % 32) a.bytes
    let done := fun (t : State) => (t.group gid).accs = (s.group gid).accs.filter (fun b => b.id ≠ a.id) ∧
      t.wgs = s.wgs ∧ ∀ k, k ≠ gid → t.group k = s.group k
    ∃ t, step s = .next t ∧ done t ∧
      match a.kind with
      | .load => ∃ r, (t.group gid).replies = (s.group gid).replies ++ [r] ∧ r.id = a.id ∧ r.target = a.target ∧
          r.vals = a.got ++ [(l.lane, extended a.ty (sectorBytes (seenBy u core sec a.policy) (pa % 32) a.bytes))]
      | .store => (t.group gid).replies = (s.group gid).replies ∧
          seenBy t core sec a.policy = blend m new (seenBy u core sec a.policy) ∧
          (a.scope ≠ 0 → t.peekSector sec = blend m new newest)
      | .atomic => sectorBytes (t.peekSector sec) (pa % 32) a.bytes =
            atomicNew a.op a.ty (8 * a.bytes) old l.val.toNat l.cmp.toNat % 2 ^ (8 * a.bytes) ∧
          t.peekSector sec &&& ~~~m = newest &&& ~~~m ∧ t.l1Look core sec = none ∧
          ∃ r, (t.group gid).replies = (s.group gid).replies ++ [r] ∧ r.id = a.id ∧ r.target = a.target ∧
            r.vals = a.got ++ [(l.lane, BitVec.ofNat 64 old)] ∧ r.flags = a.flags ||| atomicFlags a.op a.ty old l.val.toNat
      | _ => sectorBytes (t.peekSector sec) (pa % 32) a.bytes =
            atomicNew a.op a.ty (8 * a.bytes) old l.val.toNat l.cmp.toNat % 2 ^ (8 * a.bytes) ∧
          t.peekSector sec &&& ~~~m = newest &&& ~~~m ∧ t.l1Look core sec = none ∧
          (t.group gid).replies = (s.group gid).replies

/-- R26 and R374: a sector written to DRAM reads back, every other sector reads as before, and memory keeps its canonical
form. -/
def Sys2Proof.Machine.Rules.DramSectorsReadBack : Prop :=
  ∀ (m : Memory) (k j : Nat) (x : BitVec 256), m.wf = true →
    (setDramSector m k x).wf = true ∧ dramSector (setDramSector m k x) j = if j = k then x else dramSector m j

/-- ScratchpadAccessPerformed, CoreReadsItsStores and DramSectorsReadBack (above), together. -/
def Obligations.AccessesArePerformed : Prop :=
  ScratchpadAccessPerformed ∧ CoreReadsItsStores ∧ DramSectorsReadBack

/-- R56, R175 and R270: ASYNC_WRITE_ARRIVAL. A result whose rows still have the generation of its issue, each of them, reaches
its registers in its lanes, and nothing else of the group's registers changes; its flags join FPFLAGS, but not those of a
result that a relay has left without a register (R101; DEDUCED, log 50). One whose rows have a new generation is discarded and counted. Rows that the group has given up and nobody has taken are no registers. In every
case the result's registers are no longer scoreboarded. -/
def Obligations.AsyncWriteArrives : Prop :=
  ∀ (s : State) (gid k : Nat) (r : Reply), (s.group gid).replies[k]? = some r →
    (r.vals.map (·.1)).Nodup → (∀ e ∈ r.vals, e.1 < 32) → (∀ i, r.target ≠ .port i) →
    ∃ t, exec (.asyncWriteArrival gid k) s = .next t ∧
      (t.group gid).replies = (s.group gid).replies.eraseIdx k ∧
      (t.group gid).pending = (s.group gid).pending.filter (fun e => e.1 ≠ r.id) ∧
      t.mem = s.mem ∧ t.wgs = s.wgs ∧ (∀ j, j ≠ gid → t.group j = s.group j) ∧
      (t.group gid).splits = (s.group gid).splits ∧
      (if r.target.current (s.gens gid) then
        t.slots = s.slots ∧ (t.group gid).fpflags =
          (s.group gid).fpflags ||| (if r.target = .none then 0 else r.flags.setWidth 32)
      else (t.group gid).fpflags = (s.group gid).fpflags ∧ (t.slot (slotOf gid)).discarded =
        (if (s.slot (slotOf gid)).discarded = 0xFFFF_FFFF#32 then 0xFFFF_FFFF#32
          else (s.slot (slotOf gid)).discarded + 1)) ∧
      if r.target.current (s.gens gid) ∧ r.target.held (s.group gid) then
        (∀ n l, l < 32 → (t.group gid).rows.get 0 (n * 32 + l) =
          match r.target, given r.vals l with
          | .v row _ _, some v => if n = row then v.extractLsb 31 0 else (s.group gid).rows.get 0 (n * 32 + l)
          | .vPair row row2 .., some v => if n = row2 then v.extractLsb 63 32 else if n = row then v.extractLsb 31 0
            else (s.group gid).rows.get 0 (n * 32 + l)
          | _, _ => (s.group gid).rows.get 0 (n * 32 + l)) ∧
        (∀ n l, l < 32 → (t.group gid).o.get 0 (n * 32 + l) =
          match r.target, given r.vals l with
          | .o i wide, some v => if n = i then v.extractLsb 31 0
            else if wide = true ∧ n = i + 1 then v.extractLsb 63 32 else (s.group gid).o.get 0 (n * 32 + l)
          | _, _ => (s.group gid).o.get 0 (n * 32 + l)) ∧
        (∀ n, (t.group gid).gReg n =
          match r.target, r.vals with
          | .g i, e :: _ => if n = i then e.2 else (s.group gid).gReg n
          | _, _ => (s.group gid).gReg n) ∧
        (∀ n l, l < 32 → Mask.has ((t.group gid).pred n) l =
          match r.target, given r.vals l with
          | .p i, some v => if n = i ∧ n ≠ 0 then decide (v ≠ 0) else Mask.has ((s.group gid).pred n) l
          | _, _ => Mask.has ((s.group gid).pred n) l)
      else
        (t.group gid).rows = (s.group gid).rows ∧ (t.group gid).o = (s.group gid).o ∧ (t.group gid).g = (s.group gid).g ∧
        (t.group gid).p = (s.group gid).p

/-! ### Copies and batches (R180 to R188, R210, R211) -/

namespace Sys2Proof.Machine.Rules

/-- A COPY MORE IS IN FLIGHT on the core's engine C, in the group's open batch and in the split's program order (R181, R263):
the last of the core's copies, but before those that higher-numbered slots issued in this cycle (R306). Nothing else has
changed. -/
structure CopyStarted (b t : State) (gid sid : Nat) (e : Enc) (kind : Nat) (dst src : Loc) (ctl : List DWord)
    (c : Copy) : Prop where
  device : t = { b with groups := t.groups, cores := t.cores, ids := b.ids + 1 }
  groups : ∀ k, k ≠ gid → t.group k = b.group k
  group : t.group gid = { b.group gid with
    unfenced := (b.group gid).unfenced ++ [(b.ids, 0)], ops := (b.group gid).ops ++ [{ id := b.ids, po := 1#4 <<< sid }] }
  cores : ∀ k, k ≠ coreOf gid → t.core k = b.core k
  core : t.core (coreOf gid) = { b.core (coreOf gid) with copies := (t.core (coreOf gid)).copies }
  queue : ∃ before later, (b.core (coreOf gid)).copies = before ++ later ∧
    (t.core (coreOf gid)).copies = before ++ c :: later ∧
    (∀ x ∈ later, x.since = b.cycle + 1 ∧ slotOf gid < slotOf x.gid) ∧
    ∀ x, before.getLast? = some x → ¬(x.since = b.cycle + 1 ∧ slotOf gid < slotOf x.gid)
  owner : c.id = b.ids ∧ c.gid = gid ∧ c.wg = (b.group gid).wg ∧ c.ctx = (b.group gid).ctx ∧ c.super = (b.group gid).super
  fields : c.kind = kind ∧ c.mod = e.x.mod ∧ c.stream = e.x.stream ∧ c.scope = e.x.scope ∧ c.policy = e.x.policy
  ends : c.dst = dst ∧ c.src = src ∧ c.ctl = ctl
  state : c.done = 0 ∧ c.sent = false ∧ c.fail = none ∧ c.bad = none ∧ c.staged = [] ∧ c.since = b.cycle + 1

/-- Control register i of a copy (R180). -/
def control (s : State) (gid : Nat) (e : Enc) (i : Nat) : DWord := (s.group gid).gReg (e.x.d.idx.toNat + i)

/-- The source space of a CPY, the listed side of a CPYG (R180). -/
def spaceBits (e : Enc) : Nat := e.x.mod.toNat / 256 % 4

/-- A 64-bit address operand, or a 32-bit one in the scratchpad (R160). -/
def placeA (s : State) (gid : Nat) (e : Enc) (space : Nat) : Nat := s.source gid e .int (space ≠ 1) e.x.a 0
def placeB (s : State) (gid : Nat) (e : Enc) (space : Nat) : Nat := s.source gid e .int (space ≠ 1) e.x.b 0

/-- A length a copy takes (R185): a multiple of 32 up to 16 MiB. -/
abbrev copyLength (n : Nat) : Prop := n % 32 = 0 ∧ n ≤ 2 ^ 24

/-- The sectors of a contiguous copy, in order. -/
def sectorWork (dst src : Loc) (n : Nat) : List CUnit :=
  (List.range (n / 32)).map (fun i =>
    .sector { src with addr := src.addr + 32 * i } { dst with addr := dst.addr + 32 * i })

/-- Room on engine C (R181). -/
abbrev copyRoom (s : State) (gid : Nat) : Prop := (s.core (coreOf gid)).copies.length < 128

end Sys2Proof.Machine.Rules

/-- R180, R181, R185 to R188: each copy whose operands pass its checks starts, with the places, control registers and work
its operands give. A CPY of length 0 is complete at once. -/
def Obligations.CopiesStart : Prop :=
  ∀ (i : Instr) (s : State) (gid sid : Nat) (e : Enc), encOf i = some e → Quiet s gid sid → Legal s gid sid e →
    s.permitted gid = true → copyRoom s gid →
    let n := (control s gid e 0).toNat % 2 ^ 32
    (e.xop = 0x280 →
      let dst : Loc := ⟨e.x.space, placeA s gid e e.x.space⟩
      let src : Loc := ⟨spaceBits e, placeB s gid e (spaceBits e)⟩
      dst.addr % 32 = 0 → src.addr % 32 = 0 → copyLength n →
      (n = 0 → Takes i s gid sid e (fun b t => t = { b with ids := b.ids + 1 })) ∧
      (n ≠ 0 → Takes i s gid sid e (fun b t => ∃ c, CopyStarted b t gid sid e 0 dst src [] c ∧ c.units = sectorWork dst src n))) ∧
    (e.xop = 0x281 →
      let ctl := (List.range 4).map (control s gid e)
      let dst : Loc := ⟨1, placeA s gid e 1⟩
      let src : Loc := ⟨e.x.space, placeB s gid e e.x.space⟩
      cpytCheck (e.x.mod.toNat / 32 % 32) (e.x.mod.toNat / 8 % 4) dst.addr src.addr ctl ((s.group gid).split sid).mask = .ok →
      Takes i s gid sid e (fun b t => ∃ c, CopyStarted b t gid sid e 1 dst src ctl c ∧
        c.units.take 128 = (List.range 128).map CUnit.trow)) ∧
    (e.xop = 0x282 →
      let dst : Loc := ⟨e.x.space, placeA s gid e e.x.space⟩
      let list : Loc := ⟨0, placeB s gid e 0⟩
      list.addr % 16 = 0 → n ≤ 65536 →
      Takes i s gid sid e (fun b t => ∃ c, CopyStarted b t gid sid e 2 dst list [BitVec.ofNat 64 n] c ∧
        c.units = if n = 0 then [] else [.entry 0])) ∧
    (e.xop = 0x283 →
      let dst : Loc := ⟨e.x.space, placeA s gid e e.x.space⟩
      let src : Loc := ⟨0, placeB s gid e 0⟩
      dst.addr % 32 = 0 → src.addr % 32 = 0 → copyLength n → (control s gid e 0).toNat < 2 ^ 32 →
      (control s gid e 1).toNat < 2 ^ 19 →
      Takes i s gid sid e (fun b t => ∃ c,
        CopyStarted (b.spent gid) t gid sid e 3 dst src [control s gid e 0, control s gid e 1] c ∧
        c.units = (List.range (n / 32)).map
          (fun j => if e.x.mod.getLsbD 0 then CUnit.put (32 * j) else .get (32 * j))))

/-- R182, R185 and R307: COPY_FE_ROW_WRITE of a .fe copy inside the scratchpad whose destination words are empty: the sector
is written, its words are full, and it is off the copy's work; no other word and no other bit changes. -/
def Sys2Proof.Machine.Rules.CopySectorIsWritten : Prop :=
  ∀ (s : State) (core k : Nat) (c : Copy) (src dst : Loc) (rest : List CUnit),
    (s.core core).copies[k]? = some c → c.kind = 0 → c.mod.getLsbD 6 = true → c.units = .sector src dst :: rest →
    c.staged = [] → c.tail = [] →
    src.space = 1 → dst.space = 1 → src.addr % 32 = 0 → dst.addr % 32 = 0 →
    src.addr + 32 ≤ (s.wg c.wg).spBytes → dst.addr + 32 ≤ (s.wg c.wg).spBytes →
    (∀ j, j < 8 → (s.wg c.wg).isFull (dst.addr / 4 + j) = false) →
    s.allDone c.gid c.after = true → s.mayWork c.ctx (640 + core) = true →
    ∃ t, exec (.copyFeRowWrite core k) s = .next t ∧
      t = { s with wgs := t.wgs, cores := t.cores } ∧
      (t.core core).copies[k]? = some { c with units := rest, next := dst.addr + 32 } ∧
      (∀ j, j < 8 → (t.wg c.wg).sp.get 0 (dst.addr / 4 + j) = (s.wg c.wg).sp.get 0 (src.addr / 4 + j) ∧
        (t.wg c.wg).isFull (dst.addr / 4 + j) = true) ∧
      ∀ a, (a < dst.addr / 4 ∨ dst.addr / 4 + 8 ≤ a) →
        (t.wg c.wg).sp.get 0 a = (s.wg c.wg).sp.get 0 a ∧ (t.wg c.wg).isFull a = (s.wg c.wg).isFull a

/-- R181, R183 and R210: COPY_COMPLETION of a copy with no work left takes it off the engine, out of the program order, out
of the open batch and out of every closed one. Poison that it met and a late condition are each kept, with their cause, address
and sub-code, for the wait that covers its batch; nothing else is. That poison does not stop a copy is the model's choice
(log 88), and that a copy keeps both (log 44). -/
def Sys2Proof.Machine.Rules.CopyCompletes : Prop :=
  ∀ (s : State) (core k : Nat) (c : Copy), (s.core core).copies[k]? = some c → c.units = [] → c.staged = [] → c.tail = [] →
    c.sent = false → s.allDone c.gid c.after = true → s.mayWork c.ctx (640 + core) = true →
    ∃ t, exec (.copyCompletion core k) s = .next t ∧
      t = { s with groups := t.groups, cores := t.cores, arrivals := t.arrivals } ∧
      (t.core core).copies = (s.core core).copies.eraseIdx k ∧ (∀ j, j ≠ core → t.core j = s.core j) ∧
      (∀ j, j ≠ c.gid → t.group j = s.group j) ∧
      (t.group c.gid).unfenced = (s.group c.gid).unfenced.filter (fun e => e.1 ≠ c.id) ∧
      (t.group c.gid).ops = (s.group c.gid).ops.filter (fun o => o.id ≠ c.id) ∧
      (∀ b ∈ (t.group c.gid).batches, c.id ∉ b.ops) ∧
      (c.fail = none → c.bad = none → (t.group c.gid).deferred = (s.group c.gid).deferred) ∧
      (∀ sub a, c.fail = some (sub, a) → ∃ d ∈ (t.group c.gid).deferred, d.cause = 0x03 ∧ d.addr = a ∧
        d.info = BitVec.ofNat 64 sub ∧ d.engine = some 0 ∧ d.op = c.id) ∧
      (∀ a new, c.bad = some (a, new) → ∃ d ∈ (t.group c.gid).deferred, d.cause = (if new then 0x10 else 0x11) ∧
        d.addr = BitVec.ofNat 64 a ∧ d.info = 4 ∧ d.lanes = 0 ∧ d.engine = some 0 ∧ d.op = c.id) ∧
      (t.group c.gid).deferred.length = (s.group c.gid).deferred.length +
        (if c.bad.isSome then 1 else 0) + (if c.fail.isSome then 1 else 0)

/-- CopySectorIsWritten and CopyCompletes (above), together. -/
def Obligations.CopiesRun : Prop :=
  CopySectorIsWritten ∧ CopyCompletes

/-- R210 and R211: BFENCE closes the open batch of its engine under the next number, which it writes to D; with .mus the
batch carries the arrival that its completion makes at the muster; BWAIT of a complete batch passes; BPOLL answers 1 or 0; both raise trap 0x31 with sub-code 2 for a number not yet closed, and BFENCE
with sub-code 1 at 255 open batches. -/
def Obligations.BatchesCloseAndWait : Prop :=
  ∀ (i : Instr) (s : State) (gid sid : Nat) (e : Enc), encOf i = some e → Quiet s gid sid → Legal s gid sid e →
    let g := s.group gid
    let eng := e.x.mod.toNat % 4
    let n : BitVec 16 := BitVec.ofNat 16 (s.source gid e .int true e.x.b 0)
    let last := g.last.get 0 eng
    let mus := e.x.mod.getLsbD 2
    let a := s.source gid e .int true e.x.a 0
    let trap : Trap := ⟨0x31, sid, (g.split sid).pc, (g.split sid).mask, 0, 2, (g.split sid).pc⟩
    (e.xop = 0x300 → e.x.d.cls = .g → (mus = true → a % 32 = 0 ∧ ∀ c, s.translate g.ctx g.super false 1 a ≠ .fault c) →
      (g.batches.filter (fun b => b.engine = eng && !b.gone)).length < 255 →
      (g.unfenced.filter (fun u => u.2 = eng)) ≠ [] →
      (∀ b ∈ g.batches, b.ops ≠ []) →
      Takes i s gid sid e (fun b t =>
        OnlyGroup (spentIf mus b gid) t gid ∧ (t.group gid).last.get 0 eng = last + 1 ∧
        (t.group gid).gReg e.x.d.idx.toNat = (last + 1).setWidth 64 ∧
        (∀ k, k ≠ e.x.d.idx.toNat → (t.group gid).gReg k = g.gReg k) ∧
        (t.group gid).unfenced = g.unfenced.filter (fun u => u.2 ≠ eng) ∧
        ∃ m : Option Arrival, ⟨eng, last + 1, (g.unfenced.filter (fun u => u.2 = eng)).map (·.1), m, false⟩ ∈
            (t.group gid).batches ∧ m.isSome = mus ∧
          ∀ x, m = some x → x.addr = BitVec.ofNat 64 a ∧ x.ctx = g.ctx ∧ x.count = 1 ∧ x.status = 0 ∧
            x.core = some (coreOf gid) ∧ x.wide = decide (e.x.scope ≠ 0))) ∧
    (e.xop = 0x300 → mus = false → 255 ≤ (g.batches.filter (fun b => b.engine = eng && !b.gone)).length →
      exec i s = .next ((s.calmed gid).raise gid { trap with info := 1 })) ∧
    (e.xop = 0x301 → (last - n).toNat < 32768 →
      (∀ b ∈ g.batches, b.engine = eng → b.gone = false → 32768 ≤ (n - b.num).toNat) → Takes i s gid sid e (fun b t => t = b)) ∧
    (e.xop = 0x302 → (last - n).toNat < 32768 → Takes i s gid sid e (fun b t =>
      t = { b with groups := t.groups, ids := b.ids + 1 } ∧ ∃ r, (t.group gid).replies = g.replies ++ [r] ∧
        r.target = resultOf s gid e false ∧ r.vals.map (·.1) = lanesOf (s.lanes gid sid e) ∧
        ∀ v ∈ r.vals, v.2 = if ∀ b ∈ g.batches, b.engine = eng → b.gone = false → 32768 ≤ (n - b.num).toNat then 1 else 0)) ∧
    (e.xop = 0x301 ∨ e.xop = 0x302 → 32768 ≤ (last - n).toNat → exec i s = .next ((s.calmed gid).raise gid trap))

/-! ### Queues, musters, rows and counters (R212 to R228) -/

namespace Sys2Proof.Machine.Rules

/-- An object's address operand, and where it lies (R209, R212, R219): it translates for reading and for writing. -/
structure Object (s : State) (gid : Nat) (va align pa : Nat) : Prop where
  aligned : va % align = 0 ∧ pa % 64 = va % 64
  read : ∃ e l, s.translate (s.group gid).ctx (s.group gid).super false 0 va = .ok pa e l
  write : ∃ e l, s.translate (s.group gid).ctx (s.group gid).super false 1 va = .ok pa e l

/-- The words of D that an instruction writes at once in its effective lanes, as a register would show them. -/
def shows (s t : State) (gid sid : Nat) (e : Enc) (wide : Bool) (v : DWord) : Prop :=
  ∀ l, Mask.has (s.lanes gid sid e) l →
    readTarget (t.group gid) (resultOf s gid e wide) l = if e.x.d.cls = .p ∧ e.x.d.idx = 0 then 1 else v

/-- A reply with one value in every effective lane is on its way to D, which is scoreboarded (R56). -/
def answers (s b t : State) (gid sid : Nat) (e : Enc) (wide : Bool) (v : DWord) : Prop :=
  (t.group gid).replies = (b.group gid).replies ++ [{
    id := b.ids, split := sid, target := resultOf s gid e wide,
    vals := (lanesOf (s.lanes gid sid e)).map (fun l => (l, v)) }] ∧
  (t.group gid).pending = (b.group gid).pending ++ [(b.ids, resultOf s gid e wide, sid)] ∧
  t.ids = b.ids + 1

/-- The slice set of an address's line has a way for it: at most 15 other lines are cached there, so that nothing is replaced
(R21, R54). -/
abbrev roomAt (s : State) (pa : Nat) : Prop :=
  (((s.slice.keys.map (· / 4)).filter
    (fun k => k ≠ pa / 128 && s.sliceSetOf k = s.sliceSetOf (pa / 128))).eraseDups).length < 16

/-- What D shows where a value has been written at once in some lanes. -/
def landed (g : Group) (t : Target) (lanes : Mask) (v : DWord) : Prop :=
  match t with
  | .v row _ _ => ∀ l, l < 32 → Mask.has lanes l → g.rows.get 0 (row * 32 + l) = v.setWidth 32
  | .g i => lanes ≠ 0 → g.gReg i = v
  | .p i => i ≠ 0 → ∀ l, l < 32 → Mask.has lanes l → Mask.has (g.pred i) l = decide (v ≠ 0)
  | _ => True

/-- The same for each line of n bytes, with every one of those lines there: nothing is replaced while they are written. -/
abbrev roomFor (s : State) (pa n : Nat) : Prop :=
  ∀ j, j < n → (((s.slice.keys.map (· / 4) ++ (List.range n).map (fun i => (pa + i) / 128)).filter
    (fun k => k ≠ (pa + j) / 128 && s.sliceSetOf k = s.sliceSetOf ((pa + j) / 128))).eraseDups).length < 16

/-- No write of a target reaches an allocation row. -/
def sparesRow (t : Target) (r : Nat) : Prop :=
  match t with
  | .v row _ _ => r ≠ row
  | .vPair row row2 .. => r ≠ row ∧ r ≠ row2
  | _ => True

/-- Bits of a block or muster as its home slice holds it. -/
def homeBits (s : State) (pa n hi lo : Nat) : Nat := field (s.peekBytes pa n) hi lo

end Sys2Proof.Machine.Rules

/-- R212 and R213: QINIT where there was no block, or an idle one of the context's own, nothing of the group is
outstanding and no DRAM error is pending: the block reads back with its fields, empty, valid, and nothing but its two sectors has changed. -/
def Sys2Proof.Machine.Rules.QinitMakesAnEmptyQueue : Prop :=
  ∀ (i : Instr) (s : State) (gid sid : Nat) (e : Enc) (pa : Nat), encOf i = some e → e.xop = 0x303 → Quiet s gid sid →
    Legal s gid sid e → s.permitted gid = true → (s.group gid).accs = [] → (s.group gid).ops = [] → (s.group gid).ctx < 8 →
    roomAt s pa → s.ecc = [] →
    let va := s.source gid e .int true e.x.a 0
    let slots := s.source gid e .int true e.x.b 0
    let cap := e.x.mod.toNat / 8 % 32
    Object s gid va 64 pa → slots % 256 = 0 → slots < 2 ^ 56 →
    (blockValid (s.peekBytes pa 64) = true → ((s.qRead pa).lq = true → (s.group gid).super = true) ∧
      (s.qRead pa).owner = (s.group gid).ctx ∧ (s.qRead pa).enqw = 0 ∧ (s.qRead pa).deqw = 0 ∧
      (s.qRead pa).penq = 0 ∧ (s.qRead pa).pdeq = 0) →
    Takes i s gid sid e (fun b t =>
      t = { b.spent gid with slice := t.slice } ∧ blockValid (t.peekBytes pa 64) = true ∧
      t.qRead pa = {
        esz := e.x.mod.toNat / 256, scope := e.x.scope, blk := e.x.mod.getLsbD 2, md := e.x.mod.getLsbD 1,
        logcap := cap, owner := (s.group gid).ctx, lq := false, head := 0, tail := 0, free := 2 ^ cap, enqw := 0, deqw := 0,
        penq := 0, pdeq := 0, slots := slots / 256 } ∧
      ∀ k, k ≠ pa / 32 → k ≠ pa / 32 + 1 → t.slice.look k = s.slice.look k)

/-- R215 to R217 and R208: QENQ and QDEQ of a valid block by its context, with nothing of the group outstanding. A QENQ
with a slot free reserves it (FREE down, PENQ up) and waits for its publication; a QDEQ of an element in the queue
reserves that (HEAD and PDEQ up) and waits for it, which `ElementsAreTaken` ends. With .try and nothing to be had D takes
0 and the block stays. That HEAD and PDEQ move as QDEQ issues (DEDUCED, log 17), and that a QENQ of U-level code on the block
of the supervisor queue takes trap 0x02 (DESIGN CHOICE, log 95), are the model's choices. -/
def Obligations.QueueOperations : Prop :=
  ∀ (i : Instr) (s : State) (gid sid : Nat) (e : Enc) (pa : Nat), encOf i = some e → Quiet s gid sid →
    Legal s gid sid e → s.permitted gid = true → (s.group gid).accs = [] → (s.group gid).ops = [] → (s.group gid).ctx < 8 →
    roomAt s pa →
    let va := s.source gid e .int true e.x.a 0
    let at' := s.source gid e .int (e.x.space ≠ 1) e.x.b 0
    let q := s.qRead pa
    let try' := e.x.mod.getLsbD 0
    Object s gid va 64 pa → at' % 64 = 0 → e.x.space = 1 → at' + 64 * 2 ^ q.esz ≤ (s.wgOf gid).spBytes →
    queueFails (s.peekBytes pa 64) (s.group gid).ctx (some e.x.scope) (s.farDie gid pa) (e.xop = 0x305) = none →
    (e.xop = 0x304 → (s.group gid).super = false → s.supervisorBlock (s.group gid).ctx pa = true → exec i s = .next
      ((s.calmed gid).raise gid ⟨0x02, sid, ((s.group gid).split sid).pc, ((s.group gid).split sid).mask, 0, 0,
        ((s.group gid).split sid).pc⟩)) ∧
    ((e.xop = 0x304 → (s.group gid).super = true ∨ s.supervisorBlock (s.group gid).ctx pa = false) →
    q.penq < 255 → q.pdeq < 255 → q.free < 2 ^ 31 →
    (e.xop = 0x304 → (s.parked pa true).length < q.free → Takes i s gid sid e (fun b t =>
      t.qRead pa = { q with free := q.free - 1, penq := q.penq + 1 } ∧
      ((t.group gid).split sid) = { (b.group gid).split sid with wait := .publish, why := 6 } ∧
      ∃ r, t.enqs = s.enqs ++ [r] ∧ r.gid = gid ∧ r.sid = sid ∧ r.block = pa ∧ r.va = va ∧
        r.index = (q.tail + q.penq) % 2 ^ 32 ∧ r.size = 64 * 2 ^ q.esz ∧ r.src = at' ∧ r.space = e.x.space ∧
        r.stream = e.x.stream ∧ r.published = false ∧ r.deq = false)) ∧
    (e.xop = 0x305 → (s.parked pa false).length < (q.tail + 2 ^ 32 - q.head) % 2 ^ 32 →
      s.rangeBusy (s.calm gid) (pagesOf (q.slot q.head) (64 * 2 ^ q.esz)) = false →
      Takes i s gid sid e (fun b t =>
        t.qRead pa = { q with head := (q.head + 1) % 2 ^ 32, pdeq := q.pdeq + 1 } ∧
        ((t.group gid).split sid) = { (b.group gid).split sid with wait := .publish, why := 6 } ∧
        ∃ r, t.enqs = s.enqs ++ [r] ∧ r.gid = gid ∧ r.sid = sid ∧ r.block = pa ∧ r.va = va ∧ r.index = q.head ∧
          r.size = 64 * 2 ^ q.esz ∧ r.src = at' ∧ r.space = e.x.space ∧ r.lanes = s.lanes gid sid e ∧
          (try' = true → r.target = resultOf s gid e false) ∧ r.deq = true)) ∧
    (e.xop = 0x304 ∨ e.xop = 0x305 → try' = true →
      (if e.xop = 0x304 then q.free ≤ (s.parked pa true).length
        else (q.tail + 2 ^ 32 - q.head) % 2 ^ 32 ≤ (s.parked pa false).length) →
      (e.xop = 0x305 → s.rangeBusy (s.calm gid) (pagesOf (q.slot q.head) (64 * 2 ^ q.esz)) = false) →
      Takes i s gid sid e (fun b t =>
        t = { b.spent gid with groups := t.groups } ∧ shows s t gid sid e false 0 ∧
        ∀ k, k ≠ gid → t.group k = b.group k)))

/-- R214 and R218: QSTAT of a valid block, no DRAM error being pending, answers the published count and FREE; a block that fails a check raises that
check's trap with the block's address, before any effect. -/
def Sys2Proof.Machine.Rules.QstatReadsTheBlock : Prop :=
  ∀ (i : Instr) (s : State) (gid sid : Nat) (e : Enc) (pa : Nat), encOf i = some e → e.xop = 0x306 → Quiet s gid sid →
    Legal s gid sid e → s.permitted gid = true →
    let va := s.source gid e .int true e.x.a 0
    let f := fun hi lo => homeBits s pa 64 hi lo
    let x := (s.group gid).split sid
    Object s gid va 64 pa → s.ecc = [] →
    match queueFails (s.peekBytes pa 64) (s.group gid).ctx none (s.farDie gid pa) false with
    | none => Takes i s gid sid e (fun b t =>
        t = { b with groups := t.groups, ids := b.ids + 1 } ∧
        answers s b t gid sid e true (BitVec.ofNat 64 ((f 127 96 + 2 ^ 32 - f 95 64) % 2 ^ 32 + 2 ^ 32 * f 159 128)))
    | some (cause, sub) => exec i s = .next ((s.calmed gid).raise gid
        ⟨cause, sid, x.pc, x.mask, BitVec.ofNat 64 va, BitVec.ofNat 64 sub, x.pc⟩)

/-- QinitMakesAnEmptyQueue and QstatReadsTheBlock (above), together. -/
def Obligations.QueuesAreMadeAndRead : Prop :=
  QinitMakesAnEmptyQueue ∧ QstatReadsTheBlock

/-- R216: a QDEQ that has reserved its element takes it, into the scratchpad, with nothing of its group outstanding and
nothing in the core's L1: every byte of the slot reaches its place and its words are full, FREE goes up and PDEQ down, D
of .try takes 1, and the split issues again. The order of these steps is the model's reading (DEDUCED, log 17). -/
def Sys2Proof.Machine.Rules.ElementsAreTaken : Prop :=
  ∀ (s u : State) (k : Nat) (x : Enq) (rest : List Turn) (bs : List (Byte × Bool)) (bad : Option (Nat × Bool)),
    s.booted = true → s.power.state = .run → s.turns = .element k :: rest → s.enqs[k]? = some x → x.deq = true →
    let g := s.group x.gid
    let q := s.qRead x.block
    s.mayControl g.ctx = true → g.accs = [] → g.ops = [] → g.handler = none → (g.split x.sid).wait = .publish →
    (g.split x.sid).due = none → x.space = 1 → x.src % 64 = 0 → x.size = 64 * 2 ^ q.esz → q.esz < 3 →
    x.src + x.size ≤ (s.wgOf x.gid).spBytes → x.block % 64 = 0 → 1 ≤ q.pdeq → q.free < 2 ^ 31 →
    State.getBytes (x.size / 32) { s with turns := rest } { g.who x.gid with ctl := true } ⟨0, q.slot x.index⟩ x.size =
      (u, .ok bs, bad) →
    (∀ y ∈ bs, y.2 = false) → s.listBusy g (regionList ((bs.map (·.1)).take 32)) = false →
    s.listFault g (regionList ((bs.map (·.1)).take 32)) = none →
    u.peekBytes x.block 64 = s.peekBytes x.block 64 → roomAt u x.block → (s.core (coreOf x.gid)).l1 = [] →
    ∃ t, step s = .next t ∧ t.qRead x.block = { q with free := q.free + 1, pdeq := q.pdeq - 1 } ∧
      t.enqs = s.enqs.eraseIdx k ∧ ((t.group x.gid).split x.sid).wait = .none ∧ landed (t.group x.gid) x.target x.lanes 1 ∧
      (∀ j y, bs[j]? = some y → (t.wgOf x.gid).spByte (x.src + j) = y.1) ∧
      ∀ j, j < x.size / 4 → (t.wgOf x.gid).isFull (x.src / 4 + j) = true

/-- R215: QENQ_PUBLISH of an element whose earlier accesses are performed, with no other enqueue of the device under way and
nothing in the core's L1: the slot holds the element byte for byte, D of .try takes 1 and the split issues again; at the
block's TAIL the element moves TAIL up and PENQ down, elsewhere it stays published until TAIL comes to it. That an element in
the scratchpad or in memory is read, and its slot written, as the publication happens is the model's reading (DEDUCED,
log 17). -/
def Sys2Proof.Machine.Rules.PublicationMovesTail : Prop :=
  ∀ (s u v : State) (x : Enq) (bs : List (Byte × Bool)) (y : Option (Nat × Bool)) (slot leaf : Nat) (en : DWord),
    s.enqs = [x] → x.published = false → x.deq = false → s.enqReady x = true →
    (s.group x.gid).handler = none → ((s.group x.gid).split x.sid).wait = .publish →
    ((s.group x.gid).split x.sid).due = none →
    s.mayControl (s.group x.gid).ctx = true → (s.group x.gid).ctx < 8 → x.block % 64 = 0 →
    let q := s.qRead x.block
    1 ≤ q.penq → q.owner < 8 → q.esz < 3 → x.size = 64 * 2 ^ q.esz →
    s.getBytes (x.size / 32) ((s.group x.gid).who x.gid) ⟨x.space, x.src⟩ x.size = (u, .ok bs, y) →
    u.putBytes (x.size / 32) { (s.group x.gid).who x.gid with ctl := true } ⟨0, q.slot x.index⟩ bs = (v, .ok []) →
    s.listBusy (s.group x.gid) (regionList ((bs.map (·.1)).take 32)) = false →
    s.listFault (s.group x.gid) (regionList ((bs.map (·.1)).take 32)) = none →
    u.translate (s.group x.gid).ctx (s.group x.gid).super false 1 (q.slot x.index) = .ok slot en leaf →
    u.window slot ≠ some 3 → slot % 32 = 0 → roomFor u slot x.size → slot + x.size ≤ x.block ∨ x.block + 64 ≤ slot →
    v.peekBytes x.block 64 = s.peekBytes x.block 64 → roomAt v x.block → (v.core (coreOf x.gid)).l1 = [] →
    ∃ t, exec (.qenqPublish 0) s = .next t ∧
      t.peekBytes slot x.size = bs.map (·.1) ∧ landed (t.group x.gid) x.target x.lanes 1 ∧
      ((t.group x.gid).split x.sid).wait = .none ∧ (t.qRead x.block).head = q.head ∧ (t.qRead x.block).free = q.free ∧
      if x.index = q.tail then
        (t.qRead x.block).tail = (q.tail + 1) % 2 ^ 32 ∧ (t.qRead x.block).penq = q.penq - 1 ∧ t.enqs = []
      else
        (t.qRead x.block).tail = q.tail ∧ (t.qRead x.block).penq = q.penq ∧ t.enqs = [{ x with published := true }]

/-- R217: QUEUE_WAITER_SERVED with nothing parked does nothing; it gives the oldest of the parked enqueues a freed slot, and
the oldest of the parked dequeues an element, and the others stay in their order; QUEUE_POLL_RETRY lets a poller try again.
That a dequeue takes HEAD as it is served is the model's reading (DEDUCED, log 17). -/
def Sys2Proof.Machine.Rules.QueueWaitersAreServed : Prop :=
  (∀ (s : State) (pa : Nat) (enq : Bool), s.parked pa enq = [] → exec (.queueWaiterServed pa enq) s = .next s) ∧
  (∀ (s : State) (pa : Nat) (enq : Bool) (w : Waiter) (rest : List Waiter) (p : Pend), s.parked pa enq = w :: rest →
    (∀ v ∈ rest, ¬(v.gid = w.gid ∧ v.sid = w.sid)) →
    ((s.group w.gid).split w.sid).pend = some p → (s.group w.gid).stepping = false → pa % 64 = 0 → roomAt s pa →
    s.mayStart (s.group w.gid).ctx = true → s.stoppedWg (s.group w.gid) = false →
    let q := s.qRead pa
    (if enq then 0 < q.free ∧ 1 ≤ q.enqw ∧ q.penq < 255
      else 0 < (q.tail + 2 ^ 32 - q.head) % 2 ^ 32 ∧ 1 ≤ q.deqw ∧ q.pdeq < 255 ∧
        s.rangeBusy (s.group w.gid) ((if p.space = 1 then [] else pagesOf p.addr (64 * 2 ^ q.esz)) ++
          pagesOf (q.slot q.head) (64 * 2 ^ q.esz)) = false) →
    ∃ t, exec (.queueWaiterServed pa enq) s = .next t ∧ t.parked pa enq = rest ∧
      (∀ b k, (b ≠ pa ∨ k ≠ enq) → (∀ v ∈ s.parked b k, ¬(v.gid = w.gid ∧ v.sid = w.sid)) → t.parked b k = s.parked b k) ∧
      t.qRead pa = (if enq then { q with free := q.free - 1, penq := q.penq + 1, enqw := q.enqw - 1 }
        else { q with head := (q.head + 1) % 2 ^ 32, pdeq := q.pdeq + 1, deqw := q.deqw - 1 }) ∧
      ((t.group w.gid).split w.sid).wait = .publish ∧
      ((t.group w.gid).split w.sid).pc = ((s.group w.gid).split w.sid).pc + BitVec.ofNat 64 p.size ∧
      ∃ r, t.enqs = s.enqs ++ [r] ∧ r.gid = w.gid ∧ r.sid = w.sid ∧ r.block = pa ∧ r.src = p.addr ∧ r.space = p.space ∧
        r.index = (if enq then (q.tail + q.penq) % 2 ^ 32 else q.head) ∧ r.size = 64 * 2 ^ q.esz ∧ r.deq = !enq) ∧
  (∀ (s : State) (gid sid c : Nat), ((s.group gid).split sid).wait = .retry c → ((s.group gid).split sid).why = 6 →
    ∃ t, exec (.queuePollRetry gid sid) s = .next t ∧ OnlySplit s t gid sid ∧
      (t.group gid).split sid = { (s.group gid).split sid with wait := .none })

/-- PublicationMovesTail, QueueWaitersAreServed and ElementsAreTaken (above), together. -/
def Obligations.QueuesPublishAndServe : Prop :=
  PublicationMovesTail ∧ QueueWaitersAreServed ∧ ElementsAreTaken

/-- R219 to R221 without parked waiters and with no DRAM error pending: INIT sets EXPECT and SCOPE and clears the rest; ARRIVE and an engine's arrival
command, once what it releases is performed, add c arrivals, and at EXPECT the generation completes: LASTST takes the folded status, GEN goes up by one, ARRIVED
and STATUS become 0. A command that goes past EXPECT folds one status 0xFF into what LASTST takes (R220). -/
def Sys2Proof.Machine.Rules.MusterArithmetic : Prop :=
  (∀ (i : Instr) (s : State) (gid sid : Nat) (e : Enc) (pa : Nat), encOf i = some e → Quiet s gid sid → Legal s gid sid e →
    s.permitted gid = true → (s.group gid).accs = [] → (s.group gid).ops = [] → roomAt s pa → s.ecc = [] →
    (∀ w ∈ s.waiters, w.isMuster = true → w.block ≠ pa) →
    let va := s.source gid e .int true e.x.a 0
    let c := s.source gid e .int true e.x.b 0 % 2 ^ 32
    let f := fun hi lo => homeBits s pa 32 hi lo
    Object s gid va 32 pa → c ≠ 0 →
    (e.xop = 0x307 → Takes i s gid sid e (fun b t => t = { b.spent gid with slice := t.slice } ∧
      homeBits t pa 32 31 0 = c ∧ homeBits t pa 32 223 32 = 0 ∧ homeBits t pa 32 225 224 = e.x.scope)) ∧
    (e.xop = 0x308 → f 225 224 = 0 → Takes i s gid sid e (fun b t => t = { b.spent gid with slice := t.slice } ∧
      homeBits t pa 32 31 0 = f 31 0 ∧
      if f 31 0 ≤ f 63 32 + c then
        homeBits t pa 32 63 32 = 0 ∧ homeBits t pa 32 95 64 = (f 95 64 + 1) % 2 ^ 32 ∧ homeBits t pa 32 127 96 = 0 ∧
        homeBits t pa 32 223 192 = (if f 31 0 = f 63 32 + c then f 127 96
          else 0xFF + 256 * min (2 ^ 24 - 1) (f 127 104 + 1))
      else homeBits t pa 32 63 32 = f 63 32 + c ∧ homeBits t pa 32 95 64 = f 95 64 ∧
        homeBits t pa 32 127 96 = f 127 96))) ∧
  (∀ (s : State) (k : Nat) (a : Arrival) (pa : Nat) (en : DWord) (leaf : Nat), s.arrivals[k]? = some a →
    (s.ctx a.ctx).dead = false → (∀ n ∈ a.after, s.underWay n = false) →
    (∀ c, a.core = some c → ∀ x ∈ (s.core c).l1, x.2.dirty = false) → roomAt s pa → s.ecc = [] →
    s.translate a.ctx false false 1 a.addr.toNat = .ok pa en leaf → pa % 32 = 0 →
    (∀ w ∈ s.waiters, w.isMuster = true → w.block ≠ pa) → a.status < 256 →
    let f := fun hi lo => homeBits s pa 32 hi lo
    ∃ t, exec (.musterArrivalCommand k) s = .next t ∧
      t = { s with arrivals := s.arrivals.eraseIdx k, slice := t.slice } ∧
      (f 63 32 + a.count < f 31 0 →
        homeBits t pa 32 63 32 = f 63 32 + a.count ∧ homeBits t pa 32 95 64 = f 95 64 ∧
        homeBits t pa 32 103 96 = max (f 103 96) a.status ∧
        homeBits t pa 32 127 104 = (if a.status = 0 then f 127 104 else min (2 ^ 24 - 1) (f 127 104 + a.count))) ∧
      (f 31 0 ≤ f 63 32 + a.count → homeBits t pa 32 63 32 = 0 ∧ homeBits t pa 32 127 96 = 0 ∧
        homeBits t pa 32 95 64 = (f 95 64 + 1) % 2 ^ 32 ∧
        let n := if a.status = 0 then f 127 104 else min (2 ^ 24 - 1) (f 127 104 + a.count)
        homeBits t pa 32 223 192 = (if f 31 0 = f 63 32 + a.count then max (f 103 96) a.status + 256 * n
          else 0xFF + 256 * min (2 ^ 24 - 1) (n + 1))))

/-- R221: MUSTER.WAIT whose generation has passed writes LASTST to D and is an acquire above .core; MUSTER.POLL answers GEN
and ARRIVED; no DRAM error is pending. -/
def Sys2Proof.Machine.Rules.MusterWaitAndPoll : Prop :=
  ∀ (i : Instr) (s : State) (gid sid : Nat) (e : Enc) (pa : Nat), encOf i = some e → Quiet s gid sid → Legal s gid sid e →
    s.permitted gid = true →
    let va := s.source gid e .int true e.x.a 0
    let f := fun hi lo => homeBits s pa 32 hi lo
    Object s gid va 32 pa → s.ecc = [] →
    (e.xop = 0x309 → f 95 64 ≠ s.source gid e .int true e.x.b 0 % 2 ^ 32 → e.x.d.cls = .g → Takes i s gid sid e (fun b t =>
      t = { b with groups := t.groups, cores := t.cores } ∧
      (f 225 224 = 0 → t.cores = b.cores) ∧
      (f 225 224 ≠ 0 → (t.core (coreOf gid)).l1 = (s.core (coreOf gid)).l1.filter (fun x => x.2.dirty)) ∧
      (t.group gid).gReg e.x.d.idx.toNat = BitVec.ofNat 64 (f 223 192))) ∧
    (e.xop = 0x309 → f 95 64 ≠ s.source gid e .int true e.x.b 0 % 2 ^ 32 → e.x.d = Dst.zero → Takes i s gid sid e (fun b t =>
      t = { b with groups := t.groups, cores := t.cores } ∧ (t.group gid).g = (s.group gid).g ∧
      (t.group gid).rows = (s.group gid).rows)) ∧
    (e.xop = 0x30A → Takes i s gid sid e (fun b t =>
      t = { b with groups := t.groups, ids := b.ids + 1 } ∧
      answers s b t gid sid e true (BitVec.ofNat 64 (f 95 64 + 2 ^ 32 * f 63 32))))

/-- MusterArithmetic and MusterWaitAndPoll (above), together. -/
def Obligations.Musters : Prop :=
  MusterArithmetic ∧ MusterWaitAndPoll

/-- R222: CLAIM that can be served now takes the lowest free rows of its slot, zeroed, and writes 1; with .try and
none to be had it writes 0. GIVE returns the top rows. CLAIM_SERVED serves the first of the slot's waiting claims the same
way, and the others keep their order. Which generation rows taken together receive is the model's choice (DESIGN CHOICE,
log 39). -/
def Obligations.ClaimAndGive : Prop :=
  (∀ (i : Instr) (s : State) (gid sid : Nat) (e : Enc), encOf i = some e → Quiet s gid sid → Legal s gid sid e →
    (s.group gid).liveSplits.length ≤ 1 → (s.group gid).rets = [] → (s.group gid).retSpill = 0 →
    let n := s.source gid e .int true e.x.b 0 % 2 ^ 32
    let g := s.group gid
    n % 8 = 0 → 8 ≤ n → n ≤ 1024 →
    (e.xop = 0x30B → g.alloc + n ≤ 1024 → ∀ u, s.claimNow gid n = some u → Takes i s gid sid e (fun b t =>
      (t.group gid).phys = g.phys ++ (s.pool (slotOf gid)).take n ∧ (t.group gid).alloc = g.alloc + n ∧
      (t.group gid).winSize = g.winSize + n ∧ shows s t gid sid e false 1 ∧
      (∀ r l, l < 32 → (t.group gid).rows.get 0 (r * 32 + l) = if r < g.alloc then g.rows.get 0 (r * 32 + l) else 0) ∧
      t = { b with groups := t.groups, slots := t.slots } ∧ ∀ k, k ≠ gid → t.group k = s.group k)) ∧
    (e.xop = 0x30B → g.alloc + n ≤ 1024 → e.x.mod.getLsbD 0 = true → s.claimNow gid n = none →
      Takes i s gid sid e (fun b t => OnlyGroup b t gid ∧ (t.group gid).phys = g.phys ∧ shows s t gid sid e false 0)) ∧
    (e.xop = 0x30C → n + 8 ≤ g.alloc → Takes i s gid sid e (fun b t => OnlyGroup b t gid ∧
      (t.group gid).phys = g.phys.take (g.alloc - n) ∧ (t.group gid).winSize = g.winSize - n ∧
      ∀ r l, r < g.alloc - n → l < 32 → (t.group gid).rows.get 0 (r * 32 + l) = g.rows.get 0 (r * 32 + l)))) ∧
  (∀ (s u : State) (slot : Nat) (c : Claim) (rest : List Claim) (p : Pend), (s.slot slot).claims = c :: rest → c ∉ rest →
    slotOf c.gid = slot → s.mayStart (s.group c.gid).ctx = true →
    s.grant c.gid c.rows = some u → ((s.group c.gid).split c.sid).pend = some p → p.eff ≠ 0 → (s.group c.gid).stepping = false →
    let g := s.group c.gid
    ∃ t, exec (.claimServed slot) s = .next t ∧ (t.slot slot).claims = rest ∧
      (t.group c.gid).phys = g.phys ++ (s.pool slot).take c.rows ∧ (t.group c.gid).alloc = g.alloc + c.rows ∧
      (t.group c.gid).winSize = g.winSize + c.rows ∧ landed (t.group c.gid) p.target p.eff 1 ∧
      (∀ r l, l < 32 → sparesRow p.target r →
        (t.group c.gid).rows.get 0 (r * 32 + l) = if r < g.alloc then g.rows.get 0 (r * 32 + l) else 0) ∧
      (∀ k, k ≠ c.gid → t.group k = s.group k) ∧
      ((t.group c.gid).split c.sid).wait = .none ∧
      ((t.group c.gid).split c.sid).pc = ((s.group c.gid).split c.sid).pc + BitVec.ofNat 64 p.size)

/-- R224, R225 and R227: RELAY waits, its manifest and mask recorded, and the workgroup is no longer restartable; CNTRD
answers a counter's counts, 0 for a name that is not live; CANCEL of a name that is not live does nothing. -/
def Sys2Proof.Machine.Rules.RelayAndCounters : Prop :=
  ∀ (i : Instr) (s : State) (gid sid : Nat) (e : Enc), encOf i = some e → Quiet s gid sid → Legal s gid sid e →
    let a := s.source gid e .int true e.x.a 0
    let m := s.source gid e .int true e.x.b 0
    let id : Word := BitVec.ofNat 32 m
    let level := e.x.mod.toNat % 4
    let c := s.ctx (s.group gid).ctx
    let mask := s.source gid e .bits true e.x.b 0
    (e.xop = 0x30D → (s.group gid).liveSplits.length ≤ 1 → a % 128 = 0 → mask < 2 ^ 38 → (s.group gid).accs = [] →
      ((s.group gid).split sid).wait = .none →
      ∃ t, exec i s = .next t ∧ (t.group gid).relay = some (BitVec.ofNat 64 a, BitVec.ofNat 64 mask) ∧
        ((t.group gid).split sid).wait = .relay ∧ (t.wgOf gid).restartable = false ∧
        ((t.group gid).split sid).pc = ((s.group gid).split sid).pc ∧
        t = { s with groups := t.groups, wgs := t.wgs } ∧ ∀ k, k ≠ gid → t.group k = s.group k) ∧
    (e.xop = 0x30E → c.counter level id = none → Takes i s gid sid e (fun b t => t = b.spent gid)) ∧
    (e.xop = 0x30E → ∀ k, c.counter level id = some k → k.launches = [] → Takes i s gid sid e (fun _ t =>
      (t.ctx (s.group gid).ctx).counters = c.counters.map (fun q => if q.level = level ∧ q.id = id then
        { q with cancelled := true, graceEnd := if q.graceEnd = none then some (s.time + c.grace * 1000) else q.graceEnd }
        else q))) ∧
    (e.xop = 0x30F → c.counter level id = none → Takes i s gid sid e (fun b t =>
      t = { b with groups := t.groups, ids := b.ids + 1 } ∧ answers s b t gid sid e true 0)) ∧
    (e.xop = 0x30F → ∀ k, c.counter level id = some k → k.complete = false → k.done ≤ k.expect → k.expect < 2 ^ 31 →
      Takes i s gid sid e (fun b t => t = { b with groups := t.groups, ids := b.ids + 1 } ∧
        answers s b t gid sid e true (BitVec.ofNat 64 (k.done + 2 ^ 32 * (k.expect - k.done)))))

/-- R228: BAR with nothing of the group outstanding: the split waits while a group of the workgroup has still to come;
the last one lets all go on. -/
def Sys2Proof.Machine.Rules.BarWaitsForTheWorkgroup : Prop :=
  ∀ (i : Instr) (s : State) (gid sid : Nat) (e : Enc), encOf i = some e → e.xop = 0x310 → Quiet s gid sid → Legal s gid sid e →
    (s.group gid).liveSplits.length ≤ 1 → (s.group gid).accs = [] → (s.group gid).ops = [] →
    (s.group gid).live = true → (s.group gid).retiring = false →
    (∀ h, (s.group gid).handler = some h → h.wait ≠ .bar) →
    let w := s.wgOf gid
    let here (k : Nat) : Prop := k ∈ w.groups ∧ (s.group k).live = true ∧ (s.group k).wg = (s.group gid).wg ∧
      (s.group k).retiring = false
    gid ∈ w.groups →
    ((∃ k, here k ∧ k ≠ gid ∧ k ∉ w.barred) → Takes i s gid sid e (fun b t =>
      ((t.group gid).split sid).wait = .bar ∧ (t.wgOf gid).barred = w.barred ++ [gid] ∧
      (∀ k, k ≠ gid → t.group k = s.group k) ∧ t = { b with groups := t.groups, wgs := t.wgs })) ∧
    ((∀ k, here k → k = gid ∨ k ∈ w.barred) →
      (∀ k j, k = gid ∨ k ∈ w.barred → ((s.group k).split j).due = none) → Takes i s gid sid e (fun b t =>
      ((t.group gid).split sid).wait = .none ∧ (t.wgOf gid).barred = [] ∧
      (∀ k, k ∈ w.barred → (s.group k).handler = none → ∀ j, j < 4 → ((t.group k).split j).wait ≠ .bar) ∧ t = { b with groups := t.groups, wgs := t.wgs }))

/-- RelayAndCounters and BarWaitsForTheWorkgroup (above), together. -/
def Obligations.RelayCountersAndBar : Prop :=
  RelayAndCounters ∧ BarWaitsForTheWorkgroup

/-! ### The matrix engine (R189 to R206) and near-memory commands (R233 to R244) -/

namespace Sys2Proof.Machine.Rules

/-- What a class-B instruction hands to the engine (R193): the operand values read at issue. -/
def matrixOf (s : State) (gid : Nat) (e : Enc) : Matrix :=
  let o := e.xop % 16
  let addr (f : Src) : Nat := s.source gid e .int false f 0
  let c (i : Nat) : DWord := (s.group gid).gReg (e.x.cSrc.idx.toNat + i)
  { id := s.ids, gid := gid, wg := (s.group gid).wg, op := o, mod := e.x.mod, sat := e.x.d.sat, d := e.x.d.idx.toNat,
    a := if o = 2 ∨ o = 4 then e.x.a.idx.toNat else if o = 3 then 0 else addr e.x.a,
    b := if o = 4 ∨ o = 5 then BitVec.ofNat 64 (addr e.x.b)
      else if o = 8 then BitVec.ofNat 64 (s.source gid e (.fp 8) false e.x.b 0) else 0,
    ctl := if o = 4 then [c 0, c 1] else if o = 5 then [c 0, c 1, c 2, c 3] else [], since := s.cycle + 1 }

/-- The workgroup has every tile and accumulator the instruction names (R190). -/
abbrev tilesHeld (s : State) (gid : Nat) (e : Enc) : Prop :=
  let w := s.wgOf gid
  let o := e.xop % 16
  let named (i : Nat) : Bool := e.x.mod.getLsbD i
  (o = 0 ∨ o = 1 ∨ o = 2 → w.tilem.getLsbD e.x.d.idx.toNat = true) ∧
  (o = 2 ∨ o = 4 → w.tilem.getLsbD e.x.a.idx.toNat = true) ∧
  (o = 4 ∨ o = 5 ∨ o = 6 ∨ o = 7 ∨ o = 8 → w.accm.getLsbD e.x.d.idx.toNat = true) ∧
  (o = 3 → ∀ i, i < 8 → named i = true →
    if e.x.mod.getLsbD 8 then w.tilem.getLsbD i = true else w.accm.getLsbD i = true)

/-- The running instruction's operand elements as numbers, for 4-bit and 8-bit integers (R102, R197). -/
def signedAt (w : Nat) (byte : Nat → Nat → Byte) (row k : Nat) : Int :=
  if w = 4 then
    ((if k % 2 = 0 then (byte row (k / 2)).extractLsb 3 0 else (byte row (k / 2)).extractLsb 7 4) : BitVec 4).toInt
  else (byte row k).toInt

/-- Every product of row m and column n, summed exactly (R111). A of an MMA comes from a tile, transposed or not, that of an
MLOOP and B from the scratchpad, with a row for each row and each column; the step's slot moves both by their increments
(R201, R202). -/
def dotExact (w : Workgroup) (x : Matrix) (m n : Nat) : Int :=
  let bits := if x.kind = 1 then 4 else 8
  let slot := if x.op = 4 then 0 else if x.nslot = 0 then x.step else x.step % x.nslot
  let word (k : Nat) : DWord := x.ctl.getD k 0
  let pb := x.b.toNat + slot * ((word 2).toNat / 2 ^ 32)
  let a (k : Nat) : Int :=
    if x.op = 5 then signedAt bits (fun r c => w.spByte (x.a + slot * ((word 2).toNat % 2 ^ 32) + 128 * r + c)) m k
    else if x.mod.getLsbD 6 then signedAt bits (w.tile x.a) k m else signedAt bits (w.tile x.a) m k
  let b (k : Nat) : Int := signedAt bits (fun r c => w.spByte (pb + 128 * r + c)) n k
  (List.range x.depth).foldl (fun z k => z + a k * b k) 0

/-- The head of a core's matrix queue is this instruction, running, and its context is not stopped. -/
structure Running (s : State) (core : Nat) (m : Matrix) (rest : List Matrix) : Prop where
  queue : (s.core core).matrix = m :: rest
  started : m.started = true
  works : s.mayWork (s.wg m.wg).ctx (512 + core) = true

/-- The flags of a completed engine operation (R100): kept to join FPFLAGS while its batch is open, there once its closed
batch, the group's only one, is complete with it. -/
def flagsKept (s t : State) (gid id engine : Nat) (f : Flags) : Prop :=
  (s.group gid).late = [] →
  ((s.group gid).batches = [] → (t.group gid).fpflags = (s.group gid).fpflags ∧
    (t.group gid).late = if f = 0 then [] else [⟨engine, none, f⟩]) ∧
  (∀ b, (s.group gid).batches = [b] → b.engine = engine → b.ops = [id] → b.gone = false →
    (t.group gid).fpflags = (s.group gid).fpflags ||| f.setWidth 32 ∧ (t.group gid).late = [])

/-- A near-memory command more is in flight on its core and in the group's open batch (R233). -/
structure NearStarted (b t : State) (gid sid : Nat) (e : Enc) (n : Near) : Prop where
  device : t = { b with groups := t.groups, cores := t.cores, ids := b.ids + 1 }
  groups : ∀ k, k ≠ gid → t.group k = b.group k
  group : t.group gid = { b.group gid with
    unfenced := (b.group gid).unfenced ++ [(b.ids, 2)],
    ops := (b.group gid).ops ++ [{ id := b.ids, po := 1#4 <<< sid }], pending := (t.group gid).pending }
  pending : (t.group gid).pending = (b.group gid).pending ++ (if n.target = .none then [] else [(b.ids, n.target, sid)])
  cores : ∀ k, k ≠ coreOf gid → t.core k = b.core k
  core : t.core (coreOf gid) = { b.core (coreOf gid) with near := (b.core (coreOf gid)).near ++ [n] }
  owner : n.id = b.ids ∧ n.gid = gid ∧ n.wg = (b.group gid).wg ∧ n.ctx = (b.group gid).ctx ∧ n.super = (b.group gid).super
  fields : n.op = e.xop % 16 ∧ n.mod = e.x.mod ∧ n.stream = e.x.stream ∧ n.scope = e.x.scope
  state : n.forwarded = false ∧ n.step = 0 ∧ n.bad = none ∧ n.stop = none

/-- A little-endian number of n bytes of a list, from byte i. -/
def leAt (bs : List Byte) (i n : Nat) : Nat := ((List.range n).map (fun k => (bs.getD (i + k) 0).toNat * 256 ^ k)).sum

/-- R195: the types of A and B of a floating kind; R107: the length of its blocks without scaling. -/
def kindTypes (kind : Nat) : Nat × Nat :=
  match kind with
  | 0 => (15, 15) | 2 => (11, 11) | 3 => (11, 12) | 4 => (12, 11) | 5 => (12, 12)
  | 7 => (9, 9) | 8 => (9, 10) | 9 => (10, 9) | _ => (10, 10)
def blockLength (kind : Nat) : Nat := if kind < 7 then 128 else 32

/-- R102: element k of a row of bytes, by its width. -/
def rawAt (bits : Nat) (byte : Nat → Nat → Byte) (row k : Nat) : Nat :=
  if bits = 4 then (byte row (k / 2)).toNat / 16 ^ (k % 2) % 16
  else if bits = 8 then (byte row k).toNat
  else (byte row (2 * k)).toNat + 256 * (byte row (2 * k + 1)).toNat

/-- The elements A(m, k) and B(k, n) of an MMA or of an MLOOP's next step (R197, R201, R202). -/
def rawA (w : Workgroup) (x : Matrix) (m k : Nat) : Nat :=
  let bits := if x.kind = 0 then 4 else if x.kind < 7 then 8 else 16
  let slot := if x.nslot = 0 then x.step else x.step % x.nslot
  if x.op = 5 then rawAt bits (fun r c => w.spByte (x.a + slot * ((x.ctl.getD 2 0).toNat % 2 ^ 32) + 128 * r + c)) m k
  else if x.mod.getLsbD 6 then rawAt bits (w.tile x.a) k m else rawAt bits (w.tile x.a) m k
def rawB (w : Workgroup) (x : Matrix) (k n : Nat) : Nat :=
  let bits := if x.kind = 0 then 4 else if x.kind < 7 then 8 else 16
  let slot := if x.op = 4 then 0 else if x.nslot = 0 then x.step else x.step % x.nslot
  rawAt bits (fun r c => w.spByte (x.b.toNat + slot * ((x.ctl.getD 2 0).toNat / 2 ^ 32) + 128 * r + c)) n k

/-- R108: an accumulator element a after the exact sums of its blocks, each rounded to binary32 once and then added with one
rounding, is b. The sum of block j is `sum j` ÷ D least subnormals of binary32. -/
def BlocksAdded (sum : Nat → Int) (D : Nat) : List Nat → Nat → Nat → Prop
  | [], a, b => a = b
  | j :: js, a, b => ∃ v c, Rounded 8 0 (sum j) D v ∧
      (finite 8 a → finite 8 v → Rounded 8 0 (valOf 8 a + valOf 8 v) 1 c) ∧ BlocksAdded sum D js c b

/-- R106 to R108: what the element (m, n) of an unscaled MMA or MLOOP step turns from `a` into `b` by. -/
def MmaElement (w : Workgroup) (x : Matrix) (m n a b : Nat) : Prop :=
  let (ta, tb) := kindTypes x.kind
  let kb := blockLength x.kind
  let sum (j : Nat) : Int := ((List.range (min kb (x.depth - j * kb))).map (fun i =>
    valOf ta (rawA w x m (j * kb + i)) * valOf tb (rawB w x (j * kb + i) n))).sum
  BlocksAdded (fun j => sum j * 2 ^ 149) (2 ^ (unitOf ta + unitOf tb)) (List.range ((x.depth + kb - 1) / kb)) a b

/-- Every element that an MMA or MLOOP step reads is finite, and it takes no scales. -/
structure FiniteOperands (w : Workgroup) (x : Matrix) : Prop where
  kind : x.kind = 0 ∨ (2 ≤ x.kind ∧ x.kind ≤ 5) ∨ (7 ≤ x.kind ∧ x.kind ≤ 10)
  scale : x.scale = 0
  a : ∀ m k, m < x.rowsM → k < x.depth → finite (kindTypes x.kind).1 (rawA w x m k)
  b : ∀ n k, n < x.colsN → k < x.depth → finite (kindTypes x.kind).2 (rawB w x k n)

/-- R240: the sum of products, or of squared differences (`l2`), of pairs of elements of a type from a on is b: one rounding
a step, and one for each difference. -/
def DotChain (ty : Nat) (l2 : Bool) : List (Nat × Nat) → Nat → Nat → Prop
  | [], a, b => a = b
  | (x, y) :: ps, a, b => ∃ d c, (l2 = true → Rounded 8 0 ((valOf ty x - valOf ty y) * 2 ^ 149) (2 ^ unitOf ty) d) ∧
      (finite 8 a → (l2 = true → finite 8 d) →
        if l2 then Rounded 8 0 (valOf 8 a * 2 ^ 149 + valOf 8 d * valOf 8 d) (2 ^ 149) c
        else Rounded 8 0 (valOf 8 a * 2 ^ (2 * unitOf ty) + valOf ty x * valOf ty y * 2 ^ 149) (2 ^ (2 * unitOf ty)) c) ∧
      DotChain ty l2 ps c b

/-- R242: the sum of table entries, each a product of a code and an activation rounded to binary16, from a on is b. -/
def LutChain : List (Nat × Nat) → Nat → Nat → Prop
  | [], a, b => a = b
  | (x, y) :: ps, a, b => ∃ e c, Rounded 9 0 (valOf 9 x * valOf 9 y) (2 ^ 24) e ∧
      (finite 8 a → finite 9 e → Rounded 8 0 (valOf 8 a + valOf 9 e * 2 ^ 125) 1 c) ∧ LutChain ps c b

/-- R243: the elements of a region joined one after another: a is none before the first. -/
def RedChain (ty op : Nat) : List Nat → Option Nat → Option Nat → Prop
  | [], a, b => a = b
  | x :: xs, none, b => (ty = 8 → finite 8 x) → RedChain ty op xs (some x) b
  | x :: xs, some a, b => ∃ c,
      (if ty = 8 then
        finite 8 a → finite 8 x →
          if op = 0 then Rounded 8 0 (valOf 8 a + valOf 8 x) 1 c
          else (c = a ∨ c = x) ∧ valOf 8 c = (if op = 1 then min (valOf 8 a) (valOf 8 x) else max (valOf 8 a) (valOf 8 x))
      else c < 2 ^ 32 ∧ num (ty = 2) 32 c =
        (if op = 0 then num (ty = 2) 32 (BitVec.ofNat 32 (a + x)).toNat
          else if op = 1 then min (num (ty = 2) 32 a) (num (ty = 2) 32 x) else max (num (ty = 2) 32 a) (num (ty = 2) 32 x))) ∧
      RedChain ty op xs (some c) b

/-- The vectors' elements as pairs, little-endian, n bytes each. -/
def pairsOf (n : Nat) (a b : List Byte) : List (Nat × Nat) :=
  (List.range (a.length / n)).map (fun i => (leAt a (n * i) n, leAt b (n * i) n))

/-- The next turn is the next result of a forwarded near-memory command that holds its query-cache entries. -/
structure NearTurn (s : State) (core k : Nat) (n : Near) : Prop where
  turn : ∃ rest, s.turns = .near core k :: rest
  booted : s.booted = true
  run : s.power.state = .run
  here : (s.core core).near[k]? = some n
  forwarded : n.forwarded = true
  finished : n.finished = false
  works : s.mayWork n.ctx (768 + n.stack) = true
  held : n.entries ≤ n.held

/-- The state in which a turn's work is done: the turn is off the list. -/
def turned (s : State) : State := { s with turns := s.turns.drop 1 }

end Sys2Proof.Machine.Rules

/-- R189 to R193: every class-B instruction whose operands pass the checks of R192 joins the engine's queue and the open
batch with the operands read now: behind all issued before it, but before those that higher-numbered slots issued in the same
cycle. -/
def Sys2Proof.Machine.Rules.MatrixInstructionsIssue : Prop :=
  ∀ (i : Instr) (s : State) (gid sid : Nat) (e : Enc), encOf i = some e → 0x2C0 ≤ e.xop → e.xop ≤ 0x2C8 →
    Quiet s gid sid → Legal s gid sid e → s.permitted gid = true → tilesHeld s gid e →
    (s.core (coreOf gid)).matrix.length < 16 →
    (∀ r : Run, r.gid = gid → r.active = ((s.group gid).split sid).mask → matrixChk (matrixOf s gid e) s r = .ok) →
    Takes i s gid sid e (fun b t =>
      t = { b with groups := t.groups, cores := t.cores, ids := b.ids + 1 } ∧
      (∀ k, k ≠ gid → t.group k = b.group k) ∧
      t.group gid = { b.group gid with
        unfenced := (b.group gid).unfenced ++ [(b.ids, 1)],
        ops := (b.group gid).ops ++ [{ id := b.ids, po := 1#4 <<< sid }] } ∧
      (∀ k, k ≠ coreOf gid → t.core k = b.core k) ∧
      ∃ first last, (b.core (coreOf gid)).matrix = first ++ last ∧
        (∀ x ∈ last, x.since = s.cycle + 1 ∧ slotOf gid < slotOf x.gid) ∧
        (∀ x, first.getLast? = some x → ¬ (x.since = s.cycle + 1 ∧ slotOf gid < slotOf x.gid)) ∧
        t.core (coreOf gid) = { b.core (coreOf gid) with matrix := first ++ matrixOf s gid e :: last })

/-- R189, R193, R194, R203 and R205: MATRIX_INSTRUCTION_START begins the oldest instruction, in a cycle after that of its
issue, once no earlier access of its group touches its bytes, no pass earlier than 8 cycles after its issue (R304), the operand-collector latch as R200 says; MATRIX_INSTRUCTION_COMPLETE of TLD, TMOV, MZERO and MLDA has loaded the tile or accumulator
named, and no other byte of either; the instruction leaves the queue and its batch. -/
def Sys2Proof.Machine.Rules.TileInstructionsComplete : Prop :=
  (∀ (s : State) (core : Nat) (m : Matrix) (rest : List Matrix), (s.core core).matrix = m :: rest → m.started = false →
    m.since ≤ s.cycle → s.matrixBusy m = false → s.mayWork (s.wg m.wg).ctx (512 + core) = true →
    ∃ t r, exec (.matrixInstructionStart core) s = .next t ∧
      t = { s with cores := t.cores } ∧ (t.core core).matrix = { m with started := true, ready := r } :: rest ∧
      (if m.op = 3 then r = 0 else m.since + 7 ≤ r) ∧
      (t.core core).hold =
        (if m.op = 4 ∧ m.mod.getLsbD 5 = true then
          some { gid := m.gid, tile := m.a, kind := m.kind, ta := m.mod.getLsbD 6, m := m.rowsM, k := m.depth }
        else if m.op = 4 ∨ m.op = 5 then none
        else if (m.op = 0 ∨ m.op = 2) ∧ (s.core core).hold.any (fun h => h.tile = m.d) = true then none
        else if m.op = 3 ∧ (s.core core).hold.any (fun h => m.mod.getLsbD 8 && m.mod.getLsbD h.tile) = true then none
        else (s.core core).hold)) ∧
  (∀ (s : State) (core : Nat) (m : Matrix) (rest : List Matrix), Running s core m rest →
    m.op = 0 ∨ m.op = 2 ∨ m.op = 3 ∨ m.op = 6 → m.snap = [] →
    ∃ t, exec (.matrixInstructionComplete core) s = .next t ∧
      (t.core core).matrix = rest ∧ (t.group m.gid).unfenced = (s.group m.gid).unfenced.filter (fun u => u.1 ≠ m.id) ∧
      (t.wg m.wg).sp = (s.wg m.wg).sp ∧ t.mem = s.mem ∧
      (∀ k i, i < 16384 → (t.wg m.wg).tiles.get 0 (k * 16384 + i) =
        if m.op = 0 ∧ k = m.d then (s.wg m.wg).spByte (m.a + i)
        else if m.op = 2 ∧ k = m.d then
          (if m.mod.getLsbD 0 then (s.wg m.wg).tile m.a (i % 128) (i / 128) else (s.wg m.wg).tile m.a (i / 128) (i % 128))
        else if m.op = 3 ∧ m.mod.getLsbD 8 = true ∧ m.mod.getLsbD k = true then 0
        else (s.wg m.wg).tiles.get 0 (k * 16384 + i)) ∧
      (∀ k i, k < 4 → i < 16384 → (t.wg m.wg).accs.get 0 (k * 16384 + i) =
        if m.op = 6 ∧ k = m.d then
          (s.wg m.wg).spByte (m.a + 4 * i + 3) ++ (s.wg m.wg).spByte (m.a + 4 * i + 2) ++
            (s.wg m.wg).spByte (m.a + 4 * i + 1) ++ (s.wg m.wg).spByte (m.a + 4 * i)
        else if m.op = 3 ∧ m.mod.getLsbD 8 = false ∧ m.mod.getLsbD k = true then 0
        else (s.wg m.wg).accs.get 0 (k * 16384 + i)))

/-- R203 and R305: MATRIX_INSTRUCTION_COMPLETE of TST and MSTA writes the whole tile or accumulator to the scratchpad,
with full words, and nothing else of it. -/
def Sys2Proof.Machine.Rules.TileStoresComplete : Prop :=
  ∀ (s : State) (core : Nat) (m : Matrix) (rest : List Matrix), Running s core m rest → m.op = 1 ∨ m.op = 7 →
    m.row = 0 → m.mod.getLsbD 0 = false → m.a % 128 = 0 →
    let n := if m.op = 1 then 16384 else 65536
    ∃ t, exec (.matrixInstructionComplete core) s = .next t ∧ (t.core core).matrix = rest ∧
      (t.wg m.wg).tiles = (s.wg m.wg).tiles ∧ (t.wg m.wg).accs = (s.wg m.wg).accs ∧
      (m.op = 1 → ∀ j, j < 16384 → (t.wg m.wg).spByte (m.a + j) = (s.wg m.wg).tiles.get 0 (m.d * 16384 + j)) ∧
      (m.op = 7 → ∀ j, j < 16384 → (t.wg m.wg).sp.get 0 (m.a / 4 + j) = (s.wg m.wg).accs.get 0 (m.d * 16384 + j)) ∧
      ∀ w, if m.a / 4 ≤ w ∧ w < (m.a + n) / 4 then (t.wg m.wg).isFull w = true
        else (t.wg m.wg).isFull w = (s.wg m.wg).isFull w ∧ (t.wg m.wg).sp.get 0 w = (s.wg m.wg).sp.get 0 w

/-- TileInstructionsComplete and TileStoresComplete (above), together. -/
def Obligations.TilesAreMovedAndStored : Prop :=
  TileInstructionsComplete ∧ TileStoresComplete

/-- R111: With INT4 or INT8 elements, each accumulator element holds an INT32. The instruction adds every product to it
exactly, modulo 2^32. OF is raised when the INT32 result differs from the exact sum. For an MMA as it completes, and for
the elements outside its M × N region, which keep their bits (R199). -/
def Sys2Proof.Machine.Rules.IntegerMmaIsExact : Prop :=
  ∀ (s : State) (core : Nat) (x : Matrix) (rest : List Matrix), Running s core x rest → x.op = 4 →
    x.kind = 1 ∨ x.kind = 6 → x.snap = [] → x.pass = 0 → x.wraps = [] → 1 ≤ x.depth → 1 ≤ x.rowsM → x.rowsM ≤ 128 → 1 ≤ x.colsN → x.colsN ≤ 128 →
    let old := fun m n : Nat => if x.clr then 0#32 else (s.wg x.wg).acc x.d m n
    let sum := fun m n : Nat => (old m n).toInt + dotExact (s.wg x.wg) x m n
    ∃ t f, exec (.matrixInstructionComplete core) s = .next t ∧ (t.core core).matrix = rest ∧
      (∀ k m n, m < 128 → n < 128 → (t.wg x.wg).acc k m n =
        if k = x.d ∧ m < x.rowsM ∧ n < x.colsN then BitVec.ofInt 32 (sum m n) else (s.wg x.wg).acc k m n) ∧
      (t.wg x.wg).tiles = (s.wg x.wg).tiles ∧ (t.wg x.wg).sp = (s.wg x.wg).sp ∧
      flagsKept s t x.gid x.id 1 (x.flags ||| f) ∧ (f = flOF ∨ f = 0) ∧
      (f = flOF ↔ ∃ m n, m < x.rowsM ∧ n < x.colsN ∧ (BitVec.ofInt 32 (sum m n)).toInt ≠ sum m n)

/-- R202: MLOOP_STEP of an MLOOP whose words are full performs its next step: the step is counted, the words it waited for
are empty, and nothing of the accumulator outside M × N changes. Of integer elements each takes the products of the step's
slot, modulo 2^32 (R111). -/
def Sys2Proof.Machine.Rules.MloopStepCounts : Prop :=
  ∀ (s : State) (core : Nat) (m : Matrix) (rest : List Matrix), Running s core m rest → m.op = 5 → m.step < m.steps →
    m.stepReady (s.wg m.wg) = true → m.phase ≤ 2 → m.rowsM ≤ 128 → m.colsN ≤ 128 →
    ∃ t f z r, exec (.mloopStep core) s = .next t ∧
      (t.core core).matrix = { m with
        step := m.step + 1, phase := 0, pass := 0, ready := r, wraps := z, full := if m.phase = 2 then m.full else none,
        snap := m.ahead, ahead := [], flags := m.flags ||| f } :: rest ∧
      (m.kind = 1 ∨ m.kind = 6 → f = 0) ∧
      (m.kind = 1 ∨ m.kind = 6 → m.pass = 0 → m.snap = [] → 1 ≤ m.depth →
        ∀ r c, r < m.rowsM → c < m.colsN → (t.wg m.wg).acc m.d r c = BitVec.ofInt 32
          ((if m.clr = true ∧ m.step = 0 then 0#32 else (s.wg m.wg).acc m.d r c).toInt + dotExact (s.wg m.wg) m r c)) ∧
      t = { s with cores := t.cores, wgs := t.wgs } ∧ (∀ k, k ≠ m.wg → t.wg k = s.wg k) ∧
      (t.wg m.wg).tiles = (s.wg m.wg).tiles ∧ (t.wg m.wg).sp = (s.wg m.wg).sp ∧
      (∀ w, (t.wg m.wg).isFull w = if (m.regions m.step).any (fun r => r.waits && r.words.contains w) then false
        else (s.wg m.wg).isFull w) ∧
      ∀ k r c, r < 128 → c < 128 → ¬ (k = m.d ∧ r < m.rowsM ∧ c < m.colsN) →
        (t.wg m.wg).acc k r c = (s.wg m.wg).acc k r c

/-- MatrixInstructionsIssue, IntegerMmaIsExact and MloopStepCounts (above), together. -/
def Obligations.MatrixIssueAndArithmetic : Prop :=
  MatrixInstructionsIssue ∧ IntegerMmaIsExact ∧ MloopStepCounts

/-- R233 to R235, R238, R243 and R244: each near-memory command whose operands pass its checks is in flight, with its
address, control values and destination. -/
def Sys2Proof.Machine.Rules.NearCommandsIssue : Prop :=
  ∀ (i : Instr) (s : State) (gid sid : Nat) (e : Enc), encOf i = some e → Quiet s gid sid → Legal s gid sid e →
    s.permitted gid = true → (s.core (coreOf gid)).near.length < 64 →
    let a := s.source gid e .int true e.x.a 0
    let n := s.source gid e .int true e.x.b 0
    let c := fun k => (List.range k).map (fun j => (s.group gid).gReg (e.x.b.idx.toNat + j))
    let passes := fun (check : State → Run → Chk) => ∀ r : Run, r.gid = gid → r.g = s.calm gid → r.lit = e.x.lit →
      r.active = ((s.group gid).split sid).mask → check (s.calmed gid) r = .ok
    (e.xop = 0x340 ∨ e.xop = 0x341 → passes (nmdotCheck e.x) → Takes i s gid sid e (fun b t => ∃ x,
      NearStarted b t gid sid e x ∧ x.addr = a ∧ x.ctl = c 4 ∧
      x.target = if e.x.d.cls = .v then resultOf s gid e false else .none)) ∧
    (e.xop = 0x342 → passes (nmlutCheck e.x) → Takes i s gid sid e (fun b t => ∃ x,
      NearStarted b t gid sid e x ∧ x.addr = a ∧ x.ctl = c 3 ∧ x.target = resultOf s gid e false)) ∧
    (e.xop = 0x343 → a % 4 = 0 → n % 4 = 0 → 4 ≤ n → n ≤ 2 ^ 24 → passes (regionCheck e.x 4 0) →
      Takes i s gid sid e (fun b t => ∃ x,
        NearStarted b t gid sid e x ∧ x.addr = a ∧ x.len = n ∧ x.target = resultOf s gid e false)) ∧
    (e.xop = 0x344 → a % 32 = 0 → n % 32 = 0 → 32 ≤ n → n ≤ 2 ^ 24 → passes (regionCheck e.x 32 1) →
      Takes i s gid sid e (fun b t => ∃ x,
        NearStarted b t gid sid e x ∧ x.addr = a ∧ x.len = n ∧ x.target = .none ∧
        x.ctl = [(s.group gid).gReg e.x.d.idx.toNat])) ∧
    (e.xop = 0x343 → a % 4 ≠ 0 → exec i s = .next ((s.calmed gid).raise gid
      ⟨0x03, sid, ((s.group gid).split sid).pc, ((s.group gid).split sid).mask, BitVec.ofNat 64 a, 2,
        ((s.group gid).split sid).pc⟩))

/-- R235, R243 and R244: NM_COMMAND_FORWARD sends an NMRED or NMFILL, whose earlier accesses and engine operations are
performed, to its stack; the next sector
of a forwarded NMFILL is written whole with the value repeated, is poisoned no more, and no other sector of DRAM
changes; NM_COMMAND_COMPLETE of a finished command without a destination takes it off the core, its batch one less; that of
an NMRED with a g destination writes the value, 0 or poison after a failing sector, or nothing when it stopped, and leaves
the deferred trap, whose lanes after a stop are the active ones by the model's choice (DEDUCED, log 44; R236). -/
def Sys2Proof.Machine.Rules.NearCommandsRun : Prop :=
  (∀ (s : State) (core k : Nat) (n : Near), (s.core core).near[k]? = some n → n.op = 3 ∨ n.op = 4 → n.forwarded = false →
    (∀ a ∈ (s.group n.gid).accs, a.id ∉ n.after) → (∀ j ∈ n.after, s.opRunning n.gid j = false) →
    s.mayWork n.ctx (768 + n.stack) = true →
    ∃ t, exec (.nmCommandForward core k) s = .next t ∧
      (t.core core).near = (s.core core).near.set k
        { n with forwarded := true, stack := s.stackFor n.ctx n.super n.addr } ∧ t.groups = s.groups ∧
      t.cacheWait = s.cacheWait) ∧
  (∀ (s : State) (core k : Nat) (n : Near) (rest : List Turn) (pa : Nat), s.turns = .near core k :: rest →
    s.booted = true → s.power.state = .run → (s.core core).near[k]? = some n → n.op = 4 → n.forwarded = true →
    n.finished = false → s.mayWork n.ctx (768 + n.stack) = true →
    s.bankPlace n.ctx n.super 1 n.stack (n.addr + 32 * n.step) = .at pa → s.mem.wf = true →
    let v := n.ctl.getD 0 0
    ∃ t, step s = .next t ∧
      (t.core core).near[k]? = some { n with step := n.step + 1 } ∧
      dramSector t.mem (s.dram pa / 32) = v ++ v ++ v ++ v ∧
      (∀ j, j ≠ s.dram pa / 32 → dramSector t.mem j = dramSector s.mem j) ∧
      s.dram pa / 32 ∉ t.poison ∧ t.slice.look (pa / 32) = none ∧ t.groups = s.groups) ∧
  (∀ (s : State) (core k : Nat) (n : Near), (s.core core).near[k]? = some n → n.finished = true → n.target = .none →
    n.bad = none → n.readBad = none → n.stop = none → s.mayWork n.ctx (768 + n.stack) = true →
    ∃ t, exec (.nmCommandComplete core k) s = .next t ∧
      (t.core core).near = (s.core core).near.eraseIdx k ∧
      (t.group n.gid).unfenced = (s.group n.gid).unfenced.filter (fun u => u.1 ≠ n.id) ∧
      (∀ b ∈ (t.group n.gid).batches, n.id ∉ b.ops) ∧ (t.group n.gid).deferred = (s.group n.gid).deferred ∧
      flagsKept s t n.gid n.id 2 n.flags ∧
      t.mem = s.mem ∧ ∀ j, j ≠ n.gid → t.group j = s.group j) ∧
  (∀ (s : State) (core k j : Nat) (n : Near), (s.core core).near[k]? = some n → n.finished = true → n.op = 3 →
    n.target = .g j → j < 64 → n.early = false → n.readBad = none → s.mayWork n.ctx (768 + n.stack) = true →
    (∀ r ∈ (s.group n.gid).replies, r.id ≠ n.id) →
    let trap (d : Deferred) : Prop := d.op = n.id ∧ d.engine = some 2 ∧ d.target = .g j ∧ d.red = none
    ∃ t, exec (.nmCommandComplete core k) s = .next t ∧
      (t.core core).near = (s.core core).near.eraseIdx k ∧
      (t.group n.gid).unfenced = (s.group n.gid).unfenced.filter (fun u => u.1 ≠ n.id) ∧
      (t.group n.gid).pending = (s.group n.gid).pending.filter (fun u => u.1 ≠ n.id) ∧
      (t.group n.gid).replies = (s.group n.gid).replies ∧ t.mem = s.mem ∧
      (∀ i, i ≠ j → (t.group n.gid).gReg i = (s.group n.gid).gReg i) ∧
      (n.stop = none → n.bad = none → (t.group n.gid).gReg j = (n.acc.getD 0).setWidth 64 ∧
        (t.group n.gid).deferred = (s.group n.gid).deferred) ∧
      (∀ a, n.stop = some a → n.bad = none → (t.group n.gid).gReg j = (s.group n.gid).gReg j ∧ ∃ d, trap d ∧
        (t.group n.gid).deferred = (s.group n.gid).deferred ++ [d] ∧ d.cause = 0x03 ∧ d.lanes = n.actives ∧
        d.addr = BitVec.ofNat 64 a ∧ d.info = 7) ∧
      (∀ m a new i, n.stop = none → n.bad = some (m, a, new, i) →
        (t.group n.gid).gReg j = (if n.mod.toNat / 32 = 8 then 0x7FC0_0BAD else 0) ∧ ∃ d, trap d ∧
        (t.group n.gid).deferred = (s.group n.gid).deferred ++ [d] ∧ d.cause = (if new then 0x10 else 0x11) ∧
        d.lanes = n.actives ∧ d.addr = BitVec.ofNat 64 a ∧ d.info = BitVec.ofNat 64 (2 + 256 * n.regIdx)))

/-- NearCommandsIssue and NearCommandsRun (above), together. -/
def Obligations.NearCommands : Prop :=
  NearCommandsIssue ∧ NearCommandsRun

/-- R106 to R108, R197, R199 and R202: what an unscaled floating-point MMA as it completes, and the next step of an unscaled
floating-point MLOOP, make of the accumulator, their elements being finite: each block's exact sum is rounded to binary32
once and added with one more rounding. -/
def Sys2Proof.Machine.Rules.FloatMatrixSums : Prop :=
  (∀ (s : State) (core : Nat) (x : Matrix) (rest : List Matrix), Running s core x rest → x.op = 4 →
    FiniteOperands (s.wg x.wg) x → x.snap = [] → x.pass = 0 → 1 ≤ x.depth → 1 ≤ x.rowsM → x.rowsM ≤ 128 → 1 ≤ x.colsN → x.colsN ≤ 128 →
    ∃ t, exec (.matrixInstructionComplete core) s = .next t ∧ (t.core core).matrix = rest ∧
      (∀ m n, m < x.rowsM → n < x.colsN → MmaElement (s.wg x.wg) x m n
        (if x.clr then 0 else ((s.wg x.wg).acc x.d m n).toNat) ((t.wg x.wg).acc x.d m n).toNat) ∧
      (∀ k m n, m < 128 → n < 128 → ¬ (k = x.d ∧ m < x.rowsM ∧ n < x.colsN) → (t.wg x.wg).acc k m n = (s.wg x.wg).acc k m n) ∧
      (t.wg x.wg).tiles = (s.wg x.wg).tiles ∧ (t.wg x.wg).sp = (s.wg x.wg).sp) ∧
  (∀ (s : State) (core : Nat) (x : Matrix) (rest : List Matrix), Running s core x rest → x.op = 5 → x.step < x.steps →
    x.stepReady (s.wg x.wg) = true → x.phase ≤ 2 → FiniteOperands (s.wg x.wg) x → x.snap = [] → x.pass = 0 → 1 ≤ x.depth →
    x.rowsM ≤ 128 → x.colsN ≤ 128 →
    ∃ t, exec (.mloopStep core) s = .next t ∧ ∀ m n, m < x.rowsM → n < x.colsN → MmaElement (s.wg x.wg) x m n
      (if x.clr = true ∧ x.step = 0 then 0 else ((s.wg x.wg).acc x.d m n).toNat) ((t.wg x.wg).acc x.d m n).toNat)

/-- R204: MATRIX_INSTRUCTION_COMPLETE of an MCVT of binary32 elements, without .sat or .fe, all of them and the scale finite:
each element of the result is the exact product rounded once into the destination type, in its place in the scratchpad. -/
def Sys2Proof.Machine.Rules.AccumulatorsAreConverted : Prop :=
  ∀ (s : State) (core : Nat) (m : Matrix) (rest : List Matrix), Running s core m rest → m.op = 8 → m.row = 0 →
    m.mod.getLsbD 0 = false → m.mod.getLsbD 1 = false → m.sat = false → m.a % 128 = 0 →
    let ty := m.mod.toNat / 32
    let n := (1 + ebOf ty + mbOf ty) / 8
    ty = 8 ∨ ty = 9 ∨ ty = 10 ∨ ty = 11 ∨ ty = 12 → finite 8 (m.b.toNat % 2 ^ 32) →
    (∀ i j, i < 128 → j < 128 → finite 8 ((s.wg m.wg).acc m.d i j).toNat) →
    ∃ t, exec (.matrixInstructionComplete core) s = .next t ∧ (t.core core).matrix = rest ∧
      (t.wg m.wg).tiles = (s.wg m.wg).tiles ∧ (t.wg m.wg).accs = (s.wg m.wg).accs ∧
      ∀ i j, i < 128 → j < 128 →
        Rounded ty 0 (valOf 8 ((s.wg m.wg).acc m.d i j).toNat * valOf 8 (m.b.toNat % 2 ^ 32)) (2 ^ (298 - unitOf ty))
          (leAt ((List.range n).map (fun k => (t.wg m.wg).spByte (m.a + n * (128 * i + j) + k))) 0 n)

/-- R240, R242 and R243: the value of the next result of a near-memory command whose operands hold no failing sector. NMDOT
and NMDIST of integers sum exactly; of finite floating-point elements they round once a step; a row of NMLUT sums its rounded
table entries; NMRED joins the next sector's elements in ascending order. A result for a register waits in its lane, one for
memory for the rest of its sector. -/
def Sys2Proof.Machine.Rules.NearValuesAreComputed : Prop :=
  (∀ (s u : State) (core k : Nat) (n : Near) (bs : List Byte), NearTurn s core k n → n.op = 0 ∨ n.op = 1 →
    let i := n.step
    let c (j : Nat) : Nat := (n.ctl.getD j 0).toNat
    let len := 64 * (c 1 % 32 + 1)
    let ty := n.mod.toNat / 32
    let ip := n.op = 1 ∧ n.mod.getLsbD 1 = true
    let l2 : Bool := n.op = 1 && !n.mod.getLsbD 1
    let q := (n.query.drop (i * (c 1 / 2 ^ 32 % 2 ^ 16))).take len
    let toLane := n.target ≠ .none ∧ i < 32 ∧ Mask.has n.lanes i = true
    let base := c 3
    n.mod.getLsbD 2 = false → (turned s).bank n.ctx n.super n.stack ((n.addr + i * c 0) % 2 ^ 64) len = (u, .ok (bs.map (·, false)) none) →
    bs.length = len → q.length = len → (∀ y ∈ q, y.2 = false) →
    toLane ∨ (n.target = .none ∧ (base + 4 * (i + 1)) % 32 ≠ 0 ∧ i + 1 < n.total) →
    ty = 0 ∨ ty = 9 ∨ ty = 11 →
    ∃ t v f, step s = .next t ∧
      (t.core core).near[k]? = some { n with step := i + 1, got := n.got ++ [(i, (v : Word).setWidth 64)], flags := n.flags ||| f } ∧
      let b := q.map (·.1)
      (ty = 0 → f = 0 ∧ v = BitVec.ofInt 32 (
        let p := pairsOf 1 bs b
        let z (x : Nat) : Int := num true 8 x
        if l2 then (p.map (fun e => (z e.1 - z e.2) * (z e.1 - z e.2))).sum
        else if ip then -(p.map (fun e => z e.1 * z e.2)).sum else (p.map (fun e => z e.1 * z e.2)).sum)) ∧
      (ty ≠ 0 → (∀ e ∈ pairsOf (if ty = 9 then 2 else 1) bs b, finite ty e.1 ∧ finite ty e.2) →
        ∃ r, DotChain ty l2 (pairsOf (if ty = 9 then 2 else 1) bs b) 0 r ∧
          (finite 8 r → v.toNat = if ip then r ^^^ 2 ^ 31 else r))) ∧
  (∀ (s u : State) (core k : Nat) (n : Near) (bs : List Byte), NearTurn s core k n → n.op = 2 → n.early = false →
    let r := n.step
    let h := n.header
    let base := (n.ctl.getD 1 0).toNat
    let cols := leAt h 12 2
    let code (j : Nat) : Nat := leAt h (32 + 2 * (leAt bs (j / 2) 1 / 16 ^ (j % 2) % 16)) 2
    let act (j : Nat) : Nat := leAt (n.query.map (·.1)) (2 * j) 2
    let entries := (List.range (16 * cols)).map (fun j => (code j, act j))
    h.length = 64 → (turned s).bank n.ctx n.super n.stack (n.addr + leAt h 16 8 + r * leAt h 24 4) (8 * cols) = (u, .ok (bs.map (·, false)) none) →
    bs.length = 8 * cols → n.query.length = 32 * cols → (∀ y ∈ n.query, y.2 = false) →
    (base + 4 * (r + 1)) % 32 ≠ 0 → r + 1 < n.total → (∀ e ∈ entries, finite 9 e.1 ∧ finite 9 e.2) →
    ∃ t v f, step s = .next t ∧
      (t.core core).near[k]? = some { n with step := r + 1, got := n.got ++ [(r, (v : Word).setWidth 64)], flags := n.flags ||| f } ∧
      LutChain entries 0 v.toNat) ∧
  (∀ (s u : State) (core k : Nat) (n : Near) (bs : List Byte), NearTurn s core k n → n.op = 3 → n.bad = none →
    let first := max n.addr ((n.addr / 32 + n.step) * 32)
    let last := min (n.addr + n.len) ((n.addr / 32 + n.step + 1) * 32)
    let ty := n.mod.toNat / 32
    (turned s).bank n.ctx n.super n.stack first (last - first) = (u, .ok (bs.map (·, false)) none) → bs.length = last - first →
    ty = 2 ∨ ty = 6 ∨ ty = 8 → n.mod.toNat % 4 < 3 →
    ∃ t f a, step s = .next t ∧
      (t.core core).near[k]? = some { n with step := n.step + 1, acc := a, flags := n.flags ||| f } ∧
      (ty ≠ 8 → f = 0) ∧
      RedChain ty (n.mod.toNat % 4) ((List.range (bs.length / 4)).map (fun i => leAt bs (4 * i) 4)) (n.acc.map (·.toNat)) (a.map (·.toNat)))

/-- FloatMatrixSums, AccumulatorsAreConverted and NearValuesAreComputed (above), together. -/
def Obligations.MatrixAndNearValues : Prop :=
  FloatMatrixSums ∧ AccumulatorsAreConverted ∧ NearValuesAreComputed

/-! ### Searches and walkers (R245 to R252, R331, R332, R346, R347) -/

namespace Sys2Proof.Machine.Rules

/-- The rules of R247 that a descriptor alone can break. -/
abbrev refusedDescriptor (d : List Byte) : Prop :=
  let f := field d
  f 327 320 = 0 ∨ 128 < f 327 320 ∨ f 343 336 = 0 ∨ 64 < f 343 336 ∨ f 383 352 = 0 ∨
  f 63 0 % 64 ≠ 0 ∨ f 127 64 % 64 ≠ 0 ∨ f 191 128 % 8 ≠ 0 ∨ f 255 192 % 32 ≠ 0 ∨ f 447 384 % 4 ≠ 0 ∨
  f 351 344 ≠ 0 ∨ f 335 328 ≠ 0

/-- The code of R220 with which a search ends (R248). -/
def searchStatus (q : Search) : Nat :=
  if q.fault then 4 else if q.cancelled then 1 else if q.limited then 3 else 0

/-- The result record of an admitted search (R248). -/
def resultRecord (q : Search) : List Byte :=
  toBytes 8 (searchStatus q + 256 * q.heap.length + (if q.poison then 65536 else 0) + 2 ^ 32 * min q.hops (2 ^ 32 - 1)) ++
  (List.range (field q.desc 327 320)).flatMap (fun j =>
    if h : j < q.heap.length then toBytes 8 (q.heap[j].1.toNat + 2 ^ 32 * q.heap[j].2.toNat) else List.replicate 8 0xFF)

/-- A walker is to execute an instruction of its profile, and its guard holds (R39, R81, R250). -/
structure Strides (s : State) (id : Nat) (e : Enc) : Prop where
  who : s.who = .walker id
  profile : e.wok = true
  guard : (e.x.gp = 0 ∨ (s.walker id).p.getLsbD e.x.gp.toNat = true) ↔ e.x.gn = false

/-- The walker past its instruction, before the effect. -/
def pace (s : State) (id : Nat) (e : Enc) : Walker :=
  { s.walker id with pc := (s.walker id).pc + BitVec.ofNat 64 e.size }
/-- The state then, with the stack's count of walker instructions (R383). -/
def strode (s : State) (id : Nat) (e : Enc) : State :=
  { s.setWalker id (pace s id e) with
    baseDie := s.baseDie.set 0 (8 * (s.walker id).stack + 5) (s.baseDie.get 0 (8 * (s.walker id).stack + 5) + 1) }

/-- A 64-bit source of a walker instruction. -/
def walkerRead (s : State) (id : Nat) (e : Enc) (f : Src) : Nat := walkSrc (s.walker id) e.x.lit .int true f

/-- The predicates of a walker with one written; index 0 discards (R45). -/
def predsAfter (p : BitVec 8) (i : Nat) (b : Bool) (j : Nat) : Bool := if j = i ∧ i ≠ 0 then b else p.getLsbD j

/-- n bytes of DRAM at a physical address. -/
def dramBytes (s : State) (pa n : Nat) : List Byte := (List.range n).map (fun j => s.mem.byte (s.dram pa + j))

/-- Version, and the slot of a node record that WNODE picks (R251). -/
def slotVersion (b : List Byte) : Nat := field b 31 0
def pickSlot (rec' : List Byte) (snap : Nat) : Option (List Byte) :=
  ([rec'.take 32, rec'.drop 32].filter (fun b => slotVersion b ≤ snap)).foldl (fun best b =>
    match best with
    | none => some b
    | some y => if slotVersion y < slotVersion b then some b else best) none

/-- The exact distance of two INT8 vectors (R240): squared, or the inner product negated. -/
def exactDistance (ip : Bool) (n : Nat) (a b : List Byte) : Int :=
  (List.range n).foldl (fun z j =>
    let x := (a.getD j 0).toInt
    let y := (b.getD j 0).toInt
    if ip then z - x * y else z + (x - y) * (x - y)) 0

/-- A heap entry ranks before another (R252). -/
def ranks (a b : Word × Word) : Bool := a.1.toInt < b.1.toInt || (a.1.toInt = b.1.toInt && a.2.toNat < b.2.toNat)

/-- A heap after an offer: the K first of its entries and the new one, in order (R251, R252). -/
def offered (h : List (Word × Word)) (k : Nat) (e : Word × Word) : List (Word × Word) :=
  (h.filter (fun x => ranks x e) ++ e :: h.filter (fun x => !ranks x e)).take k
/-- Whether the entry entered. -/
def enters (h : List (Word × Word)) (k : Nat) (e : Word × Word) : Bool :=
  h.length < k || (match h.getLast? with | some l => ranks e l | none => false)
/-- The current K-th key (R252). -/
def kthKey (h : List (Word × Word)) (k : Nat) : DWord :=
  if h.length < k then 0x7FFF_FFFF else match h.getLast? with | some l => l.1.signExtend 64 | none => 0x7FFF_FFFF

/-- A walker at its stop (R252, R332): it takes the engine with the most free contexts, the lowest on a tie, or is held. -/
def SeatedOrHeld (s t : State) (w goal : Nat) : Prop :=
  ((∃ j, j < 4 ∧ s.contexts goal j < 64) → t.stops = [] ∧ (t.walker w).travel = false ∧
    let x := (t.walker w).engine
    x < 4 ∧ ∀ j, j < 4 → s.contexts goal x ≤ s.contexts goal j ∧ (j < x → s.contexts goal x < s.contexts goal j)) ∧
  ((∀ j, j < 4 → 64 ≤ s.contexts goal j) → (t.walker w).travel = true ∧ t.stops.map Msg.walker = [w])

/-- A heap in order, within K entries. -/
structure Heap (q : Search) : Prop where
  sorted : q.heap.Pairwise (fun a b => ranks a b = true ∨ a = b)
  size : q.heap.length ≤ q.k ∧ 1 ≤ q.k

/-- Where a node's visited bit lies: its owning stack has a slot, and the byte is in plain, unpoisoned DRAM. -/
structure VisitedAt (s : State) (q : Search) (node pa : Nat) : Prop where
  listed : node / 2 ^ 29 ∈ q.stacks ∧ node % 2 ^ 29 / 8 < q.vbytes
  slot : ∃ v, q.slots.find? (fun e => e.1 = node / 2 ^ 29) = some (node / 2 ^ 29, v) ∧
    s.bankPlace q.ctx false 1 (node / 2 ^ 29) (q.slotVa (node / 2 ^ 29) v + node % 2 ^ 29 / 8) = .at pa
  clean : s.ecc = [] ∧ s.dram pa / 32 ∉ s.poison

/-- The bit set: every other bit of DRAM stays. -/
def visitedSet (s t : State) (node pa : Nat) : Prop :=
  ∀ a, t.mem.byte a = if a = s.dram pa then s.mem.byte a ||| (1#8 <<< (node % 8)) else s.mem.byte a

end Sys2Proof.Machine.Rules

/-- R245, R247, R248 and R249: SEARCH joins the open batch of engine S with its descriptor's address and D scoreboarded;
SCANCEL ends the walkers of the search its handle names and drops their messages; SEARCH_ADMISSION refuses a
descriptor that breaks a rule, answering handle 0, and admits a search whose resources are free, no page of its visited
slots in migration, with one walker on the entry node's stack; SEARCH_END writes the record of an admitted search whose walkers have ended, makes its arrival, and
unregisters it (without mirrors of indexes). -/
def Obligations.SearchesStartAndEnd : Prop :=
  (∀ (i : Instr) (s : State) (gid sid : Nat) (e : Enc), encOf i = some e → Quiet s gid sid → Legal s gid sid e →
    let a := s.source gid e .int true e.x.a 0
    let h : Word := BitVec.ofNat 32 (s.source gid e .int true e.x.b 0)
    let mine := s.searches.filter (fun x => x.2.ctx = (s.group gid).ctx && x.2.handle = h)
    (e.xop = 0x345 → s.permitted gid = true → a % 64 = 0 →
      (∀ r : Run, r.gid = gid → r.active = ((s.group gid).split sid).mask →
        (s.calmed gid).rangesChk r 0 [(0, a, 64)] = .ok) → Takes i s gid sid e (fun b t =>
      t = { b.spent gid with groups := t.groups, searches := t.searches, ids := b.ids + 1 } ∧
      (∀ k, k ≠ gid → t.group k = b.group k) ∧
      t.group gid = { b.group gid with
        unfenced := (b.group gid).unfenced ++ [(b.ids, 3)],
        ops := (b.group gid).ops ++ [{ id := b.ids, po := 1#4 <<< sid }],
        pending := (b.group gid).pending ++
          (if resultOf s gid e false = .none then [] else [(b.ids, resultOf s gid e false, sid)]) } ∧
      (∀ k, k ≠ b.ids → t.search k = s.search k) ∧
      (t.search b.ids).addr = a ∧ (t.search b.ids).id = b.ids ∧ (t.search b.ids).ctx = (s.group gid).ctx ∧
      (t.search b.ids).stream = e.x.stream ∧ (t.search b.ids).gid = gid ∧ (t.search b.ids).core = coreOf gid ∧
      (t.search b.ids).read = false ∧ (t.search b.ids).admitted = false ∧
      (t.search b.ids).target = resultOf s gid e false)) ∧
    (e.xop = 0x346 → s.permitted gid = true → h = 0 ∨ mine = [] → Takes i s gid sid e (fun b t => t = b.spent gid)) ∧
    (e.xop = 0x346 → s.permitted gid = true → ∀ k q, h ≠ 0 → mine = [(k, q)] → s.search k = q → s.stops = [] → Takes i s gid sid e (fun b t =>
      t = { b.spent gid with searches := t.searches, walkers := t.walkers, msgs := t.msgs } ∧
      t.search k = { q with cancelled := true, walkers := 0 } ∧ (∀ j, j ≠ k → t.search j = s.search j) ∧
      (∀ w ∈ t.walkers, w.2.search ≠ k) ∧ (∀ w ∈ s.walkers, w.2.search ≠ k → w ∈ t.walkers) ∧
      ∀ m ∈ t.msgs, s.hasWalker m.walker = true → (s.walker m.walker).search ≠ k))) ∧
  (∀ (s : State) (k : Nat) (q : Search), s.searches.look k = some q → s.walkersWork q.ctx = true → q.refused = false →
    q.cancelled = false → q.admitted = false →
    (q.read = false → (∀ a ∈ (s.group q.gid).accs, a.id ∉ q.after) → (∀ j ∈ q.after, s.opRunning q.gid j = false) →
      q.handle = 0 →
      ∀ u d, s.searchGet q q.addr 64 = (u, .ok d, none) → refusedDescriptor (d.map (·.1)) →
      ∃ t, exec (.searchAdmission k) s = .next t ∧ (t.search k).refused = true ∧ (t.search k).read = true ∧
        (t.group q.gid).replies = (u.group q.gid).replies ++ [{ id := q.id, target := q.target, vals := [(0, 0)] }]) ∧
    (q.read = true → ∀ u slots, s.searchFits q = some (u, slots) → s.slotsStill q slots = true →
      (∀ st ∈ q.stacks, s.cacheFree q.id st 1 = true) →
      ∃ t, exec (.searchAdmission k) s = .next t ∧
        t.search k = { q with admitted := true, heapUnit := u, slots := slots, walkers := 1 } ∧
        t.admissions.get 0 q.home = s.admissions.get 0 q.home + 1 ∧
        (t.walker s.ids).search = k ∧ (t.walker s.ids).stack = field q.desc 319 288 / 2 ^ 29 ∧
        (t.walker s.ids).pc = BitVec.ofNat 64 (field q.desc 447 384) ∧ (t.walker s.ids).p = 0 ∧
        (t.walker s.ids).travel = false ∧ (t.walker s.ids).waiting = false ∧
        ∀ r, (t.walker s.ids).w.get 0 r = if r = 0 then BitVec.ofNat 64 (field q.desc 319 288)
          else if r = 1 then BitVec.ofNat 64 (field q.desc 511 448) else 0)) ∧
  (∀ (s u : State) (k : Nat) (q : Search), s.searches.look k = some q → (s.ctx q.ctx).halted = false → q.refused = false →
    q.read = true → q.admitted = true → q.walkers = 0 → q.result % 8 = 0 →
    s.putBytes (sectorsOf q.result (resultRecord q).length) { core := q.core, ctx := q.ctx, super := q.super, wg := 0 }
      ⟨0, q.result⟩ ((resultRecord q).map (fun b => (b, false))) = (u, .ok []) →
    (∀ c ∈ u.ctxs, ∀ j, j < 64 → (c.2.mirror j).1 = 0) →
    ∃ t, exec (.searchEnd k) s = .next t ∧ t.searches.look k = none ∧ t.mem = u.mem ∧
      (q.muster ≠ 0 → q.muster % 32 = 0 →
        ({ addr := BitVec.ofNat 64 q.muster, ctx := q.ctx, count := 1, status := searchStatus q } : Arrival) ∈ t.arrivals) ∧
      ∀ g ∈ t.groups, (∀ o ∈ g.2.unfenced, o.1 ≠ q.id) ∧ ∀ b ∈ g.2.batches, q.id ∉ b.ops)

/-- R251: WNODE picks the newest visible slot of a node record on its stack, WNBR reads a list's id, WDIST computes the
distance of a vector, from unpoisoned DRAM; WNBR of poison reads 0xFFFF_FFFF. Nothing but the walker's registers, its pc
and the stack's count changes. -/
def Sys2Proof.Machine.Rules.WalkersReadTheirStack : Prop :=
  ∀ (i : Instr) (s : State) (id : Nat) (e : Enc), encOf i = some e → Strides s id e → s.ecc = [] →
    let k := s.walker id
    let q := s.search k.search
    let d := e.x.d.idx.toNat
    let a := walkerRead s id e e.x.a
    let moved := fun (t : State) (w : Nat → DWord) =>
      t = { strode s id e with walkers := t.walkers } ∧ (∀ j, j ≠ id → t.walker j = s.walker j) ∧
      t.walker id = { pace s id e with w := (t.walker id).w } ∧ ∀ r, (t.walker id).w.get 0 r = w r
    let old := fun r => k.w.get 0 r
    (e.xop = 0x380 → d ≤ 13 → a % 2 ^ 32 = 0xFFFF_FFFF → ∃ t, exec i s = .next t ∧
      moved t (fun r => if d ≤ r ∧ r ≤ d + 2 then 0 else old r)) ∧
    (e.xop = 0x380 → d ≤ 13 → a % 2 ^ 32 ≠ 0xFFFF_FFFF → a % 2 ^ 32 / 2 ^ 29 = k.stack → q.nbase % 64 = 0 → ∀ pa,
      s.bankPlace q.ctx false 0 k.stack ((q.nbase + k.stack * 2 ^ 36 + 64 * (a % 2 ^ 29)) % 2 ^ 64) = .at pa → pa % 64 = 0 →
      s.dram pa / 32 ∉ s.poison → s.dram pa / 32 + 1 ∉ s.poison →
      ∃ t, exec i s = .next t ∧ moved t (fun r =>
        let f := fun hi lo => match pickSlot (dramBytes s pa 64) q.snap with | some b => field b hi lo | none => 0
        if r = d then BitVec.ofNat 64 (f 191 128) else if r = d + 1 then BitVec.ofNat 64 (f 127 64)
        else if r = d + 2 then BitVec.ofNat 64 (f 47 32 + 2 ^ 32 * f 31 0) else old r)) ∧
    (e.xop = 0x381 → a % 4 = 0 → ∀ pa,
      s.bankPlace q.ctx false 0 k.stack ((a + 4 * (walkerRead s id e e.x.b % 2 ^ 32)) % 2 ^ 64) = .at pa → pa % 4 = 0 →
      ∃ t, exec i s = .next t ∧ moved t (fun r => if r ≠ d then old r
        else if s.dram pa / 32 ∈ s.poison then 0xFFFF_FFFF else BitVec.ofNat 64 (ofBytes (dramBytes s pa 4)))) ∧
    (e.xop = 0x382 → a % 64 = 0 → a % 2048 + q.vecBytes ≤ 2048 → q.query.length = q.vecBytes → ∀ pa,
      s.bankPlace q.ctx false 0 k.stack a = .at pa → pa % 64 = 0 →
      (∀ j, j < q.vecBytes → (s.dram pa + j) / 32 ∉ s.poison) →
      ∃ t, exec i s = .next t ∧ moved t (fun r => if r ≠ d then old r
        else ((if q.ty = 0 then BitVec.ofInt 32 (exactDistance (q.metric = 1) q.vecBytes (dramBytes s pa q.vecBytes) q.query)
          else (nearValue true (q.metric = 1) q.tyCode (dramBytes s pa q.vecBytes) q.query).1) : Word).signExtend 64)) ∧
    (e.xop = 0x380 ∧ (13 < d ∨ (a % 2 ^ 32 ≠ 0xFFFF_FFFF ∧ a % 2 ^ 32 / 2 ^ 29 ≠ k.stack)) ∨ e.xop = 0x381 ∧ a % 4 ≠ 0 ∨
      e.xop = 0x382 ∧ (a % 64 ≠ 0 ∨ 2048 < a % 2048 + q.vecBytes) →
      ∃ t, exec i s = .next t ∧ (t.search k.search).fault = true ∧ (t.search k.search).walkers = 0)

/-- R251 and R252: WHEAP, WKTH and HEAP_OFFER apply an offer to the search's heap, which keeps the K first entries in
order, and give the K-th key and whether the entry entered; WVISIT and VISITED_REQUEST set a node's visited bit and give
the old one; from another stack a message goes over the ring (R346), the walker waits, and WALKER_REPLY_ARRIVAL lets it go on with the
reply in its registers. -/
def Sys2Proof.Machine.Rules.HeapAndVisitedBits : Prop :=
  (∀ (i : Instr) (s : State) (id : Nat) (e : Enc), encOf i = some e → Strides s id e →
    let k := s.walker id
    let q := s.search k.search
    let d := e.x.d.idx.toNat
    let pk := e.x.mod.toNat % 8
    let a := walkerRead s id e e.x.a
    let entry : Word × Word := (BitVec.ofNat 32 a, BitVec.ofNat 32 (walkerRead s id e e.x.b))
    let others := fun t : State => ∀ j, j ≠ id → t.walker j = s.walker j
    (e.xop = 0x383 → q.home = k.stack → Heap q → ∃ t, exec i s = .next t ∧ others t ∧
      t = { strode s id e with walkers := t.walkers, searches := t.searches } ∧
      t.search k.search = { q with heap := offered q.heap q.k entry } ∧ (∀ j, j ≠ k.search → t.search j = s.search j) ∧
      t.walker id = { pace s id e with w := (t.walker id).w, p := (t.walker id).p } ∧
      (∀ r, (t.walker id).w.get 0 r = if r = d then kthKey (offered q.heap q.k entry) q.k else k.w.get 0 r) ∧
      ∀ j, j < 8 → (t.walker id).p.getLsbD j = predsAfter k.p pk (enters q.heap q.k entry) j) ∧
    (e.xop = 0x384 → q.home = k.stack → ∃ t, exec i s = .next t ∧ others t ∧
      t = { strode s id e with walkers := t.walkers } ∧ t.walker id = { pace s id e with w := (t.walker id).w } ∧
      ∀ r, (t.walker id).w.get 0 r = if r = d then kthKey q.heap q.k else k.w.get 0 r) ∧
    (e.xop = 0x383 ∨ e.xop = 0x384 → q.home ≠ k.stack → ∃ t, exec i s = .next t ∧ others t ∧
      t = { strode s id e with
        walkers := t.walkers, ports := (s.ringSend (if e.xop = 0x383 then 2 else 1) k.stack q.home).ports,
        msgs := s.msgs ++ [.heap id (if e.xop = 0x383 then some entry else none) d (if e.xop = 0x383 then pk else 0)] } ∧
      t.walker id = { pace s id e with waiting := true }) ∧
    (e.xop = 0x385 → ∀ pa, VisitedAt s q (a % 2 ^ 32) pa → a % 2 ^ 32 / 2 ^ 29 = k.stack → ∃ t, exec i s = .next t ∧ others t ∧
      t = { strode s id e with walkers := t.walkers, mem := t.mem } ∧ visitedSet s t (a % 2 ^ 32) pa ∧
      t.walker id = { pace s id e with p := (t.walker id).p } ∧
      ∀ j, j < 8 → (t.walker id).p.getLsbD j = predsAfter k.p d ((s.mem.byte (s.dram pa)).getLsbD (a % 8)) j) ∧
    (e.xop = 0x385 → a % 2 ^ 32 / 2 ^ 29 ∈ q.stacks → a % 2 ^ 29 / 8 < q.vbytes → a % 2 ^ 32 / 2 ^ 29 ≠ k.stack →
      ∃ t, exec i s = .next t ∧ others t ∧
      t = { strode s id e with
        walkers := t.walkers, ports := (s.ringSend 1 k.stack (a % 2 ^ 32 / 2 ^ 29)).ports,
        msgs := s.msgs ++ [.visited id (BitVec.ofNat 32 a) d] } ∧
      t.walker id = { pace s id e with waiting := true })) ∧
  (∀ (s : State) (n w : Nat), s.walkersWork (s.search (s.walker w).search).ctx = true →
    let k := s.walker w
    let q := s.search k.search
    (∀ o wd pk, s.msgs[n]? = some (.heap w o wd pk) → Heap q → ∃ t, exec (.heapOffer n) s = .next t ∧
      let h := match o with | some x => offered q.heap q.k x | none => q.heap
      t = { s with
        searches := t.searches, ports := (s.ringSend 1 q.home k.stack).ports,
        msgs := s.msgs.eraseIdx n ++ [.reply w (some (wd, kthKey h q.k)) (o.map (fun x => (pk, enters q.heap q.k x)))] } ∧
      (o = none → t.searches = s.searches) ∧
      (o ≠ none → t.search k.search = { q with heap := h } ∧ ∀ j, j ≠ k.search → t.search j = s.search j)) ∧
    (∀ node pd pa, s.msgs[n]? = some (.visited w node pd) → VisitedAt s q node.toNat pa →
      ∃ t, exec (.visitedRequest n) s = .next t ∧ visitedSet s t node.toNat pa ∧
      t = { s with
        mem := t.mem, ports := (s.ringSend 1 (node.toNat / 2 ^ 29) k.stack).ports,
        msgs := s.msgs.eraseIdx n ++
          [.reply w none (some (pd, (s.mem.byte (s.dram pa)).getLsbD (node.toNat % 8)))] }) ∧
    (∀ wd pd, s.msgs[n]? = some (.reply w wd pd) → ∃ t, exec (.walkerReplyArrival n) s = .next t ∧
      t = { s with walkers := t.walkers, msgs := s.msgs.eraseIdx n } ∧ (∀ j, j ≠ w → t.walker j = s.walker j) ∧
      t.walker w = { k with waiting := false, w := (t.walker w).w, p := (t.walker w).p } ∧
      (∀ r, (t.walker w).w.get 0 r = match wd with
        | some (x, v) => if r = x then v else k.w.get 0 r
        | none => k.w.get 0 r) ∧
      ∀ j, j < 8 → (t.walker w).p.getLsbD j = match pd with
        | some (x, b) => predsAfter k.p x b j
        | none => k.p.getLsbD j))

/-- WalkersReadTheirStack and HeapAndVisitedBits (above), together. -/
def Obligations.WalkersReadAndOffer : Prop :=
  WalkersReadTheirStack ∧ HeapAndVisitedBits

/-- R248 to R252 and R332, where no walker is held at a stop: WHOP counts a hop and the walker travels; at the hop limit
it ends. WSPAWN counts a hop and starts a walker, by message or, on its own stack, there at once, or writes 0. WEND ends
the walker. WALKER_HOP_ARRIVAL and WALKER_SPAWN_START give the walker the stack's engine with the most free contexts, or
hold it. That the id 0xFFFF_FFFF is one of stack 7, and that WSPAWN beyond both limits is refused by the hop limit, are the
model's choices (log 106). -/
def Obligations.WalkersTravel : Prop :=
  (∀ (i : Instr) (s : State) (id : Nat) (e : Enc), encOf i = some e → Strides s id e → s.stops = [] →
    let k := s.walker id
    let q := s.search k.search
    let a := walkerRead s id e e.x.a
    let st := a % 2 ^ 32 / 2 ^ 29
    let limit := field q.desc 383 352
    let pk := e.x.mod.toNat % 8
    let only := fun t : State =>
      t = { strode s id e with
        walkers := t.walkers, searches := t.searches, msgs := t.msgs, ids := t.ids, ports := t.ports, stops := t.stops } ∧
      ∀ j, j ≠ k.search → t.search j = s.search j
    let ended := fun (t : State) (p : Search) => only t ∧ t.stops = [] ∧ t.msgs = s.msgs ∧ t.ids = s.ids ∧ t.ports = s.ports ∧
      t.search k.search = { p with walkers := q.walkers - 1 } ∧ t.walkers.look id = none ∧
      ∀ j, j ≠ id → t.walker j = s.walker j
    (e.xop = 0x386 → st ∈ q.stacks → q.hops < limit → ∃ t, exec i s = .next t ∧ only t ∧ t.ids = s.ids ∧
      t.search k.search = { q with hops := q.hops + 1 } ∧ (∀ j, j ≠ id → t.walker j = s.walker j) ∧
      t.stops = [] ∧ t.ports = (s.ringSend 4 k.stack st).ports ∧
      (st = k.stack → t.msgs = s.msgs ∧ t.walker id = pace s id e) ∧
      (st ≠ k.stack → t.msgs = s.msgs ++ [.hop id st] ∧ t.walker id = { pace s id e with travel := true })) ∧
    (e.xop = 0x386 → st ∈ q.stacks → limit ≤ q.hops → ∃ t, exec i s = .next t ∧ ended t { q with limited := true }) ∧
    (e.xop = 0x387 → st ∈ q.stacks → q.hops < limit → q.walkers < field q.desc 343 336 → id ≠ s.ids →
      s.walkers.look s.ids = none → ∃ t, exec i s = .next t ∧ only t ∧ t.ids = s.ids + 1 ∧
      t.msgs = s.msgs ++ (if st = k.stack then [] else [.spawn s.ids st]) ∧
      t.search k.search = { q with hops := q.hops + 1, walkers := q.walkers + 1 } ∧
      t.ports = (s.ringSend 4 k.stack st).ports ∧
      (∀ j, j ≠ id → j ≠ s.ids → t.walker j = s.walker j) ∧
      t.walker id = { pace s id e with p := (t.walker id).p } ∧
      (∀ j, j < 8 → (t.walker id).p.getLsbD j = predsAfter k.p pk true j) ∧
      (t.walker s.ids).search = k.search ∧ (t.walker s.ids).p = 0 ∧ (t.walker s.ids).stack = k.stack ∧
      (st ≠ k.stack → t.stops = [] ∧ (t.walker s.ids).travel = true) ∧
      (st = k.stack → SeatedOrHeld (strode s id e) t s.ids st) ∧
      (t.walker s.ids).pc = k.pc + BitVec.ofInt 64 (4 * offsetOf e.x) ∧
      ∀ r, (t.walker s.ids).w.get 0 r = if r = 0 then BitVec.ofNat 64 a
        else if r = 1 then BitVec.ofNat 64 (walkerRead s id e e.x.cSrc) else 0) ∧
    (e.xop = 0x387 → st ∈ q.stacks → limit ≤ q.hops ∨ field q.desc 343 336 ≤ q.walkers → ∃ t, exec i s = .next t ∧ only t ∧
      t.ids = s.ids ∧ t.msgs = s.msgs ∧ t.stops = [] ∧ t.ports = s.ports ∧ t.search k.search = { q with limited := q.limited || decide (limit ≤ q.hops) } ∧
      (∀ j, j ≠ id → t.walker j = s.walker j) ∧ t.walker id = { pace s id e with p := (t.walker id).p } ∧
      ∀ j, j < 8 → (t.walker id).p.getLsbD j = predsAfter k.p pk false j) ∧
    (e.xop = 0x388 → ∃ t, exec i s = .next t ∧ ended t q) ∧
    (e.xop = 0x386 ∨ e.xop = 0x387 → st ∉ q.stacks →
      ∃ t, exec i s = .next t ∧ (t.search k.search).fault = true ∧ (t.search k.search).walkers = 0)) ∧
  (∀ (s : State) (n w goal : Nat) (i : Instr), s.stops = [] →
    s.walkersWork (s.search (s.walker w).search).ctx = true →
    (s.walker w).travel = true → i = .walkerHopArrival n ∧ s.msgs[n]? = some (.hop w goal) ∨ i = .walkerSpawnStart n ∧ s.msgs[n]? = some (.spawn w goal) →
    ∃ t, exec i s = .next t ∧ t = { s with walkers := t.walkers, msgs := s.msgs.eraseIdx n, stops := t.stops } ∧
      (∀ j, j ≠ w → t.walker j = s.walker j) ∧
      t.walker w = { s.walker w with stack := goal, engine := (t.walker w).engine, travel := (t.walker w).travel } ∧
      SeatedOrHeld (s.setWalker w { s.walker w with stack := goal, travel := true }) t w goal)

/-! ### Traps, the return, special registers, counters, sleep and XCHG (R60, R128, R229 to R232, R369 to R373) -/

namespace Sys2Proof.Machine.Rules

/-- A trap of this cause is delivered when it is raised: no handler runs, the queue is empty, the cause is not masked, the
context runs and has a vector, and the raising split stands at its instruction (R371, R372). -/
structure Deliverable (s : State) (gid sid : Nat) (cause : BitVec 8) : Prop where
  outside : (s.group gid).handler = none
  queue : (s.group gid).traps = []
  unmasked : (s.group gid).masks cause = false
  context : (s.ctx (s.group gid).ctx).halted = false ∧ (s.ctx (s.group gid).ctx).trapvec ≠ 0
  split : ((s.group gid).split sid).live = true ∧ ((s.group gid).split sid).parked = false ∧
    ((s.group gid).split sid).wait = .none
  noWaiter : s.waiters = [] ∧ (s.slot (slotOf gid)).claims = []

/-- The waits before issue that a split leaves when a trap of its group is taken (R311, R365). -/
def leaves : Wait → Bool
  | .queue .. | .muster _ | .claim | .sleep => true
  | _ => false

/-- TAKING A TRAP (R365, R373): the handler's split and what RTT restores are recorded, TRAPMASK is 0xF, the trap registers
hold the entry's fields, the privilege is U, and the split is at TRAPVEC with the trap's living lanes added; the entries
`rest` stay queued. No other split issues until the return: those that wait before issue leave their waits (R311, log 26),
and the split's stall count runs on (log 62). Nothing else of the device changes. -/
structure EnteredFrom (b t : State) (gid sid : Nat) (x : Trap) (rest : List Trap) : Prop where
  only : OnlyGroup b t gid
  group : t.group gid = { b.group gid with
    handler := some {
      split := sid, pc := ((b.group gid).split sid).pc, mask := ((b.group gid).split sid).mask,
      trapmask := (b.group gid).trapMask, parked := false, wait := .none, super := (b.group gid).super,
      cause := x.cause, due := ((b.group gid).split sid).due, sleep := (b.group gid).sleeps.look sid },
    super := false, sleeps := (b.group gid).sleeps.del sid, trapMask := 0xF, trapPc := ((b.group gid).split sid).pc,
    trapLanes := x.lanes, trapAddr := x.addr, trapInfo := x.info, trapSrc := x.src, traps := rest,
    splits := (t.group gid).splits }
  split : (t.group gid).split sid = { (b.group gid).split sid with
    pc := (b.ctx (b.group gid).ctx).trapvec,
    mask := ((b.group gid).split sid).mask ||| (x.lanes &&& ~~~(b.group gid).exited),
    parked := false, wait := .none, readyAt := max ((b.group gid).split sid).readyAt (b.cycle + 1), due := none,
    atBreak := false }
  splits : ∀ k, k ≠ sid → (t.group gid).split k =
    if k < 4 ∧ ((b.group gid).split k).live = true ∧ leaves ((b.group gid).split k).wait = true then
      { (b.group gid).split k with wait := .none, pend := none }
    else (b.group gid).split k

/-- The same with nothing left in the queue. -/
abbrev Entered (b t : State) (gid sid : Nat) (x : Trap) : Prop := EnteredFrom b t gid sid x []

/-- TRAPMASK covers a cause (R230). -/
def covered (m : BitVec 4) (cause : BitVec 8) : Bool :=
  match maskBit cause with
  | some k => m.getLsbD k
  | none => false

/-- THE RETURN (R230, R365, R373): the split of the handler goes on at TRAPPC plus `n` bytes with the mask, TRAPMASK and
privilege held at delivery; the trap registers read zero. -/
structure Returned (b t : State) (gid : Nat) (h : Handler) (n : Nat) : Prop where
  only : OnlyGroup b t gid
  splits : ∀ k, k ≠ h.split → (t.group gid).split k = (b.group gid).split k
  split : (t.group gid).split h.split = { (b.group gid).split h.split with
    pc := (b.group gid).trapPc + BitVec.ofNat 64 n, mask := h.mask &&& ~~~(b.group gid).exited, parked := false,
    wait := h.wait, due := h.due }
  group : t.group gid = { b.group gid with
    handler := none, trapPc := 0, trapLanes := 0, trapAddr := 0, trapInfo := 0, trapSrc := 0, trapMask := h.trapmask,
    super := h.super, splits := (t.group gid).splits, sleeps := (t.group gid).sleeps }
  sleeps : ∀ k, (t.group gid).sleeps.look k = if k ≠ h.split then (b.group gid).sleeps.look k
    else if (b.group gid).trapPc + BitVec.ofNat 64 n = h.pc then h.sleep else none

/-- A special register as SRD reads it (R231): number, group, lane. -/
def special (s : State) (gid n lane : Nat) : DWord :=
  let g := s.calm gid
  let w := s.wgOf gid
  if n = 0x00 then BitVec.ofNat 64 lane
  else if n = 0x01 then BitVec.ofNat 64 g.idx
  else if n = 0x02 then BitVec.ofNat 64 w.wgid
  else if n = 0x03 then BitVec.ofNat 64 (w.roles.toNat / 4 ^ g.idx % 4)
  else if n = 0x04 then BitVec.ofNat 64 w.ngrp
  else if n = 0x05 then BitVec.ofNat 64 g.ctx
  else if n = 0x06 then BitVec.ofNat 64 (coreOf gid + 256 * (slotOf gid % 4))
  else if 0x08 ≤ n ∧ n ≤ 0x0B then (g.shape.get 0 (n - 0x08)).setWidth 64
  else if 0x0C ≤ n ∧ n ≤ 0x0F then g.bucket.get 0 (n - 0x0C)
  else if n = 0x10 then g.fpflags.setWidth 64
  else if n = 0x11 then g.fpmode.setWidth 64
  else if n = 0x12 then g.stallchk.setWidth 64
  else if n = 0x13 then g.cancelled.setWidth 64
  else if n = 0x14 then g.stepen.setWidth 64
  else if n = 0x18 then BitVec.ofNat 64 g.winBase
  else if n = 0x19 then BitVec.ofNat 64 g.winSize
  else if n = 0x1A then BitVec.ofNat 64 g.alloc
  else if n = 0x20 then (match g.handler with | some h => h.cause.setWidth 64 | none => 0)
  else if n = 0x21 then g.trapPc
  else if n = 0x22 then g.trapLanes.setWidth 64
  else if n = 0x23 then g.trapAddr
  else if n = 0x24 then g.trapInfo
  else if n = 0x25 then g.trapMask.setWidth 64
  else if n = 0x26 then (s.ctx g.ctx).trapvec
  else if n = 0x27 then g.trapSrc
  else if n = 0x28 then BitVec.ofNat 64 s.time
  else if n = 0x30 then g.dbgfocus.setWidth 64
  else 0

/-- The base opcodes that the table of R82 assigns. -/
abbrev assigned (bop : Nat) : Prop :=
  bop ≤ 33 ∨ (48 ≤ bop ∧ bop ≤ 60) ∨ (64 ≤ bop ∧ bop ≤ 67) ∨ bop = 126 ∨ bop = 127

/-- The view of a group forbids writing a special register (R231). -/
abbrev readOnly (super : Bool) (n : Nat) : Prop :=
  n ∉ [0x10, 0x11, 0x12, 0x14, 0x21, 0x25] ∧ (super = false ∨ n ∉ [0x13, 0x26, 0x30])

/-- Where XCHG meets (R301). -/
def meetSlice (t : Word) : Nat :=
  (t ^^^ (t >>> 5) ^^^ (t >>> 10) ^^^ (t >>> 15) ^^^ (t >>> 20) ^^^ (t >>> 25) ^^^ (t >>> 30)).toNat % 32

end Sys2Proof.Machine.Rules

/-- R60, R80, R84, R229, R231, R365, R370 and R373: TRAP, BKPT outside debug, a word with an unassigned opcode, an
instruction that breaks a condition of sub-codes 1 to 8 and a write of a read-only special register take their trap, before
any effect. Where its cause is masked TRAP and BKPT act as NOP and leave the entry in the queue; BKPT under
debug halts the context for its debugger. A base word with an unassigned BOP decodes to no extended instruction: a core
raises trap 0x01 with sub-code 1, and in walker code it ends the search with status "walker fault", which is 4.
The model's choices here: sub-code 6 for what R60 does not name (logs 25, 57), BKPT under a debugger (log 46), the waits that
a delivery ends (log 26) and the handler's stall count (log 62). -/
def Obligations.TrapsAreTaken : Prop :=
  (∀ (walker : Bool) (w : Word) (rest : List Byte), w.getLsbD 0 = false → ¬ assigned (w.toNat / 4 % 128) →
    (w.getLsbD 1 = true → 8 ≤ rest.length) →
    decode walker (bytesOfWord w ++ rest) = .illegal 1 (.unassignedOpcode w) (if w.getLsbD 1 = true then 12 else 4)) ∧
  (∀ (s : State) (w : Word) (id : Nat), s.who = .walker id → ∃ t, exec (.unassignedOpcode w) s = .next t ∧
    searchStatus (t.search (s.walker id).search) = 4 ∧ (t.search (s.walker id).search).walkers = 0) ∧
  (∀ (s : State) (w : Word) (gid sid : Nat), Quiet s gid sid → exec (.unassignedOpcode w) s = .next ((s.calmed gid).raise gid
    ⟨0x01, sid, ((s.group gid).split sid).pc, ((s.group gid).split sid).mask, 0, 1, ((s.group gid).split sid).pc⟩)) ∧
  ∀ (i : Instr) (s : State) (gid sid : Nat), Quiet s gid sid →
    let x := (s.group gid).split sid
    let at' := fun (cause : BitVec 8) (lanes : Mask) (info : DWord) => (⟨cause, sid, x.pc, lanes, 0, info, x.pc⟩ : Trap)
    (∀ w, i = .unassignedOpcode w → Deliverable s gid sid 0x01 →
      ∃ t, exec i s = .next t ∧ Entered (s.calmed gid) t gid sid (at' 0x01 x.mask 1)) ∧
    ∀ e, encOf i = some e →
      (e.sub ≠ 0 → Deliverable s gid sid 0x01 → ∃ t n, exec i s = .next t ∧ 1 ≤ n ∧ n ≤ e.sub ∧ (e.sub ≤ 3 → n = e.sub) ∧
        Entered (s.calmed gid) t gid sid (at' 0x01 x.mask (BitVec.ofNat 64 n))) ∧
      (e.xop = 0x3C5 → Legal s gid sid e → readOnly (s.group gid).super (e.x.mod.toNat % 256) → Deliverable s gid sid 0x02 →
        ∃ t, exec i s = .next t ∧ Entered (s.calmed gid) t gid sid (at' 0x02 x.mask 0)) ∧
      (e.xop = 0x3C0 ∨ e.xop = 0x3C6 → Legal s gid sid e →
        let cause : BitVec 8 := if e.xop = 0x3C0 then BitVec.ofNat 8 (0x80 + e.x.mod.toNat % 64) else 0x40
        let lanes := if e.xop = 0x3C0 then s.lanes gid sid e else x.mask
        let info : DWord := if e.xop = 0x3C6 then BitVec.ofNat 64 (e.x.mod.toNat % 256) else
          if e.x.b = Src.zero then 0 else BitVec.ofNat 64 (s.source gid e .bits true e.x.b 0)
        let debug := BitVec.getLsbD (s.ctx (s.group gid).ctx).debug 0
        ((e.xop = 0x3C0 ∨ debug = false) → Deliverable s gid sid cause →
          ∃ t, exec i s = .next t ∧ Entered (s.calmed gid) t gid sid (at' cause lanes info)) ∧
        ((e.xop = 0x3C0 ∨ debug = false) → (s.group gid).masks cause = true → (s.group gid).traps = [] →
          Takes i s gid sid e (fun b t => OnlyGroup b t gid ∧
            t.group gid = { b.group gid with traps := [at' cause lanes info] })) ∧
        (e.xop = 0x3C6 → debug = true → (s.ctx (s.group gid).ctx).halted = false → ∃ t, exec i s = .next t ∧
          (t.ctx (s.group gid).ctx).halted = true ∧ (t.ctx (s.group gid).ctx).debugHalt = true ∧
          (t.ctx (s.group gid).ctx).live = (s.ctx (s.group gid).ctx).live ∧
          ((t.group gid).split sid).pc = x.pc ∧ t.mem = s.mem))

/-- R230, R365, R372 and R373: RTT restores the handler split's mask, TRAPMASK and privilege and goes to TRAPPC, RTT.next to
the instruction after it; the trap registers read zero, and the oldest pending trap that the restored TRAPMASK does not
cover is then delivered. RTT from the handler of trap 0x30 ends the group (R225). TMASK and TUNMASK set and clear bits of TRAPMASK, and the trap
that a cleared bit lets through is taken before the next instruction. The model's choices here: RTT.next reads the home
copy of the word at TRAPPC (log 11), waits that a delivery ends (log 26) and the handler's stall count (log 62). -/
def Obligations.HandlersReturn : Prop :=
  ∀ (i : Instr) (s : State) (gid sid : Nat) (e : Enc), encOf i = some e → Quiet s gid sid → Legal s gid sid e →
    let g := s.group gid
    let next := e.x.mod.getLsbD 0
    let m : BitVec 4 := BitVec.ofNat 4 (s.source gid e .bits true e.x.b 0)
    let mask := if e.xop = 0x3C2 then g.trapMask ||| m else g.trapMask &&& ~~~m
    (e.xop = 0x3C1 → ∀ h n, g.handler = some h → h.split = sid → sid < 4 → h.parked = false → h.cause ≠ 0x30 →
      (g.split sid).live = true → h.mask &&& ~~~g.exited ≠ 0 → g.trapPc % 4 = 0 →
      (if next = true then ∃ pa en leaf, s.translate g.ctx g.super false 2 g.trapPc.toNat = .ok pa en leaf ∧
          n = 4 * lengthWords (BitVec.ofNat 32 (ofBytes (s.peekBytes pa 4))) else n = 0) →
      (g.traps = [] → h.due = none → (∀ k, k ≠ sid → (g.split k).due = none) →
        Takes i s gid sid e (fun b t => Returned b t gid h n)) ∧
      (∀ pre x post, g.traps = pre ++ x :: post → (∀ y ∈ pre, covered h.trapmask y.cause = true) →
        covered h.trapmask x.cause = false → x.split = sid → h.wait = .none → (s.ctx g.ctx).halted = false →
        (s.ctx g.ctx).trapvec ≠ 0 → s.waiters = [] → (s.slot (slotOf gid)).claims = [] →
        Takes i s gid sid e (fun b t => ∃ u, Returned b u gid h n ∧ EnteredFrom u t gid sid x (pre ++ post)))) ∧
    (e.xop = 0x3C1 → ∀ h, g.handler = some h → h.split = sid → h.parked = false → h.cause = 0x30 → next = false →
      g.trapPc % 4 = 0 → Takes i s gid sid e (fun b t => OnlyGroup b t gid ∧ t.group gid = { b.group gid with
        handler := none, trapPc := 0, trapLanes := 0, trapAddr := 0, trapInfo := 0, trapSrc := 0, trapMask := h.trapmask,
        super := h.super, sleeps := (t.group gid).sleeps, splits := [], tokens := [], tokSpill := 0, exited := 0xFFFF_FFFF,
        retiring := true, relay := none })) ∧
    (e.xop = 0x3C1 → g.handler = none → Deliverable s gid sid 0x01 → ∃ t, exec i s = .next t ∧
      Entered (s.calmed gid) t gid sid ⟨0x01, sid, (g.split sid).pc, (g.split sid).mask, 0, 9, (g.split sid).pc⟩) ∧
    (e.xop = 0x3C2 ∨ e.xop = 0x3C3 → g.traps = [] → Takes i s gid sid e (fun b t => OnlyGroup b t gid ∧
      t.group gid = { b.group gid with trapMask := mask })) ∧
    (e.xop = 0x3C3 → ∀ x k, g.traps = [x] → maskBit x.cause = some k → g.trapMask.getLsbD k = true → m.getLsbD k = true →
      k < 4 → x.split = sid → g.handler = none → (s.ctx g.ctx).halted = false → (s.ctx g.ctx).trapvec ≠ 0 →
      (g.split sid).live = true → (g.split sid).parked = false → s.waiters = [] → (s.slot (slotOf gid)).claims = [] →
      Takes i s gid sid e (fun b t => Entered (b.setGroup gid { b.group gid with trapMask := mask }) t gid sid x))

/-- R231 and R232: SRD sends the register's value of each effective lane to D; SWR writes the register from the lowest
effective lane, reserved bits staying zero, and a flag of FPFLAGS is cleared by a 0 and never set (R14, R99; log 47, the model's choice, as are one lane's value of SRD into a
g register, log 61, and the counters of engines, log 32); PFRD, TIME and SLEEP do what R232 gives them, and SLEEP_END lets the split
go on once the time has come. -/
def Obligations.SystemRegistersAndSleep : Prop :=
  (∀ (i : Instr) (s : State) (gid sid : Nat) (e : Enc), encOf i = some e → Quiet s gid sid → Legal s gid sid e →
    let g := s.group gid
    let n := e.x.mod.toNat % 256
    let wide := n ∈ [0x0C, 0x0D, 0x0E, 0x0F, 0x21, 0x23, 0x24, 0x26, 0x27, 0x28]
    let lanes := lanesOf (s.lanes gid sid e)
    let v : DWord := BitVec.ofNat 64 (s.source gid e .bits (decide wide) e.x.a (lowLane (s.lanes gid sid e)))
    let w : Word := v.setWidth 32
    let len := s.source gid e .int true e.x.b 0 % 2 ^ 32
    let sel := s.source gid e .bits true e.x.b 0 % 256
    (e.xop = 0x3C4 → (n = 0x30 → g.super = true) → Takes i s gid sid e (fun b t =>
      t = { b with groups := t.groups, ids := b.ids + 1 } ∧ (∀ k, k ≠ gid → t.group k = b.group k) ∧
      ∃ r, (t.group gid).replies = g.replies ++ [r] ∧ r.id = b.ids ∧ r.split = sid ∧
        r.target = resultOf s gid e (decide wide) ∧
        (t.group gid).pending = [(b.ids, r.target, sid)] ∧
        (if e.x.d.cls = .g then ∃ l ∈ lanes, r.vals = [(l, special s gid n l)]
          else r.vals = lanes.map (fun l => (l, special s gid n l))))) ∧
    (e.xop = 0x3C5 → ¬ readOnly g.super n → g.traps = [] → Takes i s gid sid e (fun b t =>
      t = { b with groups := t.groups, ctxs := t.ctxs } ∧ (∀ k, k ≠ gid → t.group k = b.group k) ∧
      (n ≠ 0x26 → t.ctxs = b.ctxs) ∧
      (n = 0x26 → t.groups = b.groups ∧ t.ctx g.ctx = { s.ctx g.ctx with trapvec := v } ∧
        ∀ c, c ≠ g.ctx → t.ctx c = s.ctx c) ∧
      (n ≠ 0x26 → t.group gid = { b.group gid with
        fpflags := if n = 0x10 then (b.group gid).fpflags &&& w else (b.group gid).fpflags,
        fpmode := if n = 0x11 then w &&& 1 else g.fpmode,
        stallchk := if n = 0x12 then w &&& 1 else g.stallchk,
        cancelled := if n = 0x13 then w &&& 1 else g.cancelled,
        stepen := if n = 0x14 then w &&& 1 else g.stepen,
        trapPc := if n = 0x21 ∧ g.handler ≠ none then v else g.trapPc,
        trapMask := if n = 0x25 then v.setWidth 4 else g.trapMask,
        dbgfocus := if n = 0x30 then w else g.dbgfocus }))) ∧
    (e.xop = 0x3C8 → Takes i s gid sid e (fun b t => t = { b with groups := t.groups, ids := b.ids + 1 } ∧
      answers s b t gid sid e true (BitVec.ofNat 64 s.time))) ∧
    (e.xop = 0x3C7 →
      let core := (s.core (coreOf gid)).counters
      (0x40 ≤ sel → sel ≤ 0x47 → g.super = true) → Takes i s gid sid e (fun b t =>
        t = { b with groups := t.groups, ids := b.ids + 1 } ∧
        answers s b t gid sid e true (BitVec.ofNat 64 (
          if sel = 0x00 then s.cycle - g.since
          else if sel = 0x01 then (b.group gid).issued
          else if 0x10 ≤ sel ∧ sel ≤ 0x18 then g.stalls.get 0 (sel - 0x10)
          else if sel = 0x20 ∨ sel = 0x21 ∨ sel = 0x28 ∨ sel = 0x29 ∨ sel = 0x2A then core.get 0 (sel - 0x20)
          else if sel = 0x22 then s.cycle - core.get 0 2
          else if 0x40 ≤ sel ∧ sel ≤ 0x47 then
            [0, 1, 2, 3].foldl (fun a k => a + s.baseDie.get 0 ((coreOf gid / 64 * 4 + k) * 8 + (sel - 0x40))) 0
          else 0)))) ∧
    (e.xop = 0x3C7 → 0x40 ≤ sel → sel ≤ 0x47 → g.super = false → Deliverable s gid sid 0x02 →
      ∃ t, exec i s = .next t ∧ Entered (s.calmed gid) t gid sid
        ⟨0x02, sid, (g.split sid).pc, (g.split sid).mask, 0, 0, (g.split sid).pc⟩) ∧
    (e.xop = 0x3C9 → g.sleeps.look sid = none → len = 0 → Takes i s gid sid e (fun b t => OnlyGroup b t gid ∧
      t.group gid = { b.group gid with sleeps := (t.group gid).sleeps } ∧ (t.group gid).sleeps.look sid = none)) ∧
    (e.xop = 0x3C9 → g.sleeps.look sid = none → len ≠ 0 → (g.split sid).wait = .none → ∃ t, exec i s = .next t ∧
      OnlyGroup (s.calmed gid) t gid ∧ (t.group gid).sleeps.look sid = some (s.time + len) ∧
      ((t.group gid).split sid).wait = .sleep ∧ ((t.group gid).split sid).pc = (g.split sid).pc) ∧
    (e.xop = 0x3C9 → ∀ u, g.sleeps.look sid = some u → u ≤ s.time → Takes i s gid sid e (fun b t => OnlyGroup b t gid ∧
      t.group gid = { b.group gid with sleeps := (t.group gid).sleeps } ∧ (t.group gid).sleeps.look sid = none))) ∧
  (∀ (s : State) (gid sid u : Nat) (p : Pend), ((s.group gid).split sid).pend = some p →
    (s.group gid).sleeps.look sid = some u → ((s.group gid).split sid).wait = .sleep → u ≤ s.time →
    (s.group gid).stepping = false → p.eff ≠ 0 → s.mayStart (s.group gid).ctx = true →
    ∃ t, exec (.sleepEnd gid sid) s = .next t ∧
      (t.group gid).sleeps.look sid = none ∧ ((t.group gid).split sid).wait = .none ∧
      ((t.group gid).split sid).pc = ((s.group gid).split sid).pc + BitVec.ofNat 64 p.size ∧
      ∀ k, k ≠ gid → t.group k = s.group k)

/-- R128, R129 and R301: XCHG sends its tag, width, lanes and values to the slice its tag selects and does not wait; D is
scoreboarded. XCHG_REQUEST_ARRIVAL of the second request of a pair gives each partner the other's values in the lanes
effective in both, and its own in the others; without a partner the request waits. Requests and replies cross the fabric,
and a request arrives once its packet has (log 41). -/
def Obligations.ExchangesPair : Prop :=
  (∀ (i : Instr) (s : State) (gid sid : Nat) (e : Enc), encOf i = some e → e.xop = 0x0C4 → Quiet s gid sid →
    Ready s gid sid e → (∀ q ∈ s.xchgs, q.gid ≠ gid) →
    let wide := isWideTy e.x.ty
    Takes i s gid sid e (fun b t =>
      t = { b.spent gid with groups := t.groups, wgs := t.wgs, xchgs := t.xchgs, ids := b.ids + 1, ports := t.ports } ∧
      (∀ k, k ≠ gid → t.group k = b.group k) ∧
      t.group gid = { b.group gid with
        pending := [(b.ids, resultOf s gid e wide, sid)], ports := (t.group gid).ports, accs := (t.group gid).accs } ∧
      (if resultOf s gid e wide = .port 2 ∨ resultOf s gid e wide = .port 3 then
          ∃ a, (t.group gid).accs = (b.group gid).accs ++ [a] ∧ a.id = b.ids ∧ a.kind = .push
        else (t.group gid).accs = (b.group gid).accs) ∧
      PortsMoved (b.spent gid) t gid (inPorts e.sources) [] 0 (fun _ => 0) ∧
      ∃ q, t.xchgs = s.xchgs ++ [q] ∧ t.ports = (s.sendXchg q).ports ∧ q.gid = gid ∧ q.sid = sid ∧ q.ctx = (s.group gid).ctx ∧ q.stage = 0 ∧
        q.tag = BitVec.ofNat 32 (s.source gid e .bits false e.x.b 0) ∧ q.wide = wide ∧ q.mask = s.lanes gid sid e ∧
        q.target = resultOf s gid e wide ∧ q.reply = b.ids ∧
        q.vals = (lanesOf (s.lanes gid sid e)).map (fun l => (l, BitVec.ofNat 64 (s.operand gid e .bits wide e.x.a l))))) ∧
  (∀ (s : State) (k : Nat) (q : Xchg), s.xchgs[k]? = some q → q.stage = 0 →
    s.onTheWay q.reply = false → (∀ o ∈ s.xchgs.take k, o.stage = 0 → coreOf o.gid = coreOf q.gid → meetSlice o.tag ≠ meetSlice q.tag) →
    (∀ o ∈ s.xchgs, o.stage = 1 → meetSlice o.tag ≠ meetSlice q.tag) →
    ∃ t, exec (.xchgRequestArrival k) s = .next t ∧ t = { s with xchgs := t.xchgs } ∧
      t.xchgs = s.xchgs.eraseIdx k ++ [{ q with stage := 1 }]) ∧
  (∀ (s : State) (k : Nat) (o q : Xchg), s.xchgs[k]? = some q → s.xchgs.eraseIdx k = [o] → q.stage = 0 → o.stage = 1 →
    s.onTheWay q.reply = false → o.ctx = q.ctx → o.tag = q.tag → o.reply ≠ q.reply → o.gid ≠ q.gid →
    ∃ t, exec (.xchgRequestArrival k) s = .next t ∧ (∀ x ∈ t.xchgs, x.stage = 2) ∧
      t.ports = ((s.answerXchg o).answerXchg q).ports ∧
      ∀ own other, own = o ∧ other = q ∨ own = q ∧ other = o →
        ∃ r, (t.group own.gid).replies = (s.group own.gid).replies ++ [r] ∧ r.id = own.reply ∧ r.target = own.target ∧
          r.vals.map (·.1) = own.vals.map (·.1) ∧
          ∀ l v, (l, v) ∈ r.vals → (∀ a ∈ other.vals, a.1 ≠ l) ∧ (l, v) ∈ own.vals ∨
            ∃ y, (l, y) ∈ other.vals ∧ v = if own.wide then y else y &&& 0xFFFF_FFFF)

/-! ### Rules stated word for word (R84, R118, R120, R122) -/

namespace Sys2Proof.Machine.Rules

/-- An operand field of an integer or logic instruction in a lane, at the width of its type. -/
def typed (s : State) (gid : Nat) (e : Enc) (how : As) (f : Src) (lane : Nat) : BitVec (wd e) :=
  BitVec.ofNat (wd e) (s.operand gid e how (isWideTy e.x.ty) f lane)

end Sys2Proof.Machine.Rules

/-- R118: IDIV and IREM complete for a zero divisor and for signed overflow as for other operands, without a trap or a flag,
and give what the table says: −1 or 2^w − 1 and A for a zero divisor, type_min and 0 for type_min divided by −1. -/
def Obligations.DivisionEdgeCases : Prop :=
  ∀ (i : Instr) (s : State) (gid sid : Nat) (e : Enc), encOf i = some e → e.xop = 0x006 ∨ e.xop = 0x007 →
    Quiet s gid sid → Ready s gid sid e →
    ∃ t y, exec i s = .next t ∧ Done s t gid sid e (isWideTy e.x.ty) 16 y 0 ∧
      ∀ lane, Mask.has (s.lanes gid sid e) lane = true →
        let a := typed s gid e .int e.x.a lane
        let b := typed s gid e .int e.x.b lane
        let v := (y lane).setWidth (wd e)
        (b = 0 → v = if e.xop = 0x007 then a else if sg e then BitVec.ofInt (wd e) (-1) else BitVec.ofNat (wd e) (2 ^ wd e - 1)) ∧
        (sg e = true → a.toInt = -2 ^ (wd e - 1) → b.toInt = -1 → v = if e.xop = 0x007 then 0 else a)

/-- R120: BFX and BFI bit by bit. The control word's bits 7:0 are the position, its bits 15:8 the length, of which as much is
used as lies below w; BFX extends the field by the type and gives 0 for an empty one, BFI replaces it in B. -/
def Sys2Proof.Machine.Rules.BitFieldsMove : Prop :=
  ∀ (i : Instr) (s : State) (gid sid : Nat) (e : Enc), encOf i = some e → e.xop = 0x04D ∨ e.xop = 0x04E →
    Quiet s gid sid → Ready s gid sid e →
    ∃ t y, exec i s = .next t ∧ Done s t gid sid e (isWideTy e.x.ty) 4 y 0 ∧
      ∀ lane, Mask.has (s.lanes gid sid e) lane = true →
        let a := typed s gid e .bits e.x.a lane
        let b := typed s gid e .bits e.x.b lane
        let control := s.operand gid e .bits false (if e.xop = 0x04D then e.x.b else e.x.cSrc) lane
        let pos := control % 256
        let len := if pos < wd e then min (control / 256 % 256) (wd e - pos) else 0
        ∀ j, j < wd e → (y lane).getLsbD j =
          if e.xop = 0x04D then
            (if j < len then a.getLsbD (pos + j) else sg e && decide (0 < len) && a.getLsbD (pos + len - 1))
          else if pos ≤ j ∧ j < pos + len then a.getLsbD (j - pos) else b.getLsbD j

/-- R122: ISEL writes A where the 32-bit operand C is not zero, and B where it is. -/
def Sys2Proof.Machine.Rules.SelectTakesAOrB : Prop :=
  ∀ (i : Instr) (s : State) (gid sid : Nat) (e : Enc), encOf i = some e → e.xop = 0x081 → Quiet s gid sid → Ready s gid sid e →
    ∃ t y, exec i s = .next t ∧ Done s t gid sid e (isWideTy e.x.ty) 4 y 0 ∧
      ∀ lane, Mask.has (s.lanes gid sid e) lane = true → (y lane).setWidth (wd e) =
        if s.operand gid e .bits false e.x.cSrc lane = 0 then typed s gid e .bits e.x.b lane
        else typed s gid e .bits e.x.a lane

/-- BitFieldsMove and SelectTakesAOrB (above), together. -/
def Obligations.BitFieldsAndSelect : Prop :=
  BitFieldsMove ∧ SelectTakesAOrB

/-- R84: a base word with an unassigned BOP decodes to no extended instruction; a core that issues one raises trap 0x01 with
sub-code 1 at it, and in walker code it ends the search with the status "walker fault", which is 4. -/
def Obligations.UnassignedWordsTrap : Prop :=
  (∀ (walker : Bool) (w : Word) (rest : List Byte), w.getLsbD 0 = false →
    (let bop := w.toNat / 4 % 128
     (33 < bop ∧ bop < 48) ∨ (60 < bop ∧ bop < 64) ∨ (67 < bop ∧ bop < 126)) → (w.getLsbD 1 = true → 8 ≤ rest.length) →
    decode walker (bytesOfWord w ++ rest) = .illegal 1 (.unassignedOpcode w) (if w.getLsbD 1 = true then 12 else 4)) ∧
  (∀ (s : State) (w : Word) (gid sid : Nat), Quiet s gid sid → exec (.unassignedOpcode w) s = .next ((s.calmed gid).raise gid
    ⟨0x01, sid, ((s.group gid).split sid).pc, ((s.group gid).split sid).mask, 0, 1, ((s.group gid).split sid).pc⟩)) ∧
  ∀ (s : State) (w : Word) (id : Nat), s.who = .walker id → ∃ t, exec (.unassignedOpcode w) s = .next t ∧
    searchStatus (t.search (s.walker id).search) = 4 ∧ (t.search (s.walker id).search).walkers = 0

/-! ### The fabric, the throttle and the spill engine (R259, R260, R266, R273, R296 to R300) -/

namespace Sys2Proof.Machine.Rules

/-- The i-th waiting packet is eligible at its port: of the packets that wait at its input and channel it came first,
whichever output of the switch they wait for, and its length fits (R297). -/
structure EligibleAt (s : State) (port i : Nat) (p : Packet) : Prop where
  waits : (s.fabric port).packets[i]? = some p
  oldest : ∀ k ∈ sameSwitch port, ∀ q ∈ (s.fabric k).packets, q.input = p.input → q.chan = p.chan → p.order ≤ q.order
  fits : p.flits ≤ (s.fabric port).room.get 16 p.chan

/-- The port's state after its i-th packet is granted (R297, R298): it has gone, the other eligible ones have lost once, the
rest wait as they were. -/
structure Granted (s : State) (port : Nat) (g : FabricPort) (i : Nat) (p : Packet) : Prop where
  count : g.packets.length + 1 = (s.fabric port).packets.length
  left : ∀ j q, j ≠ i → (s.fabric port).packets[j]? = some q → ∃ r, g.packets[if j < i then j else j - 1]? = some r ∧
    (EligibleAt s port j q → r = { q with lost := q.lost + 1 }) ∧ (¬ EligibleAt s port j q → r = q)
  sent : g.sent.head? = some { p with lost := 0, promoted := none }
  room : ∀ c, g.room.get 16 c =
    if c = p.chan then (s.fabric port).room.get 16 c - p.flits else (s.fabric port).room.get 16 c
  turn : ∀ c, g.inputs.get 0 c = if c = p.chan then p.input + 1 else (s.fabric port).inputs.get 0 c
  backlog : g.backlog = (s.fabric port).backlog

/-- A granted packet goes on (R295 to R298): the link it came by has its flits free again, the next port of its path has
it last of its input, with no arbitration lost; at the end of its path a request is answered from the slice, and nothing else
of the fabric changes. -/
structure GoesOn (s t : State) (port : Nat) (p : Packet) : Prop where
  device : t = { s with ports := t.ports }
  next : ∀ n rest, p.route = n :: rest → 1000 ≤ p.input ∨ p.input ≠ n → ∃ o, t.fabric n = { s.fabric n with
      packets := (s.fabric n).packets ++
        [{ p with input := port, route := rest, lost := 0, promoted := none, order := o }] } ∧
    ∀ k ∈ sameSwitch n, ∀ q ∈ (s.fabric k).packets, q.input = port → q.order < o
  answer : ∀ x n rest, p.route = [] → p.cargo.answer = some x → x.flits ≤ 5 → pathDown p.cluster p.slice = n :: rest →
    p.input ≠ n → 32 ≤ n → ∃ q, t.fabric n = { s.fabric n with packets := (s.fabric n).packets ++ [q] } ∧
      q.cargo = x ∧ q.chan = x.chan ∧ q.flits = x.flits ∧ q.route = rest ∧ q.lost = 0 ∧ q.promoted = none
  link : p.input < 1000 → (∀ n rest, p.route = n :: rest → p.input ≠ n) → (p.route = [] → p.cargo.answer = none) →
    t.fabric p.input = { s.fabric p.input with
      room := (s.fabric p.input).room.set 16 p.chan (min 16 ((s.fabric p.input).space p.chan + p.flits)) }
  others : ∀ k, (1000 ≤ p.input ∨ k ≠ p.input) → (∀ n rest, p.route = n :: rest → k ≠ n) →
    (p.route = [] → p.cargo.answer = none ∨ k ≠ 32 + p.slice) → t.fabric k = s.fabric k

/-- Flits of a channel in a buffer. -/
def flitsOn (l : List Packet) (c : Nat) : Nat := ((l.filter (fun p => p.chan = c)).map Packet.flits).sum
/-- A packet as its agent holds it. -/
def asHeld (p : Packet) : Packet := { p with lost := 0, promoted := none, order := 0 }

/-- The packets that wait with a port's agents enter it as far as they fit (R296): of every channel the first ones, in order, up to
16 flits at a cluster's injection port. -/
structure Admitted (s t : State) (port : Nat) : Prop where
  device : t = { s with ports := t.ports }
  others : ∀ k, k ≠ port → t.fabric k = s.fabric k
  enter : ∃ inn out new : List Packet, t.fabric port = { s.fabric port with packets := (s.fabric port).packets ++ new, backlog := out } ∧
    new.map asHeld = inn.map asHeld ∧ (∀ x ∈ new, x.lost = 0 ∧ x.promoted = none) ∧
    (∀ c, (s.fabric port).backlog.filter (fun p => p.chan = c) =
      inn.filter (fun p => p.chan = c) ++ out.filter (fun p => p.chan = c)) ∧
    (∀ x ∈ inn, port < 32 → flitsOn (t.fabric port).packets x.chan ≤ 16) ∧
    ∀ c x rest, out.filter (fun p => p.chan = c) = x :: rest →
      port < 32 ∧ 16 < flitsOn (t.fabric port).packets c + x.flits

/-- A port's weight of a channel (R299). -/
def weightOf (f : FabricPort) (c : Nat) : Nat := f.weights.toNat / 16 ^ c % 16

/-- The target level of 256 samples (R300). -/
def levelOf (sum : Nat) : Nat :=
  if sum * 100 < 25 * 8192 then 0 else if sum * 100 < 50 * 8192 then 1 else if sum * 100 < 75 * 8192 then 2
  else if sum * 100 < 90 * 8192 then 3 else 4

/-- A token as its 32 bytes hold it (R260). -/
def tokenOf (b : List Byte) : Token :=
  { kind := if field b 199 192 = 1 then .join else if field b 199 192 = 2 then .defer
      else if field b 199 192 = 3 then .loop else .other,
    pc1 := BitVec.ofNat 64 (field b 63 0), pc2 := BitVec.ofNat 64 (field b 127 64), sp1 := field b 201 200,
    sp2 := field b 203 202, maskA := BitVec.ofNat 32 (field b 159 128), maskB := BitVec.ofNat 32 (field b 191 160),
    phase := field b 204 204 = 1, ppk := field b 206 206 = 1, cpk := field b 207 207 = 1 }

end Sys2Proof.Machine.Rules

/-- R296 to R299: PACKET_PROMOTION marks the oldest packets that have lost 64 arbitrations, those of one arbitration alike;
FABRIC_GRANT, when none is left to mark, grants the earliest promoted packet, on a tie that of the lower channel; without one it
stays with its channel up to the channel's weight and then goes to the next one, in the order of the inputs; with nothing
eligible it does nothing. The packet granted goes on to the next port of its path, and the packets that wait with the port's
agents enter it as far as they fit. The numbers of the ports and the wiring between them are the model's choice (log 19). -/
def Sys2Proof.Machine.Rules.FabricArbitrates : Prop :=
  ∀ (s : State) (port : Nat),
    let f := s.fabric port
    let granted := fun (t : State) (i : Nat) (p : Packet) => ∃ g u, Granted s port g i p ∧ EligibleAt s port i p ∧
      GoesOn (s.setFabric port g) u port p ∧ Admitted u t port
    (∀ p ∈ f.packets, 64 ≤ p.lost → p.promoted = none → ∃ t, exec (.packetPromotion port p.input p.chan) s = .next t ∧
      t = { s with ports := t.ports } ∧ (∀ k, k ≠ port → t.fabric k = s.fabric k) ∧
      t.fabric port = { f with
        packets := f.packets.map (fun q => if 64 ≤ q.lost ∧ q.promoted = none ∧ q.input = p.input ∧ q.chan = p.chan then
          { q with promoted := some f.stamp } else q) }) ∧
    ((∀ p ∈ f.packets, p.lost < 64 ∨ p.promoted ≠ none) →
      ((∀ i p, ¬ EligibleAt s port i p) → exec (.fabricGrant port) s = .next s) ∧
      ((∃ i p, EligibleAt s port i p ∧ p.promoted ≠ none) → ∃ t i p a, exec (.fabricGrant port) s = .next t ∧
        granted t i p ∧ p.promoted = some a ∧
        ∀ j q b, EligibleAt s port j q → q.promoted = some b → a < b ∨ a = b ∧ p.chan ≤ q.chan) ∧
      (∀ c, c < 4 → (∀ i p, EligibleAt s port i p → p.promoted = none ∧ p.chan < 4) → (∃ i p, EligibleAt s port i p ∧ p.chan = c) →
        f.chan ≤ c → 0 < weightOf f c → (f.chan = c → f.granted < weightOf f c) →
        (∀ k, f.chan ≤ k → k < c →
          (∀ i p, EligibleAt s port i p → p.chan ≠ k) ∨ weightOf f k = 0 ∨ (k = f.chan ∧ weightOf f k ≤ f.granted)) →
        ∃ t i p, exec (.fabricGrant port) s = .next t ∧ granted t i p ∧ p.chan = c ∧ (t.fabric port).chan = c ∧
        (t.fabric port).granted = (if f.chan = c then f.granted else 0) + 1 ∧
        ∀ j q, EligibleAt s port j q → q.chan = c → q.input < 2 ^ 32 → p.input < 2 ^ 32 → f.inputs.get 0 c < 2 ^ 32 →
          (p.input + 2 ^ 32 - f.inputs.get 0 c) % 2 ^ 32 ≤ (q.input + 2 ^ 32 - f.inputs.get 0 c) % 2 ^ 32))

/-- R259, R260, R266, R273 and R300: CONGESTION_INTERVAL raises a cluster's level to the target of its samples at once, or
lowers it by one; THROTTLE_ROTATION moves a group that has held permission for 64 cycles to the back of its slot's list;
SPILL_ENGINE_FILL brings, of unpoisoned memory, the topmost spilled token or return entry back under the hardware's. -/
def Sys2Proof.Machine.Rules.ThrottleAndSpillEngine : Prop :=
  (∀ (s : State) (cl : Nat), cl < 32 → 256 ≤ (s.cluster cl).samples →
    let c := s.cluster cl
    ∃ t, exec (.congestionInterval cl) s = .next t ∧ t = { s with clusters := t.clusters, slots := t.slots } ∧
      (∀ k, k ≠ cl → t.cluster k = s.cluster k) ∧
      t.cluster cl = { c with
        level := if c.level ≤ levelOf c.sum then levelOf c.sum else c.level - 1, sum := 0, samples := 0 } ∧
      ∀ k, ((t.slot k).rotation.map (·.1) = (s.slot k).rotation.map (·.1)) ∧ (k / 16 ≠ cl → t.slot k = s.slot k)) ∧
  (∀ (s : State) (gid c : Nat), (s.slot (slotOf gid)).rotation.find? (fun e => e.1 = gid) = some (gid, c) → c ≠ 0 →
    c + 64 ≤ s.cycle + 1 →
    ∃ t, exec (.throttleRotation gid) s = .next t ∧ t = { s with slots := t.slots } ∧
      (∀ k, k ≠ slotOf gid → t.slot k = s.slot k) ∧
      t.slot (slotOf gid) = { s.slot (slotOf gid) with rotation := (t.slot (slotOf gid)).rotation } ∧
      (t.slot (slotOf gid)).rotation.map (·.1) =
        ((s.slot (slotOf gid)).rotation.map (·.1)).filter (· ≠ gid) ++ [gid]) ∧
  (∀ (s : State) (gid pa entry leaf : Nat), let g := s.group gid
    let b := s.peekBytes (pa / 32 * 32) 32
    roomAt s pa → s.ecc = [] → s.dram (pa / 32 * 32) / 32 ∉ s.poison →
    (∀ x, s.slice.look (pa / 32) = some x → x.poison = false) →
    (g.tokens.length < 32 → g.tokSpill ≠ 0 → g.retFill = false →
      s.translate g.ctx g.super false 0 (s.tokAt gid (g.tokSpill - 1)) = .ok pa entry leaf →
      ∃ t, exec (.spillEngineFill gid) s = .next t ∧ (∀ k, k ≠ gid → t.group k = s.group k) ∧
        t.group gid = { g with tokens := g.tokens ++ [tokenOf b], tokSpill := g.tokSpill - 1 } ∧ t.mem = s.mem) ∧
    (g.tokFill = false → g.rets.length < 32 → g.retSpill ≠ 0 →
      s.translate g.ctx g.super false 0 (s.retAt gid (g.retSpill - 1)) = .ok pa entry leaf →
      ∃ t, exec (.spillEngineFill gid) s = .next t ∧ (∀ k, k ≠ gid → t.group k = s.group k) ∧
        t.group gid = { g with
          rets := g.rets ++ [⟨BitVec.ofNat 64 (field b 63 0), field b 127 96, field b 159 128, field b 191 160,
            field b 199 192⟩],
          retSpill := g.retSpill - 1 } ∧ t.mem = s.mem))

/-- FabricArbitrates and ThrottleAndSpillEngine (above), together. -/
def Obligations.FabricThrottleAndSpill : Prop :=
  FabricArbitrates ∧ ThrottleAndSpillEngine

/-! ### Launches (R253, R257, R275, R276, R313 to R326) -/

namespace Sys2Proof.Machine.Rules

/-- A group at its first instruction (R77, R253): all lanes active at the descriptor's entry, g0 the argument address,
every other register, predicate and row zero, the window all its rows. -/
structure FirstInstruction (g : Group) (x : Launch) (rows : Nat) : Prop where
  live : g.live = true ∧ g.retiring = false ∧ g.exited = 0
  split : (g.split 0).live = true ∧ (g.split 0).pc = BitVec.ofNat 64 (field x.descBytes 63 0) ∧
    (g.split 0).mask = 0xFFFF_FFFF ∧ (g.split 0).wait = .none ∧ ∀ k, k ≠ 0 → (g.split k).live = false
  args : ∀ n, g.gReg n = if n = 0 then x.args else 0
  zero : ∀ k, g.rows.get 0 k = 0 ∧ g.o.get 0 k = 0 ∧ g.l.get 0 k = 0 ∧ (k ≠ 0 → g.p.get 0 k = 0)
  emptyStacks : g.tokens = [] ∧ g.rets = [] ∧ g.accs = [] ∧ g.pending = [] ∧ g.traps = [] ∧ g.handler = none
  window : g.winBase = 0 ∧ g.winSize = rows ∧ g.phys.length = rows
  launch : g.ctx = x.ctx ∧ g.prio = x.prio ∧ g.super = x.super ∧ g.shape = x.shape ∧ g.bucket = x.bucket
  status : g.fpflags = 0 ∧ g.fpmode = 0 ∧ g.stallchk = 0 ∧ g.trapMask = 0 ∧ g.stepen = 0 ∧ g.cancelled = 0

/-- A group after a relay commit, where the mask says nothing else (R226): at the successor's entry, flags, mode, ports, batch
counters and both stacks as at a first instruction, no handler, no split but the first. -/
structure Succeeds (g : Group) (x : Launch) : Prop where
  live : g.live = true ∧ g.retiring = false ∧ g.exited = 0 ∧ g.relay = none ∧ g.handler = none
  split : (g.split 0).pc = BitVec.ofNat 64 (field x.descBytes 63 0) ∧ (g.split 0).mask = 0xFFFF_FFFF ∧
    (g.split 0).wait = .none ∧ (g.split 0).parked = false ∧ ∀ k, k ≠ 0 → (g.split k).live = false
  args : ∀ n, g.gReg n = if n = 0 then x.args else 0
  latches : ∀ k, g.l.get 0 k = 0
  window : g.winSize = field x.descBytes 111 96 ∧ g.winBase = 0
  status : g.fpflags = 0 ∧ g.fpmode = 0 ∧ g.stepen = 0 ∧ g.fresh = []
  ports : ∀ i, g.port i = {}
  batches : (∀ e, g.last.get 0 e = 0) ∧ g.unfenced = [] ∧ ∀ b ∈ g.batches, b.gone = true
  emptyStacks : g.tokens = [] ∧ g.tokSpill = 0 ∧ g.rets = [] ∧ g.retSpill = 0
  launch : g.ctx = x.ctx ∧ g.prio = x.prio ∧ g.shape = x.shape ∧ g.bucket = x.bucket

/-- The trap of a relay that fails, at its RELAY (R225): cause 0x30 with a sub-code. -/
def RelayTrap (s t : State) (gid sub : Nat) : Prop :=
  (t.group gid).relay = none ∧ (t.group gid).trapInfo = BitVec.ofNat 64 sub ∧
  (∃ h, (t.group gid).handler = some h ∧ h.cause = 0x30 ∧ h.split = 0) ∧
  (t.group gid).trapPc = ((s.group gid).split 0).pc ∧
  ((t.group gid).split 0).pc = (s.ctx (s.group gid).ctx).trapvec

/-- That trap is delivered at once to a group of one split that waits in its RELAY. -/
structure RelayDeliverable (s : State) (g : Group) (gid : Nat) : Prop where
  queue : g.handler = none ∧ g.traps = []
  split : g.liveSplits = [0] ∧ (g.split 0).parked = false ∧ (g.split 0).wait = .relay
  noWaiter : s.waiters = [] ∧ (s.slot (slotOf gid)).claims = []
  context : (s.ctx g.ctx).halted = false ∧ (s.ctx g.ctx).trapvec ≠ 0

/-- A register row a RELAY mask inherits (R224). -/
def keepsRow (m : DWord) (r : Nat) : Bool := r < 256 && m.getLsbD (r / 32)

end Sys2Proof.Machine.Rules

/-- R275, R276, R314, R316, R317, R320 and R321: MANIFEST_INTAKE takes the head of a launch queue whose manifest passed the
checks, with its open dependences, and completes a refused one at once with its status, which arrives at its muster whatever
level MLEVEL names; WORKGROUP_PLACEMENT starts the
next workgroup of the first candidate that fits, its groups on the slots that follow the base slot, each at its
first instruction. The model's choices here: which launches are candidates (logs 51, 65), the L1 of the core loses its clean
lines at the placement (log 73), and the spill areas (log 13). -/
def Sys2Proof.Machine.Rules.LaunchesStart : Prop :=
  (∀ (s u : State) (ctx q pa : Nat) (k : Checked) (live : Bool), ctx < 8 → (s.ctx ctx).halted = false →
    q = 16 ∨ q < 16 ∧ (s.ctx ctx).intake = q → s.visit ctx q = (u, .take k pa live) → k.launch.ctx = ctx →
    pa % 64 = 0 → roomAt u pa → (u.qRead pa).owner < 8 → (u.qRead pa).free < 2 ^ 31 →
    let b := u.qRead pa
    let open' := fun id => id ∈ k.dep.map (BitVec.ofNat 32) ∧
      ∃ c, (u.ctx ctx).counter 0 id = some c ∧ c.complete = false
    (k.code = 0 → live = false → (∀ c ∈ (u.ctx ctx).counters, c.cancelled = false) → ∃ t, exec (.manifestIntake ctx q) s = .next t ∧
      t.qRead pa = { b with head := (b.head + 1) % 2 ^ 32, free := b.free + 1 } ∧
      t.launch u.ids = { k.launch with deps := (t.launch u.ids).deps } ∧ (∀ id, id ∈ (t.launch u.ids).deps ↔ open' id) ∧
      (∀ l, l ≠ u.ids → t.launch l = u.launch l) ∧ t.groups = u.groups ∧
      (k.launch.lcid ≠ 0 → (u.ctx ctx).counter 0 k.launch.lcid = none →
        ∃ c, (t.ctx ctx).counter 0 k.launch.lcid = some c ∧ c.expect = k.launch.grid ∧ c.done = 0 ∧ c.launches = [u.ids])) ∧
    (k.code ≠ 0 → k.launch.status = 0 → k.launch.muster ≠ 0 →
      (live = false → k.launch.lcid ≠ 0 → (u.ctx ctx).counter 0 k.launch.lcid = none) →
      (∀ c ∈ (u.ctx ctx).counters, u.ids ∉ c.launches) → ∃ t, exec (.manifestIntake ctx q) s = .next t ∧
      t.qRead pa = { b with head := (b.head + 1) % 2 ^ 32, free := b.free + 1 } ∧ t.launches.look u.ids = none ∧
      ({ addr := k.launch.muster, ctx := ctx, count := 1, status := k.code } : Arrival) ∈ t.arrivals ∧ t.groups = u.groups ∧ t.wgs = u.wgs)) ∧
  (∀ (s : State) (core l c b : Nat) (x : Launch) (t0 : State), s.launches.look l = some x → x.again = [] →
    s.candidates.find? (fun e => s.fitsNow e.1 e.2) = some (l, x) → s.savedOf l = [] → c < 128 →
    s.whereTo core l x = some [(c, b)] → State.startAll l [(c, b)] (s.passOver l x) = some t0 →
    ∃ t, exec (.workgroupPlacement core) s = .next t ∧
      let n := field x.descBytes 119 112
      let rows := field x.descBytes 111 96
      let w := t.wg s.ids
      t.launch l = { x with next := x.next + 1 } ∧
      w.ctx = x.ctx ∧ w.launch = l ∧ w.core = c ∧ w.base = b ∧ w.wgid = x.next ∧ w.ngrp = n ∧
      w.sgran = field x.descBytes 127 120 ∧ w.restartable = true ∧
      (∀ k, w.sp.get 0 k = 0 ∧ w.isFull k = false ∧ w.tiles.get 0 k = 0 ∧ w.accs.get 0 k = 0) ∧
      (∀ e ∈ (t.core c).l1, e.2.dirty = true) ∧ w.groups.length = n ∧ t.mem = s.mem ∧
      ∀ i, i < n → ∃ gid, w.groups[i]? = some gid ∧ slotOf gid = c * 4 + (b + i) % 4 ∧
        (s.group gid).live = false ∧ (t.group gid).idx = i ∧ (t.group gid).wg = s.ids ∧ FirstInstruction (t.group gid) x rows)

/-- R138, R276, R321 to R323: GROUP_RETIREMENT of a workgroup's last group frees the group's and the workgroup's place and
counts it complete, with status 1 if it was cancelled; LAUNCH_COMPLETION removes a launch whose workgroups are all
counted, arrives at the musters of its levels and releases its dependents; CANCEL_GRACE_EXPIRY retires every resident
group of a cancelled level. When a graph or job is complete and which musters it arrives at is the model's choice (log 52). -/
def Sys2Proof.Machine.Rules.LaunchesEnd : Prop :=
  (∀ (s : State) (gid : Nat),
    let g := s.group gid
    let w := s.wg g.wg
    let x := s.launch w.launch
    g.live = true → g.retiring = true → g.accs = [] → s.engineWork gid = false → s.mayWork g.ctx (slotOf gid) = true →
    s.wgLive g.wg = [gid] → w.barred = [] → s.xchgs = [] → (s.slot (slotOf gid)).claims = [] →
    ∃ t, exec (.groupRetirement gid) s = .next t ∧ t.groups.look gid = none ∧ t.wgs.look g.wg = none ∧
      (t.launch w.launch).done = x.done + 1 ∧
      (t.launch w.launch).status = max x.status (if w.cancelled = true ∨ g.cancelled.getLsbD 0 = true then 1 else 0) ∧
      (∀ c ∈ (t.ctx x.ctx).counters, ∃ c0 ∈ (s.ctx x.ctx).counters, c.level = c0.level ∧ c.id = c0.id ∧
        c.done = c0.done + (if w.launch ∈ c0.launches then 1 else 0)) ∧
      (∀ k, k ≠ g.wg → t.wg k = s.wg k) ∧ ∀ k, k < 8192 → k ≠ gid → gid < 8192 → t.group k = s.group k) ∧
  (∀ (s : State) (l : Nat) (x : Launch), s.launches.look l = some x → x.grid ≤ x.done → x.grid ≠ 0 ∨ x.deps = [] →
    s.mayWork x.ctx 808 = true → ∃ t, exec (.launchCompletion l) s = .next t ∧ t.launches.look l = none ∧
      (∀ c ∈ (s.ctx x.ctx).counters, c.launches = [l] → c.ended = true → c.complete = false → ∀ m ∈ c.musters,
        ({ addr := m, ctx := x.ctx, count := 1, status := c.status } : Arrival) ∈ t.arrivals) ∧
      (∀ j y, j ≠ l → s.launches.look j = some y → ∃ z, t.launches.look j = some z ∧
        z = { y with deps := if y.ctx = x.ctx ∧ x.lcid ≠ 0 then y.deps.filter (· ≠ x.lcid) else y.deps }) ∧
      t.groups = s.groups ∧ t.wgs = s.wgs) ∧
  (∀ (s : State) (ctx level : Nat) (id : BitVec 32) (k : Counter) (τ : Nat), id ≠ 0 →
    (s.ctx ctx).counters.find? (fun c => c.level = level && c.id = id) = some k → k.graceEnd = some τ → τ ≤ s.time →
    ∃ t, exec (.cancelGraceExpiry ctx level id) s = .next t ∧
      (∀ gid g, s.groups.look gid = some g → g.live = true → g.retiring = false → (s.wg g.wg).launch ∈ k.launches →
        (t.group gid).retiring = true ∧ (t.group gid).splits = [] ∧ (t.group gid).exited = 0xFFFF_FFFF) ∧
      (∀ gid g, s.groups.look gid = some g → g.live = false ∨ (s.wg g.wg).launch ∉ k.launches → t.group gid = s.group gid) ∧
      ∀ v ∈ t.saved, v.wg.launch ∉ k.launches)

/-- LaunchesStart and LaunchesEnd (above), together. -/
def Obligations.LaunchesStartAndEnd : Prop :=
  LaunchesStart ∧ LaunchesEnd

/-- R225, R226, R325: RELAY_COMMIT of a workgroup whose relay passes the checks and has room: each relayed group goes on at
the successor's entry with the rows, o registers and predicates its mask inherits, and FPFLAGS, FPMODE, ports, batch counters
and stacks as at a first instruction; the workgroup counts for the successor, and the predecessor counts it complete. A
manifest that breaks a rule of R225 or R325 raises trap 0x30 at the RELAY. That the successor keeps TRAPMASK and STALLCHK, and
which sub-code comes first, are the model's choices (log 50). -/
def Obligations.RelaysCommit : Prop :=
  ∀ (s u : State) (wi gid : Nat) (a m : DWord) (bs : List Byte),
    let w := s.wg wi
    s.relayReady wi = true → s.mayWork w.ctx 808 = true → w.preempt = none → w.cancelled = false →
    s.wgLive wi = [gid] → w.groups = [gid] → w.ngrp = 1 → (s.group gid).live = true → (s.group gid).wg = wi →
    (s.group gid).relay = some (a, m) → (s.group gid).cancelled = 0 → (s.group gid).relayTrap = none →
    s.distRead w.ctx false a.toNat 128 = (u, .ok bs) →
    (field bs 964 964 ≠ 1 ∨ field bs 970 968 ≠ 0 ∨ field bs 975 972 ≠ 0 → RelayDeliverable u (u.group gid) gid →
      ∃ t, exec (.relayCommit wi) s = .next t ∧ RelayTrap u t gid 4) ∧
    ∀ (v : State) (k : Checked), field bs 964 964 = 1 → field bs 970 968 = 0 → field bs 975 972 = 0 →
    u.checkManifest w.ctx false bs = (v, .ok k) →
    (∀ t, v.relaySub wi bs k = 0 → v.commitRelay wi k.launch = some t → v.successor k.launch = none →
      (v.ctx w.ctx).counters.length + (v.ctx w.ctx).newCounters k.launch ≤ 4096 →
      exec (.relayCommit wi) s = .next t ∧ (t.group gid).wg = wi ∧ Succeeds (t.group gid) k.launch ∧
      (∀ r lane, lane < 32 → (t.group gid).rows.get 0 (r * 32 + lane) =
        if keepsRow m r then (s.group gid).rows.get 0 (r * 32 + lane) else 0) ∧
      (∀ j, (t.group gid).o.get 0 j = if m.getLsbD 36 then (s.group gid).o.get 0 j else 0) ∧
      (∀ j, (t.group gid).p.get 0 j = if m.getLsbD 37 then (s.group gid).p.get 0 j else 0) ∧
      (t.group gid).trapMask = (s.group gid).trapMask ∧ (t.group gid).stallchk = (s.group gid).stallchk ∧
      (∀ j, (t.wg wi).sp.get 0 j = if m.getLsbD (20 + j / 16384) then w.sp.get 0 j else 0) ∧
      (∀ j, (t.wg wi).tiles.get 0 j = if m.getLsbD (12 + j / 16384) then w.tiles.get 0 j else 0) ∧
      (∀ j, (t.wg wi).accs.get 0 j = if m.getLsbD (8 + j / 16384) then w.accs.get 0 j else 0) ∧
      (t.wg wi).wgid = w.wgid ∧ (t.wg wi).restartable = false ∧ (t.launch (t.wg wi).launch).relay = true ∧
      (w.launch ≠ v.ids → (t.launch w.launch).done = (v.launch w.launch).done + 1)) ∧
    (v.relaySub wi bs k ≠ 0 → RelayDeliverable v (v.group gid) gid →
      ∃ t, exec (.relayCommit wi) s = .next t ∧ RelayTrap v t gid (v.relaySub wi bs k))

/-! ### Pre-emption (R312, R327 to R330) -/

namespace Sys2Proof.Machine.Rules

/-- A group of the workgroup is inside its handler or has a TRAPMASK bit set (R327). -/
abbrev handlerHeld (s : State) (wi : Nat) : Prop :=
  ∃ i ∈ (s.wg wi).groups, (s.group i).live = true ∧ (s.group i).wg = wi ∧
    ((s.group i).handler ≠ none ∨ (s.group i).trapMask ≠ 0)

/-- The method of a workgroup by the first row of R327 that applies: 1 drain, 2 flush-and-restart, 3 save. -/
abbrev Method (s : State) (wi m : Nat) : Prop :=
  let w := s.wg wi
  let x := s.launch w.launch
  let elapsed := w.elapsed + (s.time - w.started)
  let drain := (s.ctx w.ctx).drain * 1000
  (handlerHeld s wi ∨ x.meanN = 0 → m = 3) ∧
  (¬ handlerHeld s wi → x.meanN ≠ 0 →
    (x.meanSum ≤ (elapsed + drain) * x.meanN → m = 1) ∧
    ((elapsed + drain) * x.meanN < x.meanSum →
      m = if w.idem = true ∧ w.restartable = true ∧ elapsed * x.meanN < x.meanSum then 2 else 3))

/-- Some workgroup of a launch is saved by a request of a context. -/
abbrev savesOne (s : State) (ctx launch : Nat) : Prop :=
  ∃ e ∈ s.wgs, e.2.ctx = ctx ∧ e.2.preempt = none ∧ (s.wg e.1).launch = launch ∧ Method s e.1 3

/-- A group in a save record: every register, row, return entry, port, trap and mode is the group's; of a split its place,
mask and parking are. Its tokens stand beside it (R260). -/
def Recorded (g v : Group) : Prop :=
  v = { g with splits := v.splits, tokens := [], accs := v.accs, pending := v.pending, deferred := v.deferred,
               fresh := [], fpflags := v.fpflags } ∧
  ∀ k, (v.split k).live = (g.split k).live ∧ (v.split k).pc = (g.split k).pc ∧ (v.split k).mask = (g.split k).mask ∧
    (v.split k).parked = (g.split k).parked ∧ (v.split k).parkPc = (g.split k).parkPc

/-- The groups of a workgroup wait at no queue, muster or CLAIM and have no XCHG under way. -/
abbrev waitsForNone (s : State) (wi : Nat) : Prop :=
  (∀ q ∈ s.waiters, q.gid ∉ (s.wg wi).groups) ∧ (∀ q ∈ s.xchgs, q.gid ∉ (s.wg wi).groups) ∧
    ∀ k, (s.slot k).claims = []

/-- A core's L1 has been written back (R281, R293, R330): each of its dirty sectors reads at its home as the L1 held it, and every
sector that it did not hold dirty as before, where no two of the sectors held share their place in DRAM. -/
def WrittenBack (s t : State) (core : Nat) : Prop :=
  let held := (s.core core).l1.keys ++ s.slice.keys
  let alone := fun sec => ∀ k ∈ held, s.dram (k * 32) / 32 = s.dram (sec * 32) / 32 → k = sec
  (∀ sec ∈ held, alone sec) → ∀ sec, alone sec → match (s.core core).l1.look sec with
    | some x => if x.dirty = true then t.peekSector sec = x.data else
        (∀ y, s.slice.look sec = some y → y.dirty = true) → t.peekSector sec = s.peekSector sec
    | none => (∀ y, s.slice.look sec = some y → y.dirty = true) → t.peekSector sec = s.peekSector sec

end Sys2Proof.Machine.Rules

/-- R327 and R329: PREEMPTION_REQUEST chooses a method for every resident workgroup of the context and starts the deadline;
DRAIN_EXPIRY turns a drain into a save, for an all-resident launch into a save of all; PREEMPTION_DEADLINE halts the
context with cause 0xC4. That a second request keeps the first deadline and the methods chosen, and that an expired drain of an
all-resident launch saves all of it, are the model's choices (log 63). -/
def Obligations.PreemptionIsDecided : Prop :=
  (∀ (s : State) (ctx : Nat), ctx < 8 → (s.ctx ctx).halted = false → s.power.entering = false →
    ∃ t, exec (.preemptionRequest ctx) s = .next t ∧ t = { s with wgs := t.wgs, ctxs := t.ctxs } ∧
      (∀ wi w, s.wgs.look wi = some w → w.ctx = ctx →
        (t.ctx ctx).preemptEnd = some ((s.ctx ctx).preemptEnd.getD (s.time + (s.ctx ctx).deadline * 1000)) ∧
        (w.preempt = none → ∃ m n, Method s wi m ∧
          t.wg wi = { w with preempt := some (n, s.time + (s.ctx ctx).drain * 1000) } ∧
          ((s.launch w.launch).allres = true ∧ savesOne s ctx w.launch → n = 3) ∧
          (¬ ((s.launch w.launch).allres = true ∧ savesOne s ctx w.launch) → n = m))) ∧
      (∀ wi, (∀ e ∈ s.wgs, e.1 = wi → e.2.ctx ≠ ctx ∨ e.2.preempt ≠ none) → t.wg wi = s.wg wi) ∧
      (∀ k, k ≠ ctx → t.ctx k = s.ctx k) ∧
      t.ctx ctx = { s.ctx ctx with preemptEnd := (t.ctx ctx).preemptEnd }) ∧
  (∀ (s : State) (wi n : Nat),
    let w := s.wg wi
    w.preempt = some (1, n) → n ≤ s.time → s.mayWork w.ctx 808 = true →
    ∃ t, exec (.drainExpiry wi) s = .next t ∧ t = { s with wgs := t.wgs } ∧
      (∃ k, t.wg wi = { w with preempt := some (3, k) }) ∧
      ((s.launch w.launch).allres = false → ∀ k, k ≠ wi → t.wg k = s.wg k) ∧
      ((s.launch w.launch).allres = true → ∀ k v, s.wgs.look k = some v → v.launch = w.launch → v.preempt ≠ none →
        ∃ j, t.wg k = { v with preempt := some (3, j) })) ∧
  (∀ (s : State) (ctx n : Nat),
    let c := s.ctx ctx
    c.preemptEnd = some n → n ≤ s.time → c.halted = false → s.power.entering = false →
    ∃ t, exec (.preemptionDeadline ctx) s = .next t ∧ t = { s with ctxs := t.ctxs } ∧
      (∀ k, k ≠ ctx → t.ctx k = s.ctx k) ∧ (t.ctx ctx).halted = true ∧ (t.ctx ctx).debugHalt = false ∧
      (t.ctx ctx).live = false ∧ (t.ctx ctx).cause = 0xC4 ∧ (t.ctx ctx).haltTime = s.time ∧
      (t.ctx ctx).preemptEnd = none)

/-- R327, R329, R330 and R312: FLUSH_AND_RESTART discards a workgroup whose batches are complete: its WGID is unplaced again,
its groups are gone, nothing is counted and memory stays; the WGIDs to be placed again ascend (R313). WORKGROUP_SAVE records the workgroup and every group and
frees its places; its core's L1 is written back: each dirty sector reads at its home as the L1 held it, and no other sector's
bytes change (where no two of these sectors share their place in DRAM). The layout of the record (log 14), what it keeps of
waits, replies and commands under way (log 64) and the order of placement after a flush (log 65) are the model's choices. -/
def Sys2Proof.Machine.Rules.WorkgroupsAreFlushedAndSaved : Prop :=
  ∀ (s : State) (wi m n : Nat),
    let w := s.wg wi
    let x := s.launch w.launch
    w.preempt = some (m, n) →
    (m = 2 → s.mayWork w.ctx 808 = true → (∀ i ∈ w.groups, s.engineWork i = false ∧ (s.group i).accs = []) → waitsForNone s wi →
      (∀ c ∈ (s.ctx w.ctx).counters, c.cancelled = false) →
      ∃ t, exec (.flushAndRestart wi) s = .next t ∧ t.wgs.look wi = none ∧
        (∃ cores, t.launch w.launch = { x with again := x.again.filter (· < w.wgid) ++ w.wgid :: x.again.filter (w.wgid < ·), cores := cores }) ∧
        (∀ k, k ≠ w.launch → t.launch k = s.launch k) ∧ (∀ k, (t.ctx k).counters = (s.ctx k).counters) ∧
        (∀ i ∈ w.groups, i < 8192 → (s.group i).live = true → (s.group i).wg = wi → t.groups.look i = none) ∧
        (∀ k, k < 8192 → k ∉ w.groups → t.group k = s.group k) ∧ (∀ k, k ≠ wi → t.wg k = s.wg k) ∧
        t.mem = s.mem ∧ t.slice = s.slice ∧
        ∀ k, t.core k = { s.core k with hold := (t.core k).hold } ∧
          ∀ h, (t.core k).hold = some h ↔ (s.core k).hold = some h ∧ ¬ (h.gid ∈ s.wgLive wi ∧ coreOf h.gid = k)) ∧
    (m = 3 → s.mayWork w.ctx 808 = true ∨ s.power.entering = true ∧ (s.ctx w.ctx).debugHalt = true →
      s.saveReady wi s.power.entering = true → s.wgLive wi ≠ [] →
      ∃ t v, exec (.workgroupSave wi) s = .next t ∧ t.saved = s.saved ++ [v] ∧
        v.wg = { w with elapsed := w.elapsed + (s.time - w.started), groups := [], barred := [], preempt := none,
                        want := none } ∧
        v.power = s.power.entering ∧ v.groups.length = (s.wgLive wi).length ∧
        (∀ i ∈ w.groups, (s.group i).live = true → (s.group i).wg = wi →
          (∃ e ∈ v.groups, e.1 = (s.group i).idx ∧ Recorded (s.group i) e.2) ∧
          ((s.group i).idx, (s.group i).tokens.map Token.pack) ∈ v.tokens ∧
          (∀ k ∈ (s.core w.core).copies, k.gid = i → { k.unstaged with gid := (s.group i).idx } ∈ v.copies) ∧
          (∀ k ∈ (s.core w.core).matrix, k.gid = i →
            { k with gid := (s.group i).idx, started := false, phase := 0, pass := 0 } ∈ v.matrix) ∧
          (∀ k ∈ (t.core w.core).copies, k.gid ≠ i) ∧ (∀ k ∈ (t.core w.core).matrix, k.gid ≠ i) ∧
          ∀ k ∈ (t.core w.core).near, k.gid ≠ i) ∧
        t.wgs.look wi = none ∧ (∀ k y, (t.core w.core).l1.look k = some y → y.dirty = false) ∧
        (waitsForNone s wi → WrittenBack s t w.core) ∧
        (t.launch w.launch).done = x.done ∧ (t.launch w.launch).next = x.next ∧
        (waitsForNone s wi → (∀ k, k ≠ wi → t.wg k = s.wg k) ∧ ∀ k, k < 8192 →
          (k ∈ w.groups → (s.group k).live = true → (s.group k).wg = wi → t.groups.look k = none) ∧
          (k ∉ w.groups → t.group k = s.group k)))

/-- R319, R320 and R330: WORKGROUP_RESTORE places the first saved workgroup of the first candidate that fits: the record's
workgroup on the new core and base slot, each of its groups on the slot that follows, with as many new rows, its
registers, stacks, ports, traps and handler; the copies it had left go on; the core's clean L1 sectors are gone (no trap of
theirs waits only for its delivery). Which saved workgroup comes first is the model's choice (log 65). -/
def Sys2Proof.Machine.Rules.WorkgroupsAreRestored : Prop :=
  ∀ (s : State) (core l c b : Nat) (x : Launch) (v : Saved) (vs : List Saved) (t0 : State),
    s.candidates.find? (fun e => s.fitsNow e.1 e.2) = some (l, x) → s.savedOf l = v :: vs →
    s.whereTo core l x = some [(c, b)] → State.resumeAll l [(c, b)] (s.passOver l x) = some t0 →
    (v.groups.map (·.1)).Nodup → (∀ e ∈ v.groups, e.1 < v.wg.ngrp) → c < 128 →
    (∀ e ∈ v.groups, e.2.handler ≠ none ∨ ∀ x ∈ e.2.traps, e.2.masks x.cause = true) →
    ∃ t, exec (.workgroupRestore core) s = .next t ∧
      let w := t.wg s.ids
      t.saved = s.saved.erase v ∧
      w = { v.wg with core := c, base := b, started := s.time, groups := w.groups, barred := w.barred } ∧
      w.groups.length = v.wg.ngrp ∧ t.launch l = s.launch l ∧ t.mem = s.mem ∧
      (∀ e ∈ v.groups, ∃ gid, w.groups[e.1]? = some gid ∧ slotOf gid = c * 4 + (b + e.1) % 4 ∧
        (s.group gid).live = false ∧ (t.group gid).live = true ∧ (t.group gid).phys.length = e.2.alloc ∧
        (t.group gid).tokens = (((v.tokens.find? (fun q => q.1 = e.1)).map (·.2)).getD []).map Token.unpack ∧
        t.group gid = { e.2 with
          live := true, tokens := (t.group gid).tokens, idx := e.1, wg := s.ids, phys := (t.group gid).phys, since := s.cycle,
          splits := (t.group gid).splits, accs := (t.group gid).accs, pending := (t.group gid).pending,
          deferred := (t.group gid).deferred } ∧
        (∀ k, ((t.group gid).split k).live = (e.2.split k).live ∧ ((t.group gid).split k).pc = (e.2.split k).pc ∧
          ((t.group gid).split k).mask = (e.2.split k).mask ∧ ((t.group gid).split k).wait = (e.2.split k).wait) ∧
        (∀ k ∈ v.copies, k.gid = e.1 → { k with gid := gid, wg := s.ids } ∈ (t.core c).copies)) ∧
      (∀ e ∈ (t.core c).l1, e.2.dirty = true) ∧ (∀ k, k ≠ s.ids → t.wg k = s.wg k)

/-- WorkgroupsAreFlushedAndSaved and WorkgroupsAreRestored (above), together. -/
def Obligations.WorkgroupsMove : Prop :=
  WorkgroupsAreFlushedAndSaved ∧ WorkgroupsAreRestored

/-! ### Halts, stop records and debugging (R262, R375 to R379) -/

namespace Sys2Proof.Machine.Rules

/-- The 8-byte word of an engine's stop record (R27, R377). -/
def stopWord (s : State) (ctx engine j : Nat) : DWord := s.blockWord ctx (0x2000 + 8 * engine + j)

/-- The halt line of a context has risen (R376): a fatal halt with its cause, or a debug halt; every engine that holds
work has still to stop. Nothing but the context has changed. -/
structure LineRaised (s t : State) (ctx : Nat) (debug : Bool) (cause : BitVec 8) : Prop where
  halted : (t.ctx ctx).halted = true ∧ (t.ctx ctx).debugHalt = debug ∧ (t.ctx ctx).haltTime = s.time
  fatal : debug = false → (t.ctx ctx).cause = cause ∧ (t.ctx ctx).live = false
  debug : debug = true → (t.ctx ctx).cause = (s.ctx ctx).cause ∧ (t.ctx ctx).live = (s.ctx ctx).live
  slots : ∀ gid g, s.groups.look gid = some g → g.live = true → g.ctx = ctx → slotOf gid ∈ (t.ctx ctx).stopping
  copies : ∀ n c k, s.cores.look n = some c → k ∈ c.copies → k.ctx = ctx → 640 + n ∈ (t.ctx ctx).stopping
  matrix : ∀ n c k, s.cores.look n = some c → k ∈ c.matrix → (s.wg k.wg).ctx = ctx → 512 + n ∈ (t.ctx ctx).stopping
  near : ∀ n c k, s.cores.look n = some c → k ∈ c.near → k.ctx = ctx → 768 + k.stack ∈ (t.ctx ctx).stopping
  distributor : ∀ l x, s.launches.look l = some x → x.ctx = ctx → 808 ∈ (t.ctx ctx).stopping
  tables : ∀ k, (t.ctx ctx).root = (s.ctx ctx).root ∧ (t.ctx ctx).counters = (s.ctx ctx).counters ∧
    (k < 0x2000 ∨ 0x4000 ≤ k → (t.ctx ctx).tables.get 0 k = (s.ctx ctx).tables.get 0 k)
  others : ∀ k, k ≠ ctx → t.ctx k = s.ctx k
  device : t = { s with ctxs := t.ctxs, groups := t.groups }

end Sys2Proof.Machine.Rules

/-- R375, R378 and R379: CONTEXT_HALT raises the halt line with its cause; a later event leaves the cause of a fatal halt and
turns a debug halt into a fatal one. DEBUG_HALT_REQUEST makes a debug halt under DBGEN, with DBGFOCUS of every group
at the split that issued last, and otherwise a halt of cause 0xC3. -/
def Sys2Proof.Machine.Rules.HaltLinesRise : Prop :=
  (∀ (s : State) (ctx : Nat) (cause : BitVec 8) (a : BitVec 64) (engine : Nat), ctx < 8 → 0xC0 ≤ cause → cause ≤ 0xC4 →
    ((s.ctx ctx).halted = false ∨ (s.ctx ctx).debugHalt = true → ∃ t, exec (.contextHalt ctx cause a engine) s = .next t ∧
      LineRaised s t ctx false cause ∧ t.groups = s.groups ∧ (t.ctx ctx).faddrs = [(engine, a)] ∧
      (t.ctx ctx).origin = engine ∧ (engine ≤ 808 → engine ∈ (t.ctx ctx).stopping)) ∧
    ((s.ctx ctx).halted = true → (s.ctx ctx).debugHalt = false →
      ∃ t, exec (.contextHalt ctx cause a engine) s = .next t ∧ t = { s with ctxs := t.ctxs } ∧
        (∀ k, k ≠ ctx → t.ctx k = s.ctx k) ∧
        t.ctx ctx = { s.ctx ctx with faddrs := (s.ctx ctx).faddrs ++ [(engine, a)] })) ∧
  (∀ (s : State) (ctx : Nat), (s.ctx ctx).halted = false →
    ∃ t, exec (.debugHaltRequest ctx) s = .next t ∧ LineRaised s t ctx (BitVec.getLsbD (s.ctx ctx).debug 0) 0xC3 ∧
      ∀ gid g, s.groups.look gid = some g →
        t.group gid = if BitVec.getLsbD (s.ctx ctx).debug 0 = true ∧ g.live = true ∧ g.ctx = ctx then
          { g with dbgfocus := BitVec.ofNat 32 g.lastSplit } else g)

/-- R376, R377, R379, R394: a slot issues nothing for a halted context more than 64 cycles after its halt line rose.
ENGINE_HALT_STOP writes the engine's stop record and stops the context's work there: for good at
a fatal halt, where a slot's groups issue and perform nothing more but stay resident; at a debug halt the groups keep
their accesses and waiting instructions issue anew, and STEPS is set once the engines of a stepped instruction have
stopped. CONTEXT_RELEASE by the owner frees everything of a context that has stopped. OPEN of a slot counts the accesses and
queue operations of its groups, TSTOP is the moment of the stop or the end of the 2 microseconds, and a debug stop waits for
what R184, R206 and R237 name: the model's choices (logs 66, 67). -/
def Obligations.EnginesStopAndContextsAreReleased : Prop :=
  (∀ (s : State) (slot gid sid : Nat), s.chosen slot = some (gid, sid) → (s.ctx (s.group gid).ctx).halted = true →
    s.cycle ≤ (s.ctx (s.group gid).ctx).haltCycle + 64 ∧ slotOf gid ∈ (s.ctx (s.group gid).ctx).stopping) ∧
  (∀ (s : State) (ctx engine : Nat),
    let c := s.ctx ctx
    c.halted = true → engine ∈ c.stopping → ctx < 8 → engine ≤ 808 → c.records = some c.debugHalt →
    (c.debugHalt = true → s.atDebugStop ctx engine = true) →
    ∃ t, exec (.engineHaltStop ctx engine) s = .next t ∧
      let w := stopWord t ctx engine
      ((w 0).getLsbD 0 = true ↔ engine ∈ c.held) ∧ ((w 0).getLsbD 1 = true ↔ c.origin = engine) ∧
      (w 0).getLsbD 2 = c.debugHalt ∧ (w 0).extractLsb 23 21 = BitVec.ofNat 3 ctx ∧
      (w 0).extractLsb 31 24 = (if c.debugHalt = true then 0 else c.cause) ∧
      (w 0).extractLsb 47 32 = BitVec.ofNat 16 engine ∧ (w 0).extractLsb 20 3 = 0 ∧ (w 0).extractLsb 63 48 = 0 ∧ w 1 = 0 ∧
      (w 2).extractLsb 47 0 = 0 ∧ (512 ≤ engine → w 2 = 0) ∧
      (engine < 512 → s.groups.keys.Nodup → ∀ i, i < 16 → ((w 2).getLsbD (48 + i) = true ↔
        (s.group (16 * engine + i)).live = true ∧ (s.group (16 * engine + i)).ctx = ctx)) ∧
      (w 3).extractLsb 31 0 = BitVec.ofNat 32 (s.openOps ctx engine) ∧
      (let d := (if c.debugHalt = true ∨ engine < 512 then s.time else min s.time (c.haltTime + 2000)) - c.haltTime;
        (w 3).extractLsb 63 32 = BitVec.ofNat 32 (if engine < 768 then d * s.power.clock / 1000 else 2 * d)) ∧
      w 4 = BitVec.ofNat 64 c.haltTime ∧
      w 5 = BitVec.ofNat 64 (if c.debugHalt = true ∨ engine < 512 then s.time else min s.time (c.haltTime + 2000)) ∧ w 6 = ((c.faddrs.find? (fun e => e.1 = engine)).map (·.2)).getD 0 ∧
      w 7 = (if engine < 512 then (s.slot engine).lastPc else 0) ∧
      (t.ctx ctx).stopping = c.stopping.filter (· ≠ engine) ∧ (t.ctx ctx).halted = true ∧ (t.ctx ctx).cause = c.cause ∧
      (∀ n, c.steps = some n → (t.ctx ctx).stopping = [] →
        (t.ctx ctx).debug = (c.debug &&& 0x0000_FFFF_FFFF_FFFF) ||| BitVec.ofNat 64 (n * 2 ^ 48)) ∧
      (c.steps = none ∨ (t.ctx ctx).stopping ≠ [] → (t.ctx ctx).debug = c.debug) ∧
      (∀ k, k ≠ ctx → t.ctx k = s.ctx k) ∧ (s.waiters = [] → engine ≠ 808 → t.mem = s.mem ∧ t.slice = s.slice) ∧
      ∀ gid g, s.groups.look gid = some g → g.live = true → g.ctx = ctx → slotOf gid = engine →
        (c.debugHalt = false → (t.group gid).splits = [] ∧ (t.group gid).accs = [] ∧ (t.group gid).traps = [] ∧
          (t.group gid).live = true ∧ (t.group gid).phys = g.phys) ∧
        (c.debugHalt = true → (t.group gid).accs = g.accs ∧ (t.group gid).dbgfocus = BitVec.ofNat 32 g.lastSplit ∧ ∀ k, (t.group gid).split k =
          match (g.split k).wait with
          | .bar | .relay => g.split k
          | _ => { g.split k with wait := .none, pend := none })) ∧
  (∀ (s : State) (ctx : Nat),
    let c := s.ctx ctx
    c.halted = true → c.debugHalt = false → c.stopping = [] → s.xchgs = [] →
    (∀ e ∈ s.searches, e.2.ctx = ctx → e.2.admitted = false) →
    ∃ t, exec (.contextRelease s.owner ctx) s = .next t ∧
      t.ctx ctx = { c with halted := false, stopping := [], live := false, counters := [], preemptEnd := none,
                           stepReq := none } ∧
      (∀ k, k ≠ ctx → t.ctx k = s.ctx k) ∧ (∀ e, e ∈ t.groups ↔ e ∈ s.groups ∧ e.2.ctx ≠ ctx) ∧
      (∀ e, e ∈ t.wgs ↔ e ∈ s.wgs ∧ e.2.ctx ≠ ctx) ∧ (∀ e, e ∈ t.launches ↔ e ∈ s.launches ∧ e.2.ctx ≠ ctx) ∧
      (∀ v, v ∈ t.saved ↔ v ∈ s.saved ∧ v.wg.ctx ≠ ctx) ∧ (∀ e, e ∈ t.searches ↔ e ∈ s.searches ∧ e.2.ctx ≠ ctx) ∧
      (∀ n d, s.cores.look n = some d → (t.core n).copies = d.copies.filter (·.ctx ≠ ctx) ∧
        (t.core n).matrix = d.matrix.filter (fun k => (s.wg k.wg).ctx ≠ ctx) ∧
        (t.core n).near = d.near.filter (·.ctx ≠ ctx) ∧ (t.core n).l1 = d.l1 ∧ (t.core n).tlb = d.tlb) ∧
      (∀ w, w ∈ t.waiters ↔ w ∈ s.waiters ∧ ¬ ((s.group w.gid).live = true ∧ (s.group w.gid).ctx = ctx)) ∧
      (∀ w, w ∈ t.enqs ↔ w ∈ s.enqs ∧ ¬ ((s.group w.gid).live = true ∧ (s.group w.gid).ctx = ctx)) ∧
      t.arrivals = s.arrivals.filter (fun a => a.ctx ≠ ctx) ∧
      t.walkers = s.walkers.filter (fun e => (s.search e.2.search).ctx ≠ ctx) ∧
      t.mem = s.mem ∧ t.slice = s.slice)

/-- R262, R378 and R379: DEBUG_STEP of a context that has stopped for its debugger asks for one instruction of the focused
split and clears STEPS; a split that does not exist, is parked or waits steps nothing, nor does one beside a handler. DEBUG_RESUME lowers the halt
line; a split that stands at its breakpoint may go on, a trap that waits for its delivery is delivered (R371), and everything
else is as it was. That HALT, STEP and RESUME are events too is the model's choice (log 23). -/
def Sys2Proof.Machine.Rules.DebuggersStepAndResume : Prop :=
  ∀ (s : State) (ctx : Nat),
    let c := s.ctx ctx
    let f := (BitVec.extractLsb 31 25 c.debug).toNat * 64 + (BitVec.extractLsb 24 23 c.debug).toNat * 16 + (BitVec.extractLsb 22 19 c.debug).toNat
    let g := s.group f
    let x := g.split g.dbgfocus.toNat
    let steps := c.debug &&& 0x0000_FFFF_FFFF_FFFF
    c.debugHalt = true →
    (c.stopping = [] → ∃ t, exec (.debugStep ctx) s = .next t ∧ t = { s with ctxs := t.ctxs } ∧
      (∀ k, k ≠ ctx → t.ctx k = s.ctx k) ∧
      (g.live = true → g.ctx = ctx → g.dbgfocus.toNat < 4 → x.live = true → x.parked = false → x.wait = .none →
        (∀ h, g.handler = some h → h.split = g.dbgfocus.toNat) →
        t.ctx ctx = { c with debug := steps, stepReq := some none, steps := none }) ∧
      (g.live = false ∨ g.ctx ≠ ctx ∨ (∃ h, g.handler = some h ∧ h.split ≠ g.dbgfocus.toNat) ∨ x.live = false ∨ x.parked = true ∨ x.wait = .claim ∨ x.wait = .bar ∨ x.wait = .relay ∨
        x.wait = .publish ∨ x.wait = .sleep → t.ctx ctx = { c with debug := steps, stepReq := none, steps := none })) ∧
    (∀ gid g pre x post, s.groups.look gid = some g → g.live = true → g.ctx = ctx → g.handler = none →
      g.traps = pre ++ x :: post → (∀ y ∈ pre, g.masks y.cause = true) → g.masks x.cause = false → c.trapvec ≠ 0 →
      ∃ t h, exec (.debugResume ctx) s = .next t ∧ (t.ctx ctx).halted = false ∧ (t.group gid).handler = some h ∧
        h.cause = x.cause ∧ (t.group gid).traps = pre ++ post) ∧
    ((∀ e ∈ s.groups, e.2.live = true → e.2.ctx = ctx → e.2.handler ≠ none ∨ ∀ x ∈ e.2.traps, e.2.masks x.cause = true) →
    ∃ t, exec (.debugResume ctx) s = .next t ∧ t = { s with ctxs := t.ctxs, groups := t.groups } ∧
      (∀ k, k ≠ ctx → t.ctx k = s.ctx k) ∧
      (∀ gid g, s.groups.look gid = some g → g.ctx ≠ ctx → t.group gid = g) ∧
      (∀ gid g, s.groups.look gid = some g → g.ctx = ctx → t.group gid = { g with splits := (t.group gid).splits } ∧
        ∀ k, (t.group gid).split k = { g.split k with atBreak := false }) ∧
      t.ctx ctx = { c with
        halted := false, debugHalt := false, stopping := [], stepReq := none, steps := none,
        debug := match c.steps with
          | some n => steps ||| BitVec.ofNat 64 (n * 2 ^ 48)
          | none => c.debug })

/-- HaltLinesRise and DebuggersStepAndResume (above), together. -/
def Obligations.HaltsAndDebugging : Prop :=
  HaltLinesRise ∧ DebuggersStepAndResume

/-! ### Translation, migration and the stacks (R335, R339, R341 to R343, R366 to R368) -/

namespace Sys2Proof.Machine.Rules

/-- The capacity frame of a page number (R18, R25). -/
def pageFrame (page : Nat) : Nat := capBase + page * 65536

/-- No translation cache holds the entry at an address, and no translation by it is in effect. -/
def noneCached (t : State) (leaf : Nat) : Prop :=
  (∀ e ∈ t.inEffect, e.leaf ≠ leaf) ∧
  (∀ n c e, t.cores.look n = some c → e ∈ c.tlb → e.leaf ≠ leaf) ∧
  ∀ n c e, t.clusters.look n = some c → e ∈ c.tlb → e.leaf ≠ leaf

/-- A leaf entry has been written and its translations dropped; every other 64-bit word reads as before. -/
structure EntryWritten (s t : State) (leaf : Nat) (e : DWord) : Prop where
  entry : t.peek64 leaf = e
  others : ∀ a, a % 8 = 0 → a ≠ leaf → t.peek64 a = s.peek64 a
  dropped : noneCached t leaf

/-- A bank error register (R368). -/
def bankReg (s : State) (sector : Nat) : DWord := s.bankErr.get (BitVec.ofNat 64 (bankKey sector % 32)) (bankKey sector)

/-- A page's two frames hold nothing in a slice or an L1 (R342 steps 1 and 2 have removed it). -/
def FrameAtRest (s : State) (pa : Nat) : Prop :=
  ∀ i, i < 2048 → s.slice.look (pa / 32 + i) = none ∧ ∀ n, (s.core n).l1.look (pa / 32 + i) = none

/-- A physical address named in the frame its page has moved to. -/
def moved (src dst pa : Nat) : Nat := if pa / 65536 = src / 65536 then dst + pa % 65536 else pa

end Sys2Proof.Machine.Rules

/-- R339 and R341: SHOOTDOWN_PORT_WRITE starts a shootdown, and the port reads 1 until it is complete; SHOOTDOWN_COMPLETE
waits for the operations that the entry has translated and that are not performed, the parked and the pending ones of queues and
musters (every other access names virtual addresses and is translated as it is performed), then leaves no cached translation of
the address, keeps the other contexts', and from then on the tables translate it; POOL_PORT_WRITE grants an aligned HBM frame of
either window while the pool, with the frames that may return to it, holds fewer than 65,535; MIGRATION_WINDOW_END clears the
access counters of the context's pages: those whose counter it was the last to use (the model's choice, log 69). -/
def Obligations.ShootdownsPoolsAndWindows : Prop :=
  (∀ (s : State) (ctx : Nat) (va : BitVec 64), ∃ t, exec (.shootdownPortWrite ctx va) s = .next t ∧
    t = { s with ctxs := t.ctxs } ∧ (∀ k, k ≠ ctx → t.ctx k = s.ctx k) ∧ t.blockWord ctx 12 = 1 ∧
    t.ctx ctx = { s.ctx ctx with shootdowns := (s.ctx ctx).shootdowns ++ [va.toNat] }) ∧
  (∀ (s : State) (ctx k va : Nat), (s.ctx ctx).shootdowns[k]? = some va →
    (s.shotBusy ctx va = true → exec (.shootdownComplete ctx k) s = .next s) ∧
    (s.shotBusy ctx va = false → ∃ t, exec (.shootdownComplete ctx k) s = .next t ∧
      t = { s with ctxs := t.ctxs, cores := t.cores, clusters := t.clusters, inEffect := t.inEffect } ∧ (∀ j, j ≠ ctx → t.ctx j = s.ctx j) ∧
      t.ctx ctx = { s.ctx ctx with shootdowns := (s.ctx ctx).shootdowns.eraseIdx k } ∧
      (∀ n, findTlb (t.core n).tlb ctx va = none ∧ findTlb (t.cluster n).tlb ctx va = none) ∧
      t.leafFor ctx va = s.walk (s.ctx ctx).root va ∧ (∀ e, e.ctx ≠ ctx → (e ∈ t.inEffect ↔ e ∈ s.inEffect)) ∧
      (∀ n e, e.ctx ≠ ctx → (e ∈ (t.core n).tlb ↔ e ∈ (s.core n).tlb) ∧ (e ∈ (t.cluster n).tlb ↔ e ∈ (s.cluster n).tlb)) ∧
      ∀ n, (t.core n).l1 = (s.core n).l1)) ∧
  (∀ (s : State) (ctx va : Nat) (e : DWord) (leaf : Nat) (large : Bool), s.leafFor ctx va = some (e, leaf, large) →
    let page := fun a => a / (if large = true then 2 ^ 29 else 2 ^ 16)
    (s.shotBusy ctx va = true ↔
      (∃ w ∈ s.waiters, (s.group w.gid).ctx = ctx ∧ page w.va = page va) ∨
      ∃ q ∈ s.enqs, (s.group q.gid).ctx = ctx ∧ page q.va = page va)) ∧
  (∀ (s : State) (ctx : Nat) (pa : BitVec 64),
    let c := s.ctx ctx
    ∃ t, exec (.poolPortWrite ctx pa) s = .next t ∧ t = { s with ctxs := t.ctxs } ∧ (∀ k, k ≠ ctx → t.ctx k = s.ctx k) ∧
      (s.window pa.toNat = some 0 ∨ s.window pa.toNat = some 1 → pa.toNat % 65536 = 0 →
        c.pool.length + c.promoted.length + (s.moves.filter (fun m => m.ctx = ctx && !m.down)).length < 65535 →
        t.ctx ctx = { c with pool := c.pool ++ [pa.toNat] }) ∧
      (65535 ≤ c.pool.length → t.ctx ctx = c)) ∧
  (∀ (s : State) (ctx : Nat),
    let k := s.time / (((s.ctx ctx).migration.extractLsb 47 36).toNat * 1000)
    (s.ctx ctx).window ≠ k → ∃ t, exec (.migrationWindowEnd ctx) s = .next t ∧ (t.ctx ctx).window = k ∧
      (∀ page, s.pageCtx.get 0 page = ctx + 1 → t.pageCount.get 0 page = 0 ∧ t.pageLeaf.get 0 page = 0 ∧
        page ∉ t.pageShared) ∧
      (∀ page, (∀ e ∈ s.pageCtx, e.1 = page → e.2 ≠ ctx + 1) → t.pageCount.get 0 page = s.pageCount.get 0 page ∧
        t.pageLeaf.get 0 page = s.pageLeaf.get 0 page ∧ (page ∈ t.pageShared ↔ page ∈ s.pageShared)) ∧
      t.mem = s.mem ∧ t.promote = s.promote ∧ ∀ j, j ≠ ctx → t.ctx j = s.ctx j)

/-- R341 to R343: PAGE_PROMOTION is the next step of a slice's migration engine. With no move under way the page at the
head of its queue is taken: one that may be promoted gets the first frame of the pool, MB in its entry and a shootdown;
with the pool empty the page at the clock hand gets them, for demotion; a page with MS set, of a large entry, shared or
with parked operations, and any page while migration is disabled, leaves the queue with its count cleared. A move under way
ends: the new frame reads what the old one read, the entry names it, and the pool, the list of promoted pages and parked
operations follow. Waiting for a page in migration and the two steps of a move (log 53), and whose window counts (log 69), are
the model's choices. -/
def Obligations.PagesAreMigrated : Prop :=
  (∀ (s : State) (slice page ctx leaf : Nat), s.moves.find? (fun m => m.slice = slice) = none →
    s.promote.find? (fun e => e.1 = slice) = some (slice, page, ctx, leaf) → leaf % 8 = 0 →
    let c := s.ctx ctx
    let e := s.peek64 leaf
    (c.migration.getLsbD 0 = true → s.promotable page leaf = true → roomAt s leaf → ∀ h rest, c.pool = h :: rest →
      ∃ t, exec (.pagePromotion slice) s = .next t ∧ EntryWritten s t leaf (e ||| 0x100) ∧ leaf ∈ t.busy ∧
        t.moves = s.moves ++ [⟨slice, page, ctx, leaf, h, false⟩] ∧ t.ctx ctx = { c with pool := rest } ∧
        (∀ k, k ≠ ctx → t.ctx k = s.ctx k) ∧ t.promote = s.promote ∧ t.groups = s.groups) ∧
    (c.migration.getLsbD 0 = true → s.promotable page leaf = true → c.pool = [] →
      (∀ x ∈ c.promoted, x.2.2.1 ∉ s.busy) → ∀ p f a, c.promoted[c.hand]? = some (p, f, a, false) → a % 8 = 0 →
      roomAt s a →
      ∃ t, exec (.pagePromotion slice) s = .next t ∧ EntryWritten s t a (s.peek64 a ||| 0x100) ∧ a ∈ t.busy ∧
        t.moves = s.moves ++ [⟨slice, p, ctx, a, f, true⟩] ∧ t.promote = s.promote ∧ (∀ k, t.ctx k = s.ctx k)) ∧
    (c.migration.getLsbD 0 = false ∨ e.getLsbD 4 = true ∨ e.getLsbD 3 = true ∨ page ∈ s.pageShared ∨ e.getLsbD 7 = false ∨
        (∃ w ∈ s.waiters, w.block / 65536 = pageFrame page / 65536) ∨
        (∃ q ∈ s.enqs, q.block / 65536 = pageFrame page / 65536) →
      ∃ t, exec (.pagePromotion slice) s = .next t ∧ t.promote = s.promote.erase (slice, page, ctx, leaf) ∧
        t.pageCount.get 0 page = 0 ∧ t.slice = s.slice ∧ t.mem = s.mem ∧ t.ctxs = s.ctxs ∧ t.moves = s.moves)) ∧
  ∀ (s : State) (m : Move), s.moves.find? (fun x => x.slice = m.slice) = some m → m.leaf % 8 = 0 →
    let c := s.ctx m.ctx
    let src := if m.down = true then m.frame else pageFrame m.page
    let dst := if m.down = true then pageFrame m.page else m.frame
    ∃ t, exec (.pagePromotion m.slice) s = .next t ∧ m.leaf ∉ t.busy ∧ noneCached t m.leaf ∧ t.moves = s.moves.erase m ∧
      (m.down = false → (t.ctx m.ctx).pool = c.pool ∧
        (t.ctx m.ctx).promoted = c.promoted ++ [(m.page, m.frame, m.leaf, false)] ∧ t.pageCount.get 0 m.page = 0 ∧
        ∀ q, q ∈ t.promote ↔ q ∈ s.promote ∧ q.2.1 ≠ m.page) ∧
      (m.down = true → (t.ctx m.ctx).pool = c.pool ++ [m.frame] ∧ t.promote = s.promote ∧
        ∀ x, x ∈ (t.ctx m.ctx).promoted ↔ x ∈ c.promoted ∧ x.2.2.1 ≠ m.leaf) ∧
      t.waiters = s.waiters.map (fun w => { w with block := moved src dst w.block }) ∧
      t.enqs = s.enqs.map (fun q => { q with block := moved src dst q.block }) ∧
      (s.retired = [] → m.frame % 65536 = 0 → m.frame < 2 ^ 39 → m.page < 2 ^ 25 → m.leaf / 65536 ≠ m.frame / 65536 →
        m.leaf < 2 ^ 39 → FrameAtRest s src → FrameAtRest s dst → roomAt s m.leaf →
        t.peek64 m.leaf = (s.peek64 m.leaf &&& 0xFEBF ||| BitVec.ofNat 64 (dst + if m.down = true then 64 else 0)) ∧
        ∀ i, i < 2048 → t.peekSector (dst / 32 + i) = s.peekSector (src / 32 + i))

/-- R335, R366, R367 and R368: SCRUB of a DRAM sector of a stack changes no byte: a sector that fails lastingly becomes
poisoned and its bank's register records it, a transient error is recorded alone, and a poisoned sector is not
recorded again. ROW_REPAIR keeps values and marks; without a spare row it records the pseudo-channel for retirement. -/
def Obligations.StacksRecordErrors : Prop :=
  (∀ (s : State) (k : Nat), blBase ≤ k * 32 → k * 32 < capBase →
    let old := bankReg s k
    ∃ t, exec (.scrub k) s = .next t ∧ t.mem = s.mem ∧ t.slice = s.slice ∧
      let r := bankReg t k
      (k ∈ s.poison → t = s) ∧ (k ∉ s.poison → s.ecc.find? (fun e => e.1 = k) = none → t = s) ∧
      (k ∉ s.poison → ∀ lasting, s.ecc.find? (fun e => e.1 = k) = some (k, lasting) →
        (k ∈ t.poison ↔ lasting = true) ∧ (∀ j, j ≠ k → (j ∈ t.poison ↔ j ∈ s.poison)) ∧
        r.extractLsb 4 0 = BitVec.ofNat 5 (bankKey k) ∧ r.extractLsb 18 5 = 0 ∧ r.extractLsb 61 56 = 0 ∧
        (lasting = true → r.getLsbD 63 = true ∧ r.getLsbD 62 = old.getLsbD 62 ∧ r.getLsbD 19 = true ∧
          (r.extractLsb 55 48).toNat = min 255 ((old.extractLsb 55 48).toNat + 1) ∧
          r.extractLsb 47 40 = old.extractLsb 47 40) ∧
        (lasting = false → r.getLsbD 62 = true ∧ r.getLsbD 63 = old.getLsbD 63 ∧
          (r.extractLsb 47 40).toNat = min 255 ((old.extractLsb 47 40).toNat + 1) ∧
          r.extractLsb 55 48 = old.extractLsb 55 48) ∧
        (lasting = true ∨ old.getLsbD 63 = false →
          (r.extractLsb 39 26).toNat = (k * 32 - blBase) % 2 ^ 25 / 2048 ∧
          (r.extractLsb 25 20).toNat = k % 64) ∧
        (lasting = false → old.getLsbD 63 = true → r.extractLsb 39 26 = old.extractLsb 39 26 ∧
          r.extractLsb 25 20 = old.extractLsb 25 20 ∧ r.getLsbD 19 = old.getLsbD 19))) ∧
  (∀ (s : State) (stack pc bank row : Nat), stack < 8 → pc < 128 → bank < 16 → row < 16384 →
    let used := (s.repaired.filter (fun e => e.1 = stack && e.2.1 = pc && e.2.2.1 = bank)).length
    ∃ t, exec (.rowRepair stack pc bank row) s = .next t ∧ t.mem = s.mem ∧ t.slice = s.slice ∧
      (used < Config.spareRows → (stack, pc, bank, row) ∈ t.repaired ∧ t.retire = s.retire ∧
        (∀ k, k ∈ s.poison → k ∈ t.poison) ∧ ∀ k, k ∈ t.poison → k ∈ s.poison ∨ (k, true) ∈ s.ecc) ∧
      (Config.spareRows ≤ used → stack * 128 + pc ∈ t.retire ∧ t.repaired = s.repaired ∧ t.poison = s.poison))

/-! ### Control space (R27, R299, R324, R341, R356, R376, R378, R385, R393, R394) -/

namespace Sys2Proof.Machine.Rules

/-- The address of an 8-byte word of a context's block (R27). -/
def blockAddr (n k : Nat) : Nat := 0x0400_0000_0000 + 0x0100_0000 * n + 8 * k

/-- The bits of a word of the tables that a write keeps: those R357 gives no meaning read 0 (R27, R353, R356, R357). -/
def tableBits (k : Nat) : DWord :=
  if 0x4000 ≤ k ∧ k < 0x8000 then
    (if k % 4 = 0 then 0x3 else if k % 4 = 1 then 0xFFFF_FFFF_0000_0000 else BitVec.allOnes 64)
  else if 0x8000 ≤ k ∧ k < 0x8400 ∧ k % 4 = 0 then 1
  else if 0xC000 ≤ k ∧ k < 0x10000 then
    (if k % 4 = 0 then 0x1F else if k % 4 = 1 then 0xFFFF_FFFF_0000_0000 else BitVec.allOnes 64)
  else BitVec.allOnes 64

/-- Only one context's registers have changed. -/
def OnlyContext (s t : State) (n : Nat) : Prop := t = { s with ctxs := t.ctxs } ∧ ∀ k, k ≠ n → t.ctx k = s.ctx k

end Sys2Proof.Machine.Rules

/-- R299, R324, R341, R385 and R393: the writes of the partition table (only by the owner context, never of a cluster with a
resident workgroup), the fabric weights, the scheduling register and the migration control register; a write the rule
calls ignored changes nothing; a read of the power control register clears LAST. That these writes are events too is the
model's choice (log 23). -/
def Sys2Proof.Machine.Rules.ControlRegistersAreWritten : Prop :=
  (∀ (s : State) (writer n : Nat) (v : BitVec 8), n < 32 →
    (writer = s.owner → (∀ e ∈ s.wgs, e.2.core / 4 ≠ n) → ∃ t, exec (.partitionTableWrite writer n v) s = .next t ∧
      t = { s with clusters := t.clusters } ∧ t.cluster n = { s.cluster n with owner := v &&& 0x87 } ∧
      ∀ k, k ≠ n → t.cluster k = s.cluster k) ∧
    (writer ≠ s.owner ∨ ((∃ e ∈ s.wgs, e.2.core / 4 = n) ∧ (s.cluster n).owner ≠ v &&& 0x87) →
      exec (.partitionTableWrite writer n v) s = .next s)) ∧
  (∀ (s : State) (n : Nat) (v : BitVec 32), ∃ t, exec (.fabricWeightWrite n v) s = .next t ∧ OnlyContext s t n ∧
    t.ctx n = if v.extractLsb 15 0 = 0 then s.ctx n else { s.ctx n with weights := v &&& 0xFFFF }) ∧
  (∀ (s : State) (n : Nat) (v : BitVec 64), ∃ t, exec (.schedulingRegisterWrite n v) s = .next t ∧ OnlyContext s t n ∧
    t.ctx n =
      if v.extractLsb 63 52 = 0 ∨ v.extractLsb 51 40 = 0 ∨ v.extractLsb 39 20 = 0 ∨ v.extractLsb 3 0 = 0 then s.ctx n
      else { s.ctx n with sched := v &&& 0xFFFF_FFFF_FFF0_000F }) ∧
  (∀ (s : State) (n : Nat) (v : BitVec 64), ∃ t, exec (.migrationControlWrite n v) s = .next t ∧ OnlyContext s t n ∧
    t.ctx n = if v.extractLsb 63 48 = 0 ∨ v.extractLsb 47 36 = 0 then s.ctx n
      else { s.ctx n with migration := v &&& 0xFFFF_FFF0_0000_0001 }) ∧
  ∀ (s : State) (reader : Nat), ∃ t, exec (.powerControlRead reader) s = .next t ∧
    t = { s with power := { s.power with lastDeep := 0 } }

/-- R27, R356, R378, R385 and R394: CONTROL_SPACE_WRITE of a context's own block writes the register at the address, its
writable bits alone; another context's block, and the device-wide registers for a context that is not the owner, are
not written. LV and TV of a bank error register are only cleared, its counts written (R14, R368). QP_BINDING_WRITE sets V for a
queue that may be bound and ERR for one that may not. Who sees which registers, and how narrower writes merge, is the model's
choice (log 68), and that no launch queue may be bound (log 81). -/
def Sys2Proof.Machine.Rules.ControlSpaceIsWritten : Prop :=
  (∀ (s : State) (n k : Nat) (v : BitVec 64), n < 8 → k < 0x200000 →
    let c := s.ctx n
    ∃ t, exec (.controlSpaceWrite n (blockAddr n k) 8 v) s = .next t ∧
      (k = 0 → OnlyContext s t n ∧ t.ctx n = { c with root := v &&& 0x000F_FFFF_FFFE_0000 ||| c.root &&& 0xFFF0_0000_0001_FFFF }) ∧
      (k = 14 → OnlyContext s t n ∧ t.ctx n = { c with trapvec := v }) ∧
      (8 ≤ k → k < 12 → OnlyContext s t n ∧ t.ctx n = { c with bpa := (t.ctx n).bpa } ∧
        (t.ctx n).bpa.get 0 (k - 8) = v &&& 0x00FF_FFFF_FFFF_FFFD ||| c.bpa.get 0 (k - 8) &&& 0xFF00_0000_0000_0002 ∧
        ∀ j, j ≠ k - 8 → (t.ctx n).bpa.get 0 j = c.bpa.get 0 j) ∧
      (0x600 ≤ k → k < 0x608 → OnlyContext s t n ∧ t.ctx n = { c with tables := (t.ctx n).tables } ∧
        (t.ctx n).tables.get 0 k = c.tables.get 0 k &&& ~~~v ∧
        ∀ j, j ≠ k → (t.ctx n).tables.get 0 j = c.tables.get 0 j) ∧
      (0x200 ≤ k ∧ k < 0x211 ∨ 0x400 ≤ k ∧ k < 0x480 ∨ 0x8000 ≤ k ∧ k < 0x8400 ∨ 0xC000 ≤ k ∧ k < 0x10000 ∨
          0x4000 ≤ k ∧ k < 0x8000 ∧ n = s.owner →
        OnlyContext s t n ∧ t.ctx n = { c with tables := (t.ctx n).tables } ∧ 
        (t.ctx n).tables.get 0 k = v &&& tableBits k ||| c.tables.get 0 k &&& ~~~(tableBits k) ∧
        ∀ j, j ≠ k → (t.ctx n).tables.get 0 j = c.tables.get 0 j) ∧
      (0x2000 ≤ k → k < 0x4000 → t = s) ∧ (0x4000 ≤ k → k < 0x8000 → n ≠ s.owner → t = s)) ∧
  (∀ (s : State) (writer n k : Nat) (v : BitVec 64), n < 8 → k < 0x200000 → writer ≠ n → writer ≠ s.owner →
    exec (.controlSpaceWrite writer (blockAddr n k) 8 v) s = .next s) ∧
  (∀ (s : State) (writer a size : Nat) (v : BitVec 64), writer ≠ s.owner → 0x0440_0000_0000 ≤ a →
    exec (.controlSpaceWrite writer a size v) s = .next s) ∧
  (∀ (s : State) (v : BitVec 64), v.getLsbD 32 = false →
    ∃ t, exec (.controlSpaceWrite s.owner 0x0480_0000_0100 8 v) s = .next t ∧
      t = { s with power := { s.power with ltol := v.extractLsb 19 0 } }) ∧
  (∀ (s : State) (stack unit b : Nat) (v : BitVec 64), stack < 8 → unit < 64 → b < 32 →
    let key := stack * 2048 + unit * 32 + b
    let old := s.bankErr.get (BitVec.ofNat 64 b) key
    ∃ t, exec (.controlSpaceWrite s.owner (0x0440_0000_0000 + stack * 2 ^ 20 + unit * 256 + b * 8) 8 v) s = .next t ∧
      t = { s with bankErr := t.bankErr } ∧
      (let r := t.bankErr.get (BitVec.ofNat 64 b) key
       r.getLsbD 63 = (old.getLsbD 63 && v.getLsbD 63) ∧ r.getLsbD 62 = (old.getLsbD 62 && v.getLsbD 62) ∧
       r.extractLsb 61 56 = old.extractLsb 61 56 ∧ r.extractLsb 55 40 = v.extractLsb 55 40 ∧
       r.extractLsb 39 0 = old.extractLsb 39 0) ∧
      ∀ j, j ≠ key → t.bankErr.look j = s.bankErr.look j) ∧
  ∀ (s : State) (n qp : Nat) (lo hi : BitVec 64), qp < 4096 →
    ∃ t, exec (.qpBindingWrite n qp lo hi) s = .next t ∧ OnlyContext s t n ∧
      t.ctx n = { s.ctx n with tables := (t.ctx n).tables } ∧
      (t.ctx n).tables.get 0 (0x10000 + 2 * qp + 1) = hi ∧
      (t.ctx n).tables.get 0 (0x10000 + 2 * qp) =
        (if lo.getLsbD 0 = false then 0 else if s.bindable n hi.toNat = true then 1 else 2) ∧
      ∀ j, j / 2 ≠ 0x8000 + qp → (t.ctx n).tables.get 0 j = (s.ctx n).tables.get 0 j

/-- ControlRegistersAreWritten and ControlSpaceIsWritten (above), together. -/
def Obligations.ControlSpace : Prop :=
  ControlRegistersAreWritten ∧ ControlSpaceIsWritten

/-! ### Power, Camp and cold initialisation (R31, R335, R384, R385, R387 to R391, R395) -/

namespace Sys2Proof.Machine.Rules

/-- Camp entry has been triggered in a device that runs or idles (R387): every resident workgroup of a context that has not
halted is to be saved, and only the power manager and the workgroups' methods have changed. -/
structure CampBegun (s t : State) (warning : Bool) : Prop where
  power : t.power = { s.power with
    entering := true, state := .run, campByWarning := warning, warning := t.power.warning, warnFell := t.power.warnFell }
  saves : ∀ wi w, s.wgs.look wi = some w → t.wg wi =
    if (s.ctx w.ctx).halted = true ∧ (s.ctx w.ctx).debugHalt = false then w else { w with preempt := some (3, s.time) }
  device : t = { s with power := t.power, wgs := t.wgs }

/-- Nothing is ready, in flight or to be placed (R384): a split is parked or in a wait of R46, R167 or the coordination chapter;
which causes of a retried instruction are such waits is the model's choice (log 105). -/
structure AtRest (s : State) : Prop where
  groups : ∀ e ∈ s.groups, e.2.accs = [] ∧ e.2.replies = [] ∧ e.2.retiring = false ∧
    ∀ x ∈ e.2.splits, x.2.live = true → x.2.parked = true ∨ (x.2.wait ≠ .none ∧
      ∀ c, x.2.wait = .retry c → s.cycle < c ∧ x.2.why ∈ [3, 4, 5, 6, 9, 10, 11])
  engines : ∀ e ∈ s.cores, e.2.copies = [] ∧ e.2.matrix = [] ∧ e.2.near = []
  walkers : s.searches = [] ∧ s.walkers = [] ∧ s.msgs = [] ∧ s.enqs = [] ∧ s.arrivals = []
  migration : s.promote = [] ∧ s.busy = [] ∧ s.moves = []
  network : ∀ e ∈ s.net, e.2.unacked = [] ∧ e.2.held = [] ∧ e.2.ackDue = none
  placement : (∀ e ∈ s.candidates, s.fitsNow e.1 e.2 = false) ∧ ∀ e ∈ s.ctxs, e.2.preemptEnd = none

/-- Only the power manager's registers have changed. -/
def OnlyPower (s t : State) (p : Power) : Prop := t = { s with power := p }

end Sys2Proof.Machine.Rules

/-- R31: at a POWER_MEASUREMENT the core clock falls by 125 MHz when the mean of the last millisecond exceeds 1,900 W, by
250 MHz when the measurement exceeds 1,960 W, and never below 1.0 GHz; it rises by at most one step, never above 4.0
GHz, and only from a mean below 1,900 W. Whether it then rises is open (log 20). -/
def Sys2Proof.Machine.Rules.ClockFollowsPower : Prop :=
  ∀ (s : State) (p : Nat),
    let l := (p :: s.power.samples).take 100
    let sum := l.foldl (· + ·) 0
    ∃ t c, exec (.powerMeasurement p) s = .next t ∧ t = { s with power := t.power, fresh := t.fresh } ∧
      t.power = { s.power with samples := l, clock := c } ∧
      (1_960_000 < p → c = max 1000 (s.power.clock - 250)) ∧
      (p ≤ 1_960_000 → 1_900_000 * l.length < sum → c = max 1000 (s.power.clock - 125)) ∧
      (p ≤ 1_960_000 → sum = 1_900_000 * l.length → c = s.power.clock) ∧
      (p ≤ 1_960_000 → sum < 1_900_000 * l.length → c = s.power.clock ∨ c = min 4000 (s.power.clock + 125)) ∧
      (1000 ≤ s.power.clock → s.power.clock ≤ 4000 → 1000 ≤ c ∧ c ≤ 4000)

/-- R385, R387, R389 and R390: CAMPREQ of the owner context and the power-fail warning begin Camp entry; a further trigger
changes nothing; a write by another context is ignored. The warning's fall is timed, and CAMP_EXIT 100 ms later brings
the device back to Run 40 ms later, with the capacity tier's dirty lines written, migration counts cleared and CAMPNS set. An
input that has never risen counts as low since reset, and a Camp entered by CAMPREQ with the input low does not end by it; that
the saves of contexts in a debug halt come first is the model's choice (log 70). -/
def Sys2Proof.Machine.Rules.CampIsEnteredAndLeft : Prop :=
  (∀ (s : State) (writer : Nat),
    (writer = s.owner → s.power.entering = false → s.power.state ≠ .camp →
      ∃ t, exec (.campreq writer) s = .next t ∧ CampBegun s t s.power.warning ∧ t.power.warning = s.power.warning) ∧
    (writer ≠ s.owner ∨ s.power.entering = true ∨ s.power.state = .camp → exec (.campreq writer) s = .next s)) ∧
  (∀ s : State, ∃ t, exec .powerFailWarning s = .next t ∧ t.power.warning = true ∧ t.power.warnFell = none ∧
    (s.power.entering = false → s.power.state ≠ .camp → CampBegun s t true) ∧
    (s.power.entering = true ∨ s.power.state = .camp →
      OnlyPower s t { s.power with warning := true, warnFell := none })) ∧
  (∀ s : State, ∃ t, exec .powerFailWarningFall s = .next t ∧
    OnlyPower s t (if s.power.warning = true then { s.power with warning := false, warnFell := some s.time } else s.power)) ∧
  (∀ s : State, s.power.state ≠ .camp ∨ s.power.campByWarning = false ∨ s.power.warning = true →
    exec .campExit s = .next s) ∧
  (∀ (s : State) (τ : Nat), s.power.state = .camp → s.power.campByWarning = true → s.power.warning = false →
    (match s.power.warnFell with | some f => f | none => 0) = τ →
    (τ + 100_000_000 ≤ s.time → ∃ t, exec .campExit s = .next t ∧
      t.power = { s.power with state := .run, campns := BitVec.ofNat 64 (s.time - s.power.campStart) } ∧
      t.slice = [] ∧
      (s.populated = 2 ∨ s.populated = 4 ∨ s.populated = 8 ∨ s.populated = 16 →
        (∀ k ∈ s.slice.keys, capBase ≤ k * 32 → s.window (k * 32) = some 2) →
        ∀ k x, capBase ≤ k * 32 → s.slice.look k = some x → x.dirty = true →
          dramSector t.mem (s.dram (k * 32) / 32) = x.data) ∧
      t.pageCount = [] ∧ t.saved = s.saved ∧ t.ctxs = s.ctxs ∧ t.time = s.time + 40_000_000 ∧
      t.searches = s.searches ∧ t.net = s.net) ∧
    (s.time < τ + 100_000_000 → exec .campExit s = .next s))

/-- R335, R384, R385, R391 and R395: IDLE_ENTRY of a device at rest takes the deepest state LTOL admits, Idle-3 with the compute dies off, IDLE_EXIT at the end
of a SLEEP is back in Run one exit latency later; PORT_LINK_UP sends the unacknowledged waybills again. COLD_INITIALISATION brings the device
up when every image passes, with nothing left of contexts and memory and the recorded channels retired while one stays live; otherwise it
stays off and reports the first image that fails. The board keeps its flash, its list of channels to retire and its links
(log 71), and a device that comes up has the supervisor queues, tables and first manifest that its images place, free constants
(log 101): the model's choices, as is when Idle-3 is admitted (log 70). -/
def Sys2Proof.Machine.Rules.IdleStatesAndInitialisation : Prop :=
  (∀ s : State, AtRest s → s.power.state = .run → s.power.entering = false →
    let l := s.power.ltol.toNat
    ∃ t, exec .idleEntry s = .next t ∧ t.power.lastDeep = max s.power.lastDeep t.power.state.code ∧
      (l < 2 → t.power.state = .run) ∧ (2 ≤ l → l < 80 → t.power.state = .idle1) ∧
      (80 ≤ l → l < 3000 → t.power.state = .idle2) ∧
      (3000 ≤ l → s.wgs = [] → t.power.state = .idle3 ∧ t.slice = [] ∧ t.ctxs = s.ctxs) ∧
      (l < 3000 → OnlyPower s t t.power) ∧
      (t.power.state = .idle3 → ∀ n, (t.core n).l1 = [] ∧ (t.core n).icache = [] ∧ (t.core n).tlb = [] ∧
        (t.cluster n).tlb = []) ∧
      (3000 ≤ l → (∃ wi w, s.wgs = [(wi, w)] ∧ (s.ctx w.ctx).halted = false ∧ s.saveReady wi true = true) →
        t.power.state = .idle3 ∧ t.wgs = [] ∧ ∃ v, t.saved = s.saved ++ [v] ∧ v.power = true)) ∧
  (∀ s : State, s.power.state = .idle1 ∨ s.power.state = .idle2 ∨ s.power.state = .idle3 →
    (∃ e ∈ s.groups, e.2.live = true ∧ ∃ k τ, (k, τ) ∈ e.2.sleeps ∧ τ ≤ s.time) →
    ∃ t, exec .idleExit s = .next t ∧ OnlyPower { s with time := t.time } t { s.power with state := .run } ∧
      t.time = s.time + (if s.power.state = .idle1 then 2_000 else if s.power.state = .idle2 then 80_000 else 3_000_000)) ∧
  (∀ (s : State) (port : Nat), port < 2 → s.links.get false port = false →
    ∃ t, exec (.portLinkUp port) s = .next t ∧ t = { s with links := t.links, net := t.net, outbox := t.outbox } ∧
      t.links.get false port = true ∧ (∀ j, j ≠ port → t.links.get false j = s.links.get false j) ∧
      (∀ k x, s.net.look k = some x → ∃ y, t.net.look k = some y ∧ y = { x with unacked := y.unacked } ∧
        y.unacked = x.unacked.map (fun u => (u.1, 0, s.time + (s.ctx (k % 8)).network.toNat % 65536 * 1000)) ∧
        ∀ u ∈ x.unacked, u.1 ∈ t.outbox)) ∧
  (∀ s : State,
    let pass := fun n => Config.imageValid n (s.mgmt.images.get [] n)
    let first := if pass 1 = false then 1 else if pass 2 = false then 2 else if pass 3 = false then 3 else 0
    ∃ t, exec .coldInitialisation s = .next t ∧
      (t.booted = true ↔ pass 1 = true ∧ pass 2 = true ∧ pass 3 = true) ∧
      t.mgmt = { s.mgmt with failing := first } ∧
      (∀ k, t.links.get false k = true → t.booted = true) ∧ t.groups = [] ∧ t.wgs = [] ∧ t.launches = [] ∧ t.saved = [] ∧
      t.net = [] ∧
      (t.booted = false → t.mem = [] ∧ t.slice = [] ∧ t.poison = [] ∧ t.ctxs = [] ∧ t.clusters = [] ∧ t.bankErr = []) ∧
      (t.booted = true → ∀ n, n < 8 → (t.ctx n).tables.get 0 0x210 = Config.supervisorQueue n ∧
        (t.ctx n).root = Config.bootRoot n &&& 0x000F_FFFF_FFFE_0000 ∧ (t.ctx n).halted = false) ∧
      (∀ k, k ∈ t.retired → k ∈ s.retired ∨ k ∈ s.retire) ∧ 1 ≤ t.live ∧
      (t.retired.length < 1023 → ∀ k, k ∈ s.retired ∨ k ∈ s.retire → k ∈ t.retired) ∧ t.power.state = .run ∧ t.power.campcnt = 0 ∧ t.power.ltol = 0 ∧
      t.power.clock = 4000 ∧ t.device = s.device ∧ t.owner = s.owner ∧ t.mgmtList = s.mgmtList ∧ t.time = s.time)

/-- ClockFollowsPower, CampIsEnteredAndLeft and IdleStatesAndInitialisation (above), together. -/
def Obligations.PowerCampAndIdle : Prop :=
  ClockFollowsPower ∧ CampIsEnteredAndLeft ∧ IdleStatesAndInitialisation

/-! ### Ethernet: waybills, remote copies and RoCEv2 (R188, R352 to R364) -/

namespace Sys2Proof.Machine.Rules

/-- The device once a waybill's acknowledgements are taken and its number counted as received (R360). -/
def received (s : State) (w : Waybill) : State :=
  let u := s.acknowledge (waybillKey w) w
  u.setStream (waybillKey w) { u.stream (waybillKey w) with rxAck := (u.stream (waybillKey w)).rxAck + 1 }

/-- A waybill of a type is the next of its stream, is not to be discarded, and no held one follows it (R359, R360). -/
structure Next (s : State) (w : Waybill) (typ : Nat) : Prop where
  typ : w.typ.toNat = typ ∧ 1 ≤ typ ∧ typ ≤ 9 ∧ w.ao = false ∧ w.rsvd = false
  header : w.ver = 1 ∧ w.dst = s.device ∧ w.payload.length ≤ 8192
  seq : w.seq.toNat = (s.stream (waybillKey w)).rxAck + 1
  held : ∀ h ∈ (s.stream (waybillKey w)).held, h.seq.toNat ≠ w.seq.toNat + 1

/-- A waybill this device sends on a stream: header, number and acknowledgement (R358, R360). -/
def Sent (u : State) (k typ j : Nat) (a : Waybill) : Prop :=
  a.src = u.device ∧ a.dst = BitVec.ofNat 16 (k / 8) ∧ a.ctx = BitVec.ofNat 3 (k % 8) ∧ a.typ = BitVec.ofNat 8 typ ∧
    a.ver = 1 ∧ a.seq = BitVec.ofNat 64 ((u.stream k).txNext + j) ∧ a.ack = BitVec.ofNat 64 (u.stream k).rxAck ∧
    a.ao = false ∧ a.rsvd = false

/-- The waybill has been acknowledged by one reply, kept until it is acknowledged itself. -/
def Replied (u t : State) (k typ : Nat) (payload : List Byte) : Prop :=
  ∃ a, t.outbox = u.outbox ++ [a] ∧ Sent u k typ 0 a ∧ a.payload = payload ∧
    (t.stream k).unacked = (u.stream k).unacked ++ [(a, 0, u.time + (u.ctx (k % 8)).rto)] ∧
    (t.stream k).rxAck = (u.stream k).rxAck ∧ (t.stream k).ackDue = none

/-- The waybill has been counted and its acknowledgement falls due within 5 µs. -/
def Counted (u t : State) (k : Nat) : Prop :=
  (t.stream k).rxAck = (u.stream k).rxAck ∧ ((t.stream k).ackDue).isSome = true ∧ t.outbox = u.outbox

/-- Memory, caches, groups and contexts are the same. -/
def Untouched (u t : State) : Prop :=
  t.mem = u.mem ∧ t.slice = u.slice ∧ t.groups = u.groups ∧ t.wgs = u.wgs ∧ t.ctxs = u.ctxs ∧ t.arrivals = u.arrivals

/-- A queue can take an element of a remote agent (R214, R215, R361). -/
structure Takable (u : State) (ctx va pa : Nat) (element : List Byte) : Prop where
  place : va ≠ 0 ∧ va % 64 = 0 ∧ pa % 64 = 0 ∧ ∃ en leaf, u.translate ctx true false 1 va = .ok pa en leaf
  checks : queueFails (u.peekBytes pa 64) ctx none false false = none
  fits : element.length ≤ (u.qRead pa).elem
  order : (u.qRead pa).penq = 0 ∧ ∀ e ∈ u.enqs, e.block ≠ pa
  waiters : u.waiters = []

/-- An element has been published (R215): TAIL moved, one slot fewer free; beside the block only what the write of the
element, which gives `v`, has changed. -/
def Published (u v t : State) (pa : Nat) : Prop :=
  let q := u.qRead pa
  t.qRead pa = { q with tail := (q.tail + 1) % 2 ^ 32, free := q.free - 1 } ∧ t.mem = v.mem ∧
    (∀ k, k ≠ pa / 32 → k ≠ pa / 32 + 1 → t.slice.look k = v.slice.look k) ∧ t.groups = u.groups ∧ t.enqs = u.enqs

/-- The element as its slot holds it: zeros past its end (R356, R361). -/
def padded (element : List Byte) (n : Nat) : List (Byte × Bool) :=
  (element ++ List.replicate (n - element.length) 0).map (fun b => (b, false))

/-- A waybill's header as the table of R358 lays it out. -/
structure Laid (w : Waybill) (h : BitVec 256) : Prop where
  numbers : h.extractLsb 255 192 = w.ack ∧ h.extractLsb 191 128 = w.seq ∧ h.extractLsb 127 96 = w.sack
  length : h.extractLsb 95 80 = BitVec.ofNat 16 w.payload.length
  devices : h.extractLsb 79 64 = w.dst ∧ h.extractLsb 63 48 = w.src ∧ h.extractLsb 34 32 = w.ctx
  kind : h.getLsbD 16 = w.ao ∧ h.extractLsb 15 8 = w.typ ∧ h.extractLsb 7 0 = w.ver
  reserved : w.rsvd = false → h.extractLsb 47 35 = 0 ∧ h.extractLsb 31 17 = 0

/-- A request is the next one of its queue pair, which takes requests (R355, R391; log 100). -/
structure Taken (s : State) (r : Rdma) : Prop where
  pair : r.qp < 4096 ∧ r.qp ∉ s.qpError
  next : r.psn = s.psns.get 0 r.qp

/-- A request of a queue pair has been answered: the pair goes on to the next number. -/
def answered (u : State) (r : Rdma) (a : RdmaReply) : State :=
  { u with rdmaOut := u.rdmaOut ++ [a], psns := u.psns.put r.qp (r.psn + 1) }

end Sys2Proof.Machine.Rules

/-- R358 to R360: a waybill that arrives late, early or out of range is not performed: a duplicate's reply is sent again
unchanged, an early one is held, one beyond ACK + 32 is dropped. An AO waybill releases what its ACK and SACK cover. A
waybill that breaks R359 is counted and dropped. The header and its payload give the waybill back. What a peer that does not
answer does to its waybills and copies (log 72), and the TYPE of an AO waybill (log 99), are the model's choices. -/
def Sys2Proof.Machine.Rules.StreamsKeepOrder : Prop :=
  (∀ w : Waybill, Laid w (waybillHeader w) ∧ (w.rsvd = false → w.payload.length ≤ 8192 →
    readWaybill (waybillHeader w) w.payload = some w)) ∧
  (∀ (s : State) (w : Waybill),
    let k := waybillKey w
    let n := w.seq.toNat
    let x := s.stream k
    let covers := fun (m : Nat) => m ≤ w.ack.toNat ∨
      (w.ack.toNat < m ∧ m ≤ w.ack.toNat + 32 ∧ w.sack.getLsbD (m - w.ack.toNat - 1) = true)
    (∀ i, i = Instr.enqWaybill w ∧ w.typ.toNat = 1 ∨ i = Instr.putWaybill w ∧ w.typ.toNat = 5 →
      w.ao = false → w.rsvd = false → w.ver = 1 → w.dst = s.device → w.payload.length ≤ 8192 →
      (n ≤ x.rxAck → ∀ a, x.replies.find? (fun e => e.1 = n) = some (n, a) → ∃ t, exec i s = .next t ∧
        t.outbox = s.outbox ++ [a] ∧ Untouched s t ∧ (t.stream k).rxAck = x.rxAck ∧ (t.stream k).held = x.held) ∧
      (x.rxAck + 1 < n → n ≤ x.rxAck + 32 → (∀ v ∈ x.held, v.seq ≠ w.seq) → ∃ t, exec i s = .next t ∧
        t.outbox = s.outbox ∧ Untouched s t ∧ (t.stream k).rxAck = x.rxAck ∧ (t.stream k).held = x.held ++ [w]) ∧
      (x.rxAck + 32 < n → (∀ v ∈ x.held, v.seq.toNat ≠ x.rxAck + 1) → ∃ t, exec i s = .next t ∧ t.outbox = s.outbox ∧
        Untouched s t ∧ (t.stream k).rxAck = x.rxAck ∧ (t.stream k).held = x.held)) ∧
    (w.ao = true → w.rsvd = false → w.ver = 1 → w.dst = s.device → w.payload.length ≤ 8192 → 1 ≤ w.typ.toNat →
      w.typ.toNat ≤ 9 → ∃ t, exec (.ackOnlyWaybill w) s = .next t ∧ Untouched s t ∧ (t.stream k).rxAck = x.rxAck ∧
        (t.stream k).unreachable = false ∧ (∀ j, j ≠ k → t.stream j = s.stream j) ∧
        ∀ e, e ∈ (t.stream k).unacked ↔ e ∈ x.unacked ∧ ¬ covers e.1.seq.toNat) ∧
    (w.typ.toNat = 0 ∨ 9 < w.typ.toNat ∨ w.ver ≠ 1 ∨ w.rsvd = true ∨ w.dst ≠ s.device →
      ∃ t, exec (.waybillDiscard w) s = .next t ∧ t = { s with waybillsDropped := s.waybillsDropped + 1 })) ∧
  (∀ (s : State) (k τ : Nat),
    let x := s.stream k
    let linked := s.links.get false 0 = true ∨ s.links.get false 1 = true
    s.power.state ≠ .camp →
    (¬ linked → exec (.retransmissionTimeout k) s = .next s) ∧
    (x.ackDue = some τ → τ ≤ s.time → ∃ t a, exec (.ackDelayExpiry k) s = .next t ∧ t.outbox = s.outbox ++ [a] ∧
      a.ao = true ∧ 1 ≤ a.typ.toNat ∧ a.typ.toNat ≤ 9 ∧ a.ack = BitVec.ofNat 64 x.rxAck ∧ a.dst = BitVec.ofNat 16 (k / 8) ∧ t.stream k = { x with ackDue := none } ∧
      t = { s with net := t.net, outbox := t.outbox }) ∧
    (linked → (∃ u ∈ x.unacked, u.2.2 ≤ s.time) → (∀ u ∈ x.unacked, u.2.2 ≤ s.time → u.2.1 < (s.ctx (k % 8)).rlim) →
      ∃ t, exec (.retransmissionTimeout k) s = .next t ∧ t = { s with net := t.net, outbox := t.outbox } ∧
        t.outbox = s.outbox ++ (x.unacked.filter (fun u => u.2.2 ≤ s.time)).map (·.1) ∧
        (t.stream k).unacked = x.unacked.map (fun u =>
          if u.2.2 ≤ s.time then (u.1, u.2.1 + 1, s.time + (s.ctx (k % 8)).rto) else u)) ∧
    (linked → (∃ u ∈ x.unacked, u.2.2 ≤ s.time ∧ (s.ctx (k % 8)).rlim ≤ u.2.1) →
      ∃ t, exec (.retransmissionTimeout k) s = .next t ∧ (t.stream k).unreachable = true ∧ (t.stream k).unacked = x.unacked ∧
        t.outbox = s.outbox ∧ Untouched s t ∧ ∀ n c, c ∈ (t.core n).copies → c.kind = 3 → c.stream' = k →
          c.sent = false ∧ c.units = []))

/-- R361 and R400: ENQ_WAYBILL publishes its element, zero-filled, and answers status 0; a full queue 1, a queue that fails its
checks or an element too long 2, a context that is not live 3, with nothing taken. That the block of the supervisor queue is
refused with 2 (log 95) and the status where several hold (log 72) are the model's choices. -/
def Sys2Proof.Machine.Rules.RemoteEnqueues : Prop :=
  ∀ (s : State) (w : Waybill), Next s w 1 →
    let k := waybillKey w
    let ctx := w.ctx.toNat
    let u := received s w
    let reply := fun (n : Nat) => toBytes 8 w.seq.toNat ++ toBytes 1 n
    let element := w.payload.drop 8
    let va := u.enqTarget ctx (ofBytes (w.payload.take 8))
    let done := fun (t : State) (n : Nat) => Replied u t k 2 (reply n) ∧
      ∃ a, (t.stream k).replies = (u.stream k).replies ++ [(w.seq.toNat, a)] ∧ a.payload = reply n
    ((u.ctx ctx).live = false → ∃ t, exec (.enqWaybill w) s = .next t ∧ done t 3 ∧ Untouched s t) ∧
    ((u.ctx ctx).live = true → w.payload.length < 8 → ∃ t, exec (.enqWaybill w) s = .next t ∧ done t 2 ∧ Untouched s t) ∧
    ((u.ctx ctx).live = true → 8 ≤ w.payload.length → ∀ pa,
      let plainBlock := ∀ p, u.settledPa ctx 0 va = some p → u.supervisorBlock ctx p = false
      (plainBlock → Takable u ctx va pa element → (u.qRead pa).free = 0 →
        ∃ t, exec (.enqWaybill w) s = .next t ∧ done t 1 ∧ Untouched s t) ∧
      (∀ v, plainBlock → Takable u ctx va pa element → 0 < (u.qRead pa).free →
        u.putBytes ((u.qRead pa).elem / 32) (remote ctx true) ⟨0, (u.qRead pa).slot (u.qRead pa).tail⟩
          (padded element (u.qRead pa).elem) = (v, .ok []) → roomAt v pa →
        ∃ t, exec (.enqWaybill w) s = .next t ∧ done t 0 ∧ Published u v t pa) ∧
      (∀ en leaf, va % 64 = 0 → u.translate ctx true false 1 va = .ok pa en leaf →
        (queueFails (u.peekBytes pa 64) ctx none false false ≠ none ∨ (u.qRead pa).elem < element.length ∨ ¬ plainBlock) →
        ∃ t, exec (.enqWaybill w) s = .next t ∧ done t 2 ∧ Untouched s t))

/-- StreamsKeepOrder and RemoteEnqueues (above), together. -/
def Obligations.StreamsAndRemoteEnqueues : Prop :=
  StreamsKeepOrder ∧ RemoteEnqueues

/-- R188, R357, R362 to R364: GET is answered with the range's bytes in waybills of ascending offsets, PUT writes its bytes and
reports them, and both are refused outside a region that admits them. At the requester GETDATA writes its bytes and
ends the part of the copy they fill, PUTACK ends a put, and a refusal ends the copy with sub-code 5. TOPKSUM of a bound
id is written to its buffer and arrives at its muster. A sector that GETDATA ends in waits for the rest of its bytes (R182).
PUTACK after every PUT waybill (log 29) and the refusals (log 72) are the model's choices. -/
def Sys2Proof.Machine.Rules.RemoteCopies : Prop :=
  ∀ (s : State) (w : Waybill),
    let k := waybillKey w
    let ctx := w.ctx.toNat
    let u := received s w
    let p := w.payload
    let f := field p
    let admits := fun (rights : List Byte → Bool) (va n : Nat) => (u.ctx ctx).region rights va n = true
    let readable := fun (e : List Byte) => decide (field e 4 3 = 3)
    let writable := fun (e : List Byte) => decide (field e 4 4 = 1) && decide (field e 2 2 = 1)
    (Next s w 3 → 24 ≤ p.length →
      (¬ admits readable (f 127 64) (f 63 32) → ∃ t, exec (.getWaybill w) s = .next t ∧ Untouched s t ∧
        Replied u t k 4 (p.take 4 ++ toBytes 4 0 ++ toBytes 4 0xFFFF_FFFF ++ List.replicate 4 0)) ∧
      (∀ v bs y, admits readable (f 127 64) (f 63 32) → u.pages ctx (f 127 64) (f 63 32) 0 = .ok →
        u.getBytes (sectorsOf (f 127 64) (f 63 32)) (remote ctx false) ⟨0, f 127 64⟩ (f 63 32) = (v, .ok bs, y) →
        (∀ b ∈ bs, b.2 = false) → ∃ t l, exec (.getWaybill w) s = .next t ∧ t.outbox = u.outbox ++ l ∧ t.mem = v.mem ∧
          t.slice = v.slice ∧ l.length = (f 63 32 + 8159) / 8160 ∧
          ∀ j a, l[j]? = some a → a.typ = 4 ∧ a.seq = BitVec.ofNat 64 ((u.stream k).txNext + j) ∧
            ∃ part, part = ((bs.map (·.1)).drop (8160 * j)).take 8160 ∧
              a.payload = p.take 4 ++ toBytes 4 (8160 * j) ++ toBytes 4 part.length ++ List.replicate 4 0 ++ part)) ∧
    (Next s w 5 → 16 ≤ p.length →
      (¬ admits writable (f 127 64 + f 63 32) (p.length - 16) → ∃ t, exec (.putWaybill w) s = .next t ∧ Untouched s t ∧
        Replied u t k 6 (p.take 4 ++ List.replicate 4 0 ++ toBytes 8 (2 ^ 64 - 1))) ∧
      (∀ v, admits writable (f 127 64 + f 63 32) (p.length - 16) →
        u.pages ctx (f 127 64 + f 63 32) (p.length - 16) 1 = .ok →
        u.putBytes (sectorsOf (f 127 64 + f 63 32) (p.length - 16)) (remote ctx false) ⟨0, f 127 64 + f 63 32⟩
          ((p.drop 16).map (fun b => (b, false))) = (v, .ok []) →
        ∃ t, exec (.putWaybill w) s = .next t ∧ t.mem = v.mem ∧ t.slice = v.slice ∧ ∃ a, t.outbox = u.outbox ++ [a] ∧
          a.typ = 6 ∧ a.payload = p.take 4 ++ List.replicate 4 0 ++ toBytes 8 (f 63 32 + (p.length - 16)))) ∧
    (∀ core i c, u.findCopy k (f 31 0) = some (core, i, c) → (u.core core).copies[i]? = some c → u.mayWork c.ctx (640 + core) = true →
      (Next s w 4 → f 95 64 = 0xFFFF_FFFF → ∃ t, exec (.getdataWaybill w) s = .next t ∧ Counted u t k ∧ Untouched s t ∧
        ∃ d, (t.core core).copies[i]? = some d ∧ d.units = [] ∧ d.sent = false ∧
          d.fail = some (5, BitVec.ofNat 64 c.src.addr)) ∧
      (Next s w 4 → f 95 64 ≠ 0xFFFF_FFFF → ∀ v,
        let data := (p.drop 16).take (f 95 64)
        let rest := c.units.filter (fun x => match x with
          | .get o => decide (f 63 32 + data.length < o + 32)
          | _ => true)
        let all := c.tail ++ data.map (fun b => (b, false))
        let keep := if rest = [] ∨ c.gathers = false then 0 else min all.length ((c.dst.addr + f 63 32 + data.length) % 32)
        let now := all.take (all.length - keep)
        c.tail.length ≤ c.dst.addr + f 63 32 →
        u.putBytes (sectorsOf (c.dst.addr + f 63 32 - c.tail.length) now.length) (c.who core)
          { c.dst with addr := c.dst.addr + f 63 32 - c.tail.length } now = (v, .ok []) →
        (v.core core).copies = (u.core core).copies →
        ∃ t, exec (.getdataWaybill w) s = .next t ∧ Counted v t k ∧ t.mem = v.mem ∧ t.slice = v.slice ∧ t.wgs = v.wgs ∧
          ∃ d, (t.core core).copies[i]? = some d ∧ d = { c with units := d.units, sent := d.sent, tail := all.drop (all.length - keep) } ∧
            ∀ o, .get o ∈ d.units ↔ .get o ∈ c.units ∧ f 63 32 + data.length < o + 32) ∧
      (Next s w 6 → (f 127 64 = 2 ^ 64 - 1 → ∃ t, exec (.putackWaybill w) s = .next t ∧ Counted u t k ∧ Untouched s t ∧
          ∃ d, (t.core core).copies[i]? = some d ∧ d.units = [] ∧ d.sent = false ∧
            d.fail = some (5, BitVec.ofNat 64 c.src.addr)) ∧
        (f 127 64 ≠ 2 ^ 64 - 1 → c.units = [] → ((c.ctl.getD 0 0).extractLsb 31 0).toNat ≤ f 127 64 →
          ∃ t, exec (.putackWaybill w) s = .next t ∧ Counted u t k ∧ Untouched s t ∧
            (t.core core).copies[i]? = some { c with sent := false }))) ∧
    (Next s w 8 →
      ((u.ctx ctx).binding (f 31 0) = none → ∃ t, exec (.topksumWaybill w) s = .next t ∧ Counted u t k ∧ Untouched s t) ∧
      (∀ e v, (u.ctx ctx).binding (f 31 0) = some e → p.length ≤ field e 95 64 →
        u.putBytes (sectorsOf (field e 255 192) p.length) (remote ctx false) ⟨0, field e 255 192⟩
          (p.map (fun b => (b, false))) = (v, .ok []) →
        ∃ t, exec (.topksumWaybill w) s = .next t ∧ t.mem = v.mem ∧ t.slice = v.slice ∧
          t.arrivals = v.arrivals ++ [{ addr := BitVec.ofNat 64 (field e 191 128), ctx := ctx, count := 1, status := 0 }]))

/-- R352, R354 to R356: RDMA_WRITE and RDMA_READ inside a region of the key that admits them are performed and acknowledged,
and answered "remote access error" with nothing touched outside one. RDMA_SEND publishes its bytes as an element, answers
RNR when the queue is full, and fails the queue pair when the payload is too long or the queue is not bindable. An
unsupported request fails its queue pair. FRAME_DISCARD counts at its port. A request that comes again is acknowledged and not
applied again, one ahead of the next is not taken, and one that meets a page in migration waits (the model's choice, log 100). -/
def Sys2Proof.Machine.Rules.RemoteMemoryRequests : Prop :=
  (∀ (s : State) (r : Rdma) (i : Instr), i = .rdmaWrite r ∨ i = .rdmaSend r → r.qp < 4096 → r.qp ∉ s.qpError →
    let ahead := (r.psn - s.psns.get 0 r.qp).toNat
    (ahead ≠ 0 → ahead < 2 ^ 23 → exec i s = .next s) ∧
    (2 ^ 23 ≤ ahead → exec i s = .next { s with rdmaOut := s.rdmaOut ++ [.ack r.qp []] }) ∧
    (ahead ≠ 0 → ahead < 2 ^ 23 → exec (.rdmaRead r) s = .next s)) ∧
  (∀ (s : State) (r : Rdma), Taken s r →
    let va := r.va.toNat
    let admits := fun (bit n : Nat) => (s.ctx r.ctx).region (fun e => decide (field e 1 1 = 1) && decide (field e bit bit = 1) &&
      decide (field e 127 96 = r.key.toNat)) va n = true
    (¬ admits 2 r.data.length ∨ s.pages r.ctx va r.data.length 1 = .fault → exec (.rdmaWrite r) s = .next (answered s r (.nakAccess r.qp))) ∧
    (admits 2 r.data.length → s.pages r.ctx va r.data.length 1 = .busy → exec (.rdmaWrite r) s = .next s) ∧
    (∀ v, admits 2 r.data.length → s.pages r.ctx va r.data.length 1 = .ok →
      s.putBytes (sectorsOf va r.data.length) (remote r.ctx false) ⟨0, va⟩ (r.data.map (fun b => (b, false))) = (v, .ok []) →
      exec (.rdmaWrite r) s = .next (answered v r (.ack r.qp []))) ∧
    (¬ admits 3 r.len ∨ s.pages r.ctx va r.len 0 = .fault → exec (.rdmaRead r) s = .next (answered s r (.nakAccess r.qp))) ∧
    (∀ v bs y, admits 3 r.len → s.pages r.ctx va r.len 0 = .ok →
      s.getBytes (sectorsOf va r.len) (remote r.ctx false) ⟨0, va⟩ r.len = (v, .ok bs, y) → (∀ b ∈ bs, b.2 = false) →
      ∃ t, exec (.rdmaRead r) s = .next t ∧ t = { answered v r (.ack r.qp (bs.map (·.1))) with fresh := t.fresh }) ∧
    (let c := s.ctx r.ctx
     let q := (c.tables.get 0 (0x10000 + 2 * r.qp + 1)).toNat
     (((c.tables.get 0 (0x10000 + 2 * r.qp)).getLsbD 0 = false ∨ s.bindable r.ctx q = false) →
      ∃ t, exec (.rdmaSend r) s = .next t ∧ r.qp ∈ t.qpError ∧ t.rdmaOut = s.rdmaOut ++ [.nakOperational r.qp] ∧ Untouched s t) ∧
     ((c.tables.get 0 (0x10000 + 2 * r.qp)).getLsbD 0 = true → s.bindable r.ctx q = true → ∀ pa,
      (Takable s r.ctx q pa r.data → (s.qRead pa).free = 0 → ∃ t, exec (.rdmaSend r) s = .next t ∧
        t = { s with rdmaOut := s.rdmaOut ++ [.rnr r.qp] }) ∧
      (∀ v, Takable s r.ctx q pa r.data → 0 < (s.qRead pa).free →
        s.putBytes ((s.qRead pa).elem / 32) (remote r.ctx true) ⟨0, (s.qRead pa).slot (s.qRead pa).tail⟩
          (padded r.data (s.qRead pa).elem) = (v, .ok []) → roomAt v pa →
        ∃ t, exec (.rdmaSend r) s = .next t ∧ t.rdmaOut = v.rdmaOut ++ [.ack r.qp []] ∧
          t.psns.get 0 r.qp = r.psn + 1 ∧ Published s v t pa) ∧
      (∀ en leaf, q % 64 = 0 → s.translate r.ctx true false 1 q = .ok pa en leaf → (s.qRead pa).elem < r.data.length →
        ∃ t, exec (.rdmaSend r) s = .next t ∧ r.qp ∈ t.qpError ∧
          t.rdmaOut = s.rdmaOut ++ [.nakOperational r.qp] ∧ Untouched s t)))) ∧
  (∀ (s : State) (qp : Nat), qp < 4096 → qp ∉ s.qpError → ∃ t, exec (.roceInvalidRequest qp) s = .next t ∧
    t = { s with qpError := qp :: s.qpError, rdmaOut := s.rdmaOut ++ [.nakInvalid qp] }) ∧
  ∀ (s : State) (port : Nat), port < 2 → ∃ t, exec (.frameDiscard port) s = .next t ∧ t = { s with frames := t.frames } ∧
    t.frames.get 0 port = s.frames.get 0 port + 1 ∧ ∀ j, j ≠ port → t.frames.get 0 j = s.frames.get 0 j

/-- RemoteCopies and RemoteMemoryRequests (above), together. -/
def Obligations.RemoteMemory : Prop :=
  RemoteCopies ∧ RemoteMemoryRequests

/-! ### The management controller and the sideband (R385, R387, R389, R395 to R397, R399) -/

namespace Sys2Proof.Machine.Rules

/-- A reply's header: command with bit 7 set, status, tag (R397). -/
def mgmtHead (p : List Byte) (status : Byte) : List Byte := [p.getD 0 0 ||| 0x80, status, p.getD 2 0, p.getD 3 0]

/-- The status block (R397), byte by byte; LAST and the number of lasting errors as the device holds them. -/
structure StatusBlock (s : State) (b : List Byte) : Prop where
  length : b.length = 16
  state : b.getD 0 0 = BitVec.ofNat 8 s.power.state.code
  last : b.getD 1 0 = BitVec.ofNat 8 s.power.lastDeep
  campcnt : (b.getD 3 0 ++ b.getD 2 0 : BitVec 16) = s.power.campcnt
  errors : ((b.getD 5 0 ++ b.getD 4 0 : BitVec 16)).toNat = min 65535
    (s.baseDie.get 0 7 + s.baseDie.get 0 15 + s.baseDie.get 0 23 + s.baseDie.get 0 31 + s.baseDie.get 0 39 +
      s.baseDie.get 0 47 + s.baseDie.get 0 55 + s.baseDie.get 0 63)
  retired : s.retired.length ≤ 1024 → ((b.getD 7 0 ++ b.getD 6 0 : BitVec 16)).toNat = s.retired.length
  image : b.getD 8 0 = BitVec.ofNat 8 s.mgmt.failing
  zero : ∀ i, 9 ≤ i → b.getD i 0 = 0

/-- Only the management controller has changed, and of it what `m` says. -/
def OnlyMgmt (s t : State) (m : Mgmt) : Prop := t = { s with mgmt := m }

/-- The recovery commands are accepted: the compute dies are off (R399). -/
abbrev recoverable (s : State) : Prop := s.booted = false ∨ s.power.state = .idle3 ∨ s.power.state = .camp

end Sys2Proof.Machine.Rules

/-- R396 and R397: a MGMT waybill from a listed device is answered with the command's reply: 0x01 the report with its
signature, 0x02 the status block and bank error registers, 0x03 after LTOL is written, 0x04 after Camp entry has begun, 0x06
the status of the enqueue. A body of a wrong length is malformed; another code is acknowledged and discarded. A device not
on the list is answered "not permitted" (status 1, log 30). Signatures, digests and the serial number are free values of the
image or the board (log 21), and statuses that the spec does not order (log 72) are the model's choices. -/
def Sys2Proof.Machine.Rules.ManagementCommands : Prop :=
  ∀ (s : State) (w : Waybill), Next s w 9 →
    let k := waybillKey w
    let u := received s w
    let p := w.payload
    let code := (p.getD 0 0).toNat
    let answers := fun (i : Instr) (status : Byte) (body : List Byte) (post : State → Prop) =>
      ∃ t, exec i s = .next t ∧ Replied u t k 9 (mgmtHead p status ++ body) ∧ post t
    (∀ i n, (i, n) ∈ [(Instr.mgmtAttest w, 1), (.mgmtReadStatus w, 2), (.mgmtWriteLtol w, 3), (.mgmtEnterCamp w, 4),
        (.mgmtEnqueue w, 6)] → code = n →
      (w.src ∉ s.mgmtList → answers i 1 [] (fun t => Untouched s t ∧ t.power = s.power)) ∧
      (w.src ∈ s.mgmtList →
        p.length ≠ (if n = 1 then 36 else if n = 4 then 4 else if n = 6 then 136 else 8) →
        answers i 2 [] (fun t => Untouched s t ∧ t.power = s.power))) ∧
    (w.src ∈ s.mgmtList →
      (code = 1 → p.length = 36 →
        let r := p.drop 4 ++ toBytes 2 s.device.toNat ++ toBytes 2 s.live ++ List.replicate 4 0 ++
          (List.range 16).map Config.serial ++ toBytes 2 s.power.campcnt.toNat ++ List.replicate 6 0 ++ toBytes 8 s.time ++
          s.imageReport 1 ++ s.imageReport 2 ++ s.imageReport 3 ++ List.replicate 64 0
        r.length = 256 ∧ answers (.mgmtAttest w) 0 (r ++ (List.range 7856).map (Config.signature r)) (Untouched s)) ∧
      (code = 2 → p.length = 8 → p.getD 7 0 = 0 → ∀ stack unit n, p.getD 4 0 = BitVec.ofNat 8 stack → stack < 8 →
        p.getD 5 0 = BitVec.ofNat 8 unit → p.getD 6 0 = BitVec.ofNat 8 n → 1 ≤ n → n ≤ 16 → unit + n ≤ 64 →
        ∃ b, StatusBlock s b ∧ answers (.mgmtReadStatus w) 0
          (b ++ (List.range (32 * n)).flatMap (fun j =>
            toBytes 8 (s.bankErr.get (BitVec.ofNat 64 (j % 32)) (stack * 2048 + unit * 32 + j)).toNat))
          (fun t => Untouched s t ∧ t.power = s.power)) ∧
      (code = 3 → p.length = 8 → field p 63 52 = 0 → answers (.mgmtWriteLtol w) 0 [] (fun t => Untouched s t ∧
        t.power = { s.power with ltol := BitVec.ofNat 20 (field p 51 32) })) ∧
      (code = 4 → p.length = 4 → s.power.entering = false → s.power.state ≠ .camp →
        answers (.mgmtEnterCamp w) 0 [] (fun t => t.power.entering = true ∧ t.power.state = .run ∧ t.mem = s.mem ∧
          ∀ wi x, s.wgs.look wi = some x → (s.ctx x.ctx).halted = false →
            t.wg wi = { x with preempt := some (3, s.time) })) ∧
      (code = 6 → p.length = 136 → ∀ ctx, p.getD 4 0 = BitVec.ofNat 8 ctx → ctx < 8 → field p 63 40 = 0 →
        let va := ((s.ctx ctx).tables.get 0 0x210).toNat
        (va = 0 → answers (.mgmtEnqueue w) 0 [2] (Untouched s)) ∧
        ∀ pa v, Takable u ctx va pa (p.drop 8) → 0 < (u.qRead pa).free →
          u.putBytes ((u.qRead pa).elem / 32) (remote ctx true) ⟨0, (u.qRead pa).slot (u.qRead pa).tail⟩
            (padded (p.drop 8) (u.qRead pa).elem) = (v, .ok []) → roomAt v pa →
          answers (.mgmtEnqueue w) 0 [0] (fun t => Published u v t pa)) ∧
      (code = 0 ∨ code = 5 ∨ 6 < code → ∃ t, exec (.mgmtUnknownCommand w) s = .next t ∧ Counted u t k ∧ Untouched s t ∧
        t.power = s.power))

/-- R387, R389, R395 and R399: the sideband commands: 0x10 and 0x23 read the status block and the recovery state, 0x11 ends
Camp, 0x12 enters it, 0x20 to 0x22 select, stage and verify an image while the compute dies are off and are NACKed
otherwise; a NACKed transaction has no effect. Camp entered by 0x12 ends like one entered by the board's input (log 70), and what a
cold initialisation keeps is log 71: the model's choices. -/
def Sys2Proof.Machine.Rules.SidebandCommands : Prop :=
  ∀ s : State,
    let nacked := fun (i : Instr) => ∃ t, exec i s = .next t ∧ OnlyMgmt s t { s.mgmt with nacks := s.mgmt.nacks + 1 }
    (∃ t b, exec .sidebandReadStatus s = .next t ∧ StatusBlock s b ∧
      OnlyMgmt s t { s.mgmt with sideband := b :: s.mgmt.sideband }) ∧
    (∃ t b, exec .sidebandReadRecovery s = .next t ∧ b = toBytes 4 s.mgmt.recovery ∧
      OnlyMgmt s t { s.mgmt with sideband := b :: s.mgmt.sideband }) ∧
    nacked .sidebandNack ∧
    (∀ d, (d = 0xA5 → s.power.state = .camp → ∃ t, exec (.sidebandEndCamp d) s = .next t ∧
        t.power = { s.power with state := .run, campns := BitVec.ofNat 64 (s.time - s.power.campStart) } ∧ t.saved = s.saved ∧
        t.slice = []) ∧
      (d ≠ 0xA5 ∨ s.power.state ≠ .camp → exec (.sidebandEndCamp d) s = .next s)) ∧
    (∀ d, (d = 0xA5 → s.booted = true → s.power.entering = false → s.power.state ≠ .camp →
        ∃ t, exec (.sidebandEnterCamp d) s = .next t ∧ CampBegun s t true) ∧
      (d ≠ 0xA5 → exec (.sidebandEnterCamp d) s = .next s)) ∧
    (∀ n, (¬ recoverable s ∨ n = 0 ∨ 3 < n → nacked (.sidebandSelectImage n)) ∧
      (recoverable s → 1 ≤ n → n ≤ 3 → ∃ t, exec (.sidebandSelectImage n) s = .next t ∧
        OnlyMgmt s t { s.mgmt with selected := n.toNat, staging := [], recovery := 1 })) ∧
    (∀ o d, (¬ recoverable s ∨ 2 ^ 24 < o.toNat + d.length → nacked (.sidebandWriteStaging o d)) ∧
      (recoverable s → 1 ≤ d.length → d.length ≤ 28 → o.toNat + d.length ≤ 2 ^ 24 →
        ∃ t, exec (.sidebandWriteStaging o d) s = .next t ∧
          OnlyMgmt s t { s.mgmt with staging := (o.toNat, d) :: s.mgmt.staging } ∧
          ∀ j, j < d.length → (stagedImage t.mgmt.staging).getD (o.toNat + j) 0 = d.getD j 0)) ∧
    ∀ d, (¬ recoverable s → nacked (.sidebandVerifyImage d)) ∧
      (recoverable s → d = 0xA5 → s.mgmt.selected ≠ 0 →
        let image := stagedImage s.mgmt.staging
        (Config.imageValid s.mgmt.selected image = false → ∃ t, exec (.sidebandVerifyImage d) s = .next t ∧
          OnlyMgmt s t { s.mgmt with recovery := 3 }) ∧
        (Config.imageValid s.mgmt.selected image = true → ∃ t, exec (.sidebandVerifyImage d) s = .next t ∧
          t.mgmt.images.get [] s.mgmt.selected = image ∧ t.mgmt.recovery = 4 ∧ (t.booted = false → t.mem = []) ∧ t.groups = [] ∧
          (t.booted = true ↔ ∀ n, 1 ≤ n → n ≤ 3 → Config.imageValid n (t.mgmt.images.get [] n) = true)))

/-- ManagementCommands and SidebandCommands (above), together. -/
def Obligations.ManagementAndSideband : Prop :=
  ManagementCommands ∧ SidebandCommands

/-! ### Fetching, decoding and the step (R10, R33 to R40, R79 to R86, R250, R252, R254, R271, R272, R374) -/

namespace Sys2Proof.Machine.Rules

/-- A source or destination field of the given class and index, everything else zero. -/
def plain (c : Cls) (n : Nat) : Src := ⟨c, BitVec.ofNat 8 n, .ident, 0, false⟩

/-- The encodings that spec/ works through, as words, with the instruction each stands for: two IADD (R35, R38), a base
IADD with a literal and the MOV-free store and load of R82, NOP, FFMA and QENQ. -/
def workedEncodings : List (List Word × Instr) := [
  ([0x0810_D600], .iaddI32Reg ⟨2, 1, 3, 2, 3, none⟩),
  ([0x1029_6001, 0x00E4_6190, 0x0006_0A01],
    .iadd ⟨6, 9, true, 0x040, ⟨.v, 7, .rot, 3, false⟩, ⟨.v, 200, false⟩, ⟨.g, 5, .ident, 0, true⟩, 0, none⟩),
  ([0x0010_C002, 0x0001_86A0, 0], .iaddI32Reg ⟨0, 1, 3, 0, 0, some 100000⟩),
  ([0x0000_01FC], .nopBase ⟨0, 0, 0, 0, 0, none⟩),
  ([0x3081_4904], .stN32Base ⟨12, 8, 5, 1, 0, none⟩),
  ([0x0081_0102, 0x1000, 0], .ldN32Base ⟨0, 8, 4, 0, 0, some 0x1000⟩),
  ([0x4324_550D, 0x0160_0014, 0x6060_18C3],
    .ffma ⟨5, 4, true, 0x10C, plain .v 11, ⟨.v, 10, false⟩, ⟨.v, 12, .bfly, 1, true⟩, 0x606, none⟩),
  ([0x0040_0C11, 0x6080_0802, 0x2446_0C00],
    .qenq ⟨0, 0, false, 0x001, plain .g 4, ⟨.p, 1, false⟩, plain .g 6, 0x244, none⟩)]

end Sys2Proof.Machine.Rules

/-- R10, R33 to R38, R40, R52, R53: the words that spec/ writes out decode to the instructions they stand for, encode gives the
words back, and the words the spec calls unassigned decode to no instruction (R80, R84). -/
def Obligations.WorkedEncodingsDecode : Prop :=
  (∀ e ∈ workedEncodings, decode false (e.1.flatMap bytesOfWord) = .ok e.2 (4 * e.1.length) ∧ encode e.2 = e.1) ∧
  decode false ([0x0715, 5, 7].flatMap bytesOfWord) = .illegal 1 (.unassignedOpcode 0x0715) 12 ∧
  decode false (bytesOfWord 0x0000_00A0) = .illegal 1 (.unassignedOpcode 0x0000_00A0) 4

/-- R33 to R40: decoding the encoding of a well-formed instruction gives it back with its length, whatever bytes follow; and
an instruction that the decoder reads is encoded by exactly the bytes it was read from, so that no bit of an encoding
is dropped and no two encodings are read as one. -/
def Obligations.DecodeAndEncodeAgree : Prop :=
  (∀ (walker : Bool) (i : Instr) (rest : List Byte), i.code ≠ .event → i.sub walker = 0 →
    decode walker (encodeBytes i ++ rest) = .ok i (encodeBytes i).length ∧ (encodeBytes i).length = 4 * (encode i).length) ∧
  (∀ (walker : Bool) (bs : List Byte) (i : Instr) (n : Nat), decode walker bs = .ok i n →
    n ≤ bs.length ∧ encodeBytes i = bs.take n ∧ i.sub walker = 0) ∧
  (∀ (walker : Bool) (bs : List Byte) (i : Instr) (n k : Nat), decode walker bs = .illegal k i n →
    n ≤ bs.length ∧ k = i.sub walker ∧ k ≠ 0 ∧ ((∀ w, i ≠ .unassignedOpcode w) → encodeBytes i = bs.take n))

/-- R250, R252, R254 and R272: a step runs the decoded instruction: a split that its slot chooses issues the instruction that
the words at its pc decode to, legal or not, in its own turn or when nothing of the focus slot is left to arrive; a slot
chooses by R272 among the splits that may issue; a walker that its engine serves runs its instruction, engines serving
their ready walkers round-robin; an event's turn runs the event. A word that a core fetches is the one its instruction
cache holds, or the four bytes at its home, and a sector with poison is never executed. What moves without a turn, and in which
order (log 4), the size of the instruction cache (log 11) and which splits a YIELD finds ready (log 42) are the model's choices. -/
def Obligations.StepRunsDecoded : Prop :=
  (∀ (s u t : State) (gid sid n : Nat) (rest : List Turn) (ws : List Word) (i : Instr),
    s.booted = true → s.power.state = .run →
    (s.turns = .split gid sid :: rest ∧ u = { s with turns := rest } ∧ u.chosen (slotOf gid) = some (gid, sid) ∨
      s.turns = .issue (gid / 64) (gid / 16) :: rest ∧ u = { s with turns := rest } ∧
        u.chosen (gid / 64 * 4 + gid / 16 % 4) = some (gid, sid) ∨
      s.turns = [] ∧ u = s ∧ s.campReady = false ∧ s.stepping = none ∧ s.accessStep = none ∧
        s.slotsInTurn.findSome? s.nextReply = none ∧ s.anyChosen = some (gid, sid)) →
    u.fetch (coreOf gid) (u.group gid).ctx (u.group gid).super ((u.group gid).split sid).pc.toNat = (t, .ok ws) →
    (decode false (ws.flatMap bytesOfWord) = .ok i n ∨ ∃ k, decode false (ws.flatMap bytesOfWord) = .illegal k i n) →
    ((∀ x, i ≠ .yield x) → step s = exec i { t with who := .split gid sid }) ∧
    (∀ x, i = .yield x → step s = exec i { t with
      who := .split gid sid,
      slots := t.slots.put (slotOf gid) { t.slot (slotOf gid) with peers := t.readyIn (slotOf gid) } })) ∧
  (∀ (s : State) (slot k j : Nat) (g : Group), (k, g) ∈ s.slotGroups slot → j ∈ g.liveSplits → s.mayIssue false k j = true →
    let w := fun (a b : Nat) => s.cycle - ((s.group a).split b).last
    ∃ gid sid, s.chosen slot = some (gid, sid) ∧ s.mayIssue false gid sid = true ∧ (256 ≤ w k j → 256 ≤ w gid sid) ∧
      ((256 ≤ w gid sid ↔ 256 ≤ w k j) → (s.group k).prio ≤ (s.group gid).prio ∧
        ((s.group k).prio = (s.group gid).prio → w k j ≤ w gid sid ∧
          (w k j = w gid sid → gid % 16 ≤ k % 16 ∧ (gid % 16 = k % 16 → sid ≤ j))))) ∧
  (∀ (s : State) (core ctx : Nat) (super : Bool) (va : Nat) (u : State) (pa leaf : Nat) (en : DWord), va % 4 = 0 →
    s.coreTranslate core ctx super false 2 va = (u, .ok pa en leaf) → u.window pa ≠ some 3 → pa % 4 = 0 →
    (∀ x, (u.core core).icache.look (pa / 32) = some x → ∃ t w, s.fetchWord core ctx super va = (t, .ok [w]) ∧
      t.mem = u.mem ∧ t.slice = u.slice ∧ w.toNat = sectorBytes x.data (pa % 32) 4) ∧
    ((u.core core).icache.look (pa / 32) = none → roomAt u pa →
      ∃ t r, s.fetchWord core ctx super va = (t, r) ∧ t.mem = u.mem ∧ t.groups = u.groups ∧
      (∀ x, t.slice.look (pa / 32) = some x →
        (x.poison = true → r = .fault 0xC2 va) ∧
        (x.poison = false → ∃ w, r = .ok [w] ∧ bytesOfWord w = u.peekBytes pa 4)))) ∧
  (∀ (s u : State) (k : Nat) (rest : List Turn), s.booted = true → s.power.state = .run →
    let engine := 4 * (s.walker k).stack + (s.walker k).engine
    (s.turns = .walker k :: rest ∧ u = { s with turns := rest } ∨
      s.turns = [] ∧ s.campReady = false ∧ s.stepping = none ∧ s.accessStep = none ∧
        s.slotsInTurn.findSome? s.nextReply = none ∧ s.anyChosen = none ∧ s.rotationBy s.cycle = none ∧ s.anyWalker = some k ∧
        u = { s with walkedAt := s.walkedAt.set 0 engine (s.cycle + 1) }) →
    let x := u.walker k
    let ctx := (u.search x.search).ctx
    ∀ t v w ws i n p, u.nextWalker engine = some k →
      (∀ j, j < lengthWords w → u.translate ctx false false 2 (x.pc.toNat + 4 * j) ≠ .busy) →
      { u with lastWalker := u.lastWalker.set 0 engine (k + 1) }.walkerWord ctx x.pc.toNat = (t, some (w, p)) →
      State.walkerWords ctx (lengthWords w) x.pc.toNat t = (v, some ws) → (∀ y ∈ ws, y.2 = false) →
      (decode true ((ws.map (·.1)).flatMap bytesOfWord) = .ok i n ∨
        ∃ j, decode true ((ws.map (·.1)).flatMap bytesOfWord) = .illegal j i n) →
      step s = exec i { v with who := .walker k }) ∧
  (∀ (s : State) (k j engine : Nat) (x : Walker), s.nextWalker engine = some k → s.walkerReady k = true ∧
    ((j, x) ∈ s.walkers → 4 * x.stack + x.engine = engine → s.walkerReady j = true → s.lastWalker.get 0 engine ≤ j →
      s.lastWalker.get 0 engine ≤ k)) ∧
  ∀ (s : State) (i : Instr) (rest : List Turn), s.booted = true → s.power.state = .run → s.turns = .event i :: rest →
    step s = exec i { s with turns := rest, who := .none }

/-- The canonical form of memory is kept by every step (log 2 gives what an unlisted byte reads as). -/
def Obligations.StepKeepsMemoryCanonical : Prop :=
  ∀ s t : State, s.mem.wf = true → step s = .next t → t.mem.wf = true

/-- What reset leaves where spec/ says it: time 0, no group, no queue, nothing poisoned, the register reset values of R299,
R324, R341, R360 and R385, Run at the full clock of R31; memory lists nothing, in canonical form. The device is not
booted, and the first step is the cold initialisation (R395; log 1). -/
def Obligations.ResetState : Prop :=
  let s := State.reset
  s.mem = [] ∧ s.mem.wf = true ∧ s.booted = false ∧ s.time = 0 ∧ s.power.state = .run ∧ s.power.clock = 4000 ∧
  s.power.ltol = 0 ∧ s.power.campcnt = 0 ∧ s.power.lastDeep = 0 ∧ s.power.campns = 0 ∧ s.poison = [] ∧ s.bankErr = [] ∧
  (∀ gid, (s.group gid).live = false) ∧ (∀ n, (s.cluster n).owner = 0) ∧
  (∀ n, (s.ctx n).live = false ∧ (s.ctx n).halted = false ∧ (s.ctx n).trapvec = 0 ∧
    (s.ctx n).deadline = 200 ∧ (s.ctx n).drain = 10 ∧ (s.ctx n).sched.extractLsb 39 20 = (100 : BitVec 20) ∧
    (s.ctx n).sched.extractLsb 3 0 = (1 : BitVec 4) ∧ (s.ctx n).weights = 0x1224 ∧
    (s.ctx n).migration.extractLsb 63 48 = (64 : BitVec 16) ∧ (s.ctx n).migration.extractLsb 47 36 = (100 : BitVec 12) ∧
    (s.ctx n).migration.getLsbD 0 = false ∧ (s.ctx n).network.extractLsb 15 0 = (50 : BitVec 16) ∧
    (s.ctx n).network.extractLsb 19 16 = (8 : BitVec 4) ∧ (s.ctx n).debug = 0 ∧ ∀ k, (s.ctx n).bpa.get 0 k = 0) ∧
  step s = .next s.coldInit

/-! ### Every instruction and every event completes -/

namespace Sys2Proof.Machine.Rules

/-- The instruction has its effect and its split is past it: no trap was taken or queued, and the handler, if any, is the
same. -/
def Finishes (i : Instr) (s : State) (gid sid : Nat) (e : Enc) : Prop :=
  ∃ t, exec i s = .next t ∧ ((t.group gid).split sid).pc = nextPc s gid sid e ∧
    (t.group gid).handler = (s.group gid).handler ∧ (t.group gid).traps = (s.group gid).traps

/-- The walker has executed its instruction: it stands at the next one, and its search has met no fault. -/
def Strode (i : Instr) (s : State) (id : Nat) (e : Enc) : Prop :=
  ∃ t, exec i s = .next t ∧ (t.walker id).pc = (s.walker id).pc + BitVec.ofNat 64 e.size ∧
    (t.search (s.walker id).search).fault = (s.search (s.walker id).search).fault

end Sys2Proof.Machine.Rules

/-- R33, R55: every instruction of fixed latency, of classes 0 to 3 (XCHG apart) and 5 to 7, extended or base, of any
operands and destination, completes. They are IADD IADD3 ISUB IMUL IMULH IMAD IDIV IREM IMIN IMAX IABS INEG IDOT4 LEA; AND OR
XOR ANDN NOT SHL SHR SAR ROTL POPC CLZ CTZ BREV BFX BFI; ICMP ISEL MOV MOVL PAND POR PXOR PNOT PMOV; VOTE SHFL REDUX SCAN;
FADD FSUB FMUL FFMA FMIN FMAX FCMP FCLASS FDIV; FRCP FRSQ FSQRT FEX2 FLG2 FSIN FCOS FRND CVT CVTSC; HADD2 HMUL2 HFMA2 HDOT2
QDOT4; and the base forms of BOP 0 to 33 and 48 to 60. After one of them its split has moved past it, and only registers,
ports and what the slot notes of the issue have changed. -/
def Obligations.RegisterFormsComplete : Prop :=
  ∀ (i : Instr) (s : State) (gid sid : Nat) (e : Enc), encOf i = some e →
    (e.xop / 64 ≤ 3 ∧ e.xop ≠ 0x0C4) ∨ (5 ≤ e.xop / 64 ∧ e.xop / 64 ≤ 7) → Quiet s gid sid → Ready s gid sid e →
    ∃ t, exec i s = .next t ∧ Passed s t gid sid e ∧ OnlyRegs s t gid

/-- The conditions under which the spec lets an instruction of the core execute normally suffice for it to do so: exec answers
a state in which its split is past it and no trap was raised; EXIT's lanes have left, a branch is at its target, and a
walker's instruction leaves the walker at the next one. -/
def Obligations.InstructionsComplete : Prop :=
  (∀ (i : Instr) (s : State) (gid sid : Nat) (e : Enc), encOf i = some e → Quiet s gid sid → Legal s gid sid e →
    let g := s.group gid
    let a := s.source gid e .int true e.x.a 0
    let n := s.source gid e .int true e.x.b 0
    let idle := g.accs = [] ∧ g.ops = []
    let at' := fun l => address s gid e (offset e) l
    let used := lanesOf (s.lanes gid sid e)
    let passes := fun (check : State → Run → Chk) => ∀ r : Run, r.gid = gid → r.g = s.calm gid → r.lit = e.x.lit →
      r.active = (g.split sid).mask → check (s.calmed gid) r = .ok
    -- BRA, JMPI, EXIT, NOP, YIELD (R131, R132, R138, R142)
    (e.xop = 0x100 → filled s gid → ∃ t, exec i s = .next t ∧ ((t.group gid).split sid).pc = target s gid sid e) ∧
    (e.xop = 0x107 → filled s gid → a % 4 = 0 → ∃ t, exec i s = .next t ∧ ((t.group gid).split sid).pc = BitVec.ofNat 64 a) ∧
    (e.xop = 0x108 → filled s gid → (g.split sid).mask &&& ~~~(s.lanes gid sid e) ≠ 0 →
      (∀ k, k ≠ sid → (g.split k).live = false) →
      ∃ t, exec i s = .next t ∧ (t.group gid).exited = g.exited ||| s.lanes gid sid e) ∧
    (e.xop = 0x109 ∨ e.xop = 0x10A → filled s gid → Finishes i s gid sid e) ∧
    -- XCHG (R128)
    (e.xop = 0x0C4 → Ready s gid sid e → (∀ q ∈ s.xchgs, q.gid ≠ gid) → Finishes i s gid sid e) ∧
    -- LD, ST; ATOM, RED; FENCE, FENCEX, FENCEA; LDFE, STFE, SBIND, SCLOSE (R160 to R179)
    (s.permitted gid = true → (e.xop = 0x200 ∨ e.xop = 0x201) → (∀ l ∈ used, at' l % width e = 0) →
      (e.x.m43 = 2 → redsDone s gid sid (fun k => k = e.x.stream)) → Finishes i s gid sid e) ∧
    (s.permitted gid = true → (e.xop = 0x240 ∨ e.xop = 0x241) →
      (∀ l ∈ used, address s gid e 0 l % width e = 0) →
      (2 ≤ e.x.m43 → redsDone s gid sid (fun k => k = e.x.stream)) → Finishes i s gid sid e) ∧
    (s.permitted gid = true → e.xop = 0x242 → redsDone s gid sid (fun _ => true) → Finishes i s gid sid e) ∧
    (s.permitted gid = true → e.xop = 0x243 → Finishes i s gid sid e) ∧
    (s.permitted gid = true → e.xop = 0x244 → n = 0 → Finishes i s gid sid e) ∧
    (s.permitted gid = true → idle → (s.core (coreOf gid)).matrix = [] → e.xop = 0x202 ∨ e.xop = 0x203 →
      (∀ l ∈ used, at' l % 4 = 0 ∧ at' l + 4 ≤ (s.wgOf gid).spBytes) →
      (∀ l ∈ used, e.xop = 0x202 → (s.wgOf gid).isFull (at' l / 4) = true) →
      (∀ l ∈ used, e.xop = 0x203 → e.x.m10 = 0 → (s.wgOf gid).isFull (at' l / 4) = false) →
      Finishes i s gid sid e) ∧
    (s.permitted gid = true → e.xop = 0x204 → s.source gid e .int false e.x.a 0 % 128 = 0 → 1 ≤ n → n ≤ 8192 →
      s.source gid e .int false e.x.a 0 + 128 * n ≤ (s.wgOf gid).spBytes → Finishes i s gid sid e) ∧
    (s.permitted gid = true → e.xop = 0x205 → (g.port e.x.d.idx.toNat).bound = true → Finishes i s gid sid e) ∧
    -- CPY, CPYT, CPYG, CPYR; BFENCE; BWAIT, BPOLL (R180 to R188, R210, R211)
    (s.permitted gid = true → copyRoom s gid →
      let len := (control s gid e 0).toNat % 2 ^ 32
      (e.xop = 0x280 → placeA s gid e e.x.space % 32 = 0 → placeB s gid e (spaceBits e) % 32 = 0 → copyLength len →
        Finishes i s gid sid e) ∧
      (e.xop = 0x281 → cpytCheck (e.x.mod.toNat / 32 % 32) (e.x.mod.toNat / 8 % 4) (placeA s gid e 1) (placeB s gid e e.x.space)
        ((List.range 4).map (control s gid e)) (g.split sid).mask = .ok → Finishes i s gid sid e) ∧
      (e.xop = 0x282 → placeB s gid e 0 % 16 = 0 → len ≤ 65536 → Finishes i s gid sid e) ∧
      (e.xop = 0x283 → placeA s gid e e.x.space % 32 = 0 → placeB s gid e 0 % 32 = 0 → copyLength len →
        (control s gid e 0).toNat < 2 ^ 32 → (control s gid e 1).toNat < 2 ^ 19 → Finishes i s gid sid e)) ∧
    (e.xop = 0x300 → e.x.mod.getLsbD 2 = false → (g.batches.filter (fun b => b.engine = e.x.mod.toNat % 4)).length < 255 →
      Finishes i s gid sid e) ∧
    (e.xop = 0x301 ∨ e.xop = 0x302 → g.batches = [] →
      (g.last.get 0 (e.x.mod.toNat % 4) - (BitVec.ofNat 16 n : BitVec 16)).toNat < 32768 → Finishes i s gid sid e) ∧
    -- QINIT, QSTAT, MUSTER.INIT, .ARRIVE, .WAIT, .POLL; CLAIM, GIVE; CANCEL, CNTRD; BAR (R213, R218 to R222, R227, R228)
    (∀ pa, s.permitted gid = true → idle → g.ctx < 8 → roomAt s pa → s.ecc = [] → (∀ w ∈ s.waiters, w.block ≠ pa) →
      (e.xop = 0x303 → Object s gid a 64 pa → n % 256 = 0 → n < 2 ^ 56 → blockValid (s.peekBytes pa 64) = false →
        Finishes i s gid sid e) ∧
      (e.xop = 0x306 → Object s gid a 64 pa →
        queueFails (s.peekBytes pa 64) g.ctx none (s.farDie gid pa) false = none → Finishes i s gid sid e) ∧
      (e.xop = 0x307 ∨ e.xop = 0x308 → Object s gid a 32 pa → n % 2 ^ 32 ≠ 0 →
        (e.xop = 0x308 → homeBits s pa 32 225 224 = 0) → Finishes i s gid sid e) ∧
      (e.xop = 0x309 → Object s gid a 32 pa → homeBits s pa 32 95 64 ≠ n % 2 ^ 32 → e.x.d = Dst.zero →
        Finishes i s gid sid e) ∧
      (e.xop = 0x30A → Object s gid a 32 pa → Finishes i s gid sid e)) ∧
    (e.xop = 0x30B ∨ e.xop = 0x30C → g.liveSplits.length ≤ 1 → g.rets = [] → g.retSpill = 0 → n % 2 ^ 32 % 8 = 0 →
      8 ≤ n % 2 ^ 32 → (e.xop = 0x30B → g.alloc + n % 2 ^ 32 ≤ 1024 ∧ (s.claimNow gid (n % 2 ^ 32)).isSome = true) →
      (e.xop = 0x30C → n % 2 ^ 32 ≤ 1024 ∧ n % 2 ^ 32 + 8 ≤ g.alloc) → Finishes i s gid sid e) ∧
    (e.xop = 0x30E ∨ e.xop = 0x30F → (s.ctx g.ctx).counter (e.x.mod.toNat % 4) (BitVec.ofNat 32 n) = none →
      Finishes i s gid sid e) ∧
    (e.xop = 0x310 → idle → g.live = true → g.retiring = false → (s.wgOf gid).groups = [gid] → g.handler = none →
      (∀ j, (g.split j).due = none) → g.liveSplits.length ≤ 1 → Finishes i s gid sid e) ∧
    -- TLD to MCVT; NMDOT, NMDIST, NMLUT, NMRED, NMFILL, SEARCH, SCANCEL (R190 to R192, R233 to R249)
    (0x2C0 ≤ e.xop → e.xop ≤ 0x2C8 → s.permitted gid = true → tilesHeld s gid e → (s.core (coreOf gid)).matrix.length < 16 →
      (∀ r : Run, r.gid = gid → r.active = (g.split sid).mask → matrixChk (matrixOf s gid e) s r = .ok) →
      Finishes i s gid sid e) ∧
    (s.permitted gid = true → (s.core (coreOf gid)).near.length < 64 →
      (e.xop = 0x340 ∨ e.xop = 0x341 → passes (nmdotCheck e.x) → Finishes i s gid sid e) ∧
      (e.xop = 0x342 → passes (nmlutCheck e.x) → Finishes i s gid sid e) ∧
      (e.xop = 0x343 → a % 4 = 0 → n % 4 = 0 → 4 ≤ n → n ≤ 2 ^ 24 → passes (regionCheck e.x 4 0) → Finishes i s gid sid e) ∧
      (e.xop = 0x344 → a % 32 = 0 → n % 32 = 0 → 32 ≤ n → n ≤ 2 ^ 24 → passes (regionCheck e.x 32 1) →
        Finishes i s gid sid e)) ∧
    (s.permitted gid = true → e.xop = 0x345 → a % 64 = 0 →
      (∀ r : Run, r.gid = gid → r.active = (g.split sid).mask → (s.calmed gid).rangesChk r 0 [(0, a, 64)] = .ok) →
      Finishes i s gid sid e) ∧
    (s.permitted gid = true → e.xop = 0x346 → BitVec.ofNat 32 n = (0 : Word) → Finishes i s gid sid e) ∧
    -- TMASK, TUNMASK, SRD, SWR, PFRD, TIME, SLEEP (R230 to R232)
    (e.xop = 0x3C2 ∨ e.xop = 0x3C3 → g.traps = [] → Finishes i s gid sid e) ∧
    (e.xop = 0x3C4 → (e.x.mod.toNat % 256 = 0x30 → g.super = true) → Finishes i s gid sid e) ∧
    (e.xop = 0x3C5 → ¬ readOnly g.super (e.x.mod.toNat % 256) → g.traps = [] → Finishes i s gid sid e) ∧
    (e.xop = 0x3C7 → (let sel := s.source gid e .bits true e.x.b 0 % 256; sel < 0x40 ∨ 0x47 < sel) → Finishes i s gid sid e) ∧
    (e.xop = 0x3C8 → Finishes i s gid sid e) ∧
    (e.xop = 0x3C9 → g.sleeps.look sid = none → n % 2 ^ 32 = 0 → Finishes i s gid sid e)) ∧
  -- WNODE, WNBR, WDIST, WHEAP, WKTH, WVISIT, WHOP, WSPAWN, WEND (R250 to R252)
  ∀ (i : Instr) (s : State) (id : Nat) (e : Enc), encOf i = some e → Strides s id e →
    let k := s.walker id
    let q := s.search k.search
    let a := walkerRead s id e e.x.a
    let st := a % 2 ^ 32 / 2 ^ 29
    (e.xop = 0x380 → e.x.d.idx.toNat ≤ 13 → a % 2 ^ 32 = 0xFFFF_FFFF → Strode i s id e) ∧
    (e.xop = 0x381 → a % 4 = 0 → ∀ pa,
      s.bankPlace q.ctx false 0 k.stack ((a + 4 * (walkerRead s id e e.x.b % 2 ^ 32)) % 2 ^ 64) = .at pa → Strode i s id e) ∧
    (e.xop = 0x382 → s.ecc = [] → a % 64 = 0 → a % 2048 + q.vecBytes ≤ 2048 → q.query.length = q.vecBytes → ∀ pa,
      s.bankPlace q.ctx false 0 k.stack a = .at pa → pa % 64 = 0 →
      (∀ j, j < q.vecBytes → (s.dram pa + j) / 32 ∉ s.poison) → Strode i s id e) ∧
    (e.xop = 0x383 ∨ e.xop = 0x384 → Strode i s id e) ∧
    (e.xop = 0x385 → ∀ pa, VisitedAt s q (a % 2 ^ 32) pa → Strode i s id e) ∧
    (e.xop = 0x386 → s.stops = [] → st ∈ q.stacks → q.hops < field q.desc 383 352 → Strode i s id e) ∧
    (e.xop = 0x387 → s.stops = [] → st ∈ q.stacks → id ≠ s.ids → Strode i s id e) ∧
    (e.xop = 0x388 → s.stops = [] → ∃ t, exec i s = .next t ∧ t.walkers.look id = none ∧
      (t.search k.search).walkers = q.walkers - 1)

/-- Each event of the opcode table happens when what it needs holds: exec answers the state after it, of which the one thing
that names the event is said here (the statements on each say the rest). -/
def Obligations.EventsComplete : Prop :=
  -- results, queues and rows (R175, R215, R217, R220, R222, R232, R259, R273, R301)
  (∀ (s : State) (gid k : Nat) (r : Reply), (s.group gid).replies[k]? = some r → (∀ i, r.target ≠ .port i) →
    ∃ t, exec (.asyncWriteArrival gid k) s = .next t ∧ (t.group gid).replies = (s.group gid).replies.eraseIdx k) ∧
  (∀ (s : State) (gid c : Nat), (s.slot (slotOf gid)).rotation.find? (fun e => e.1 = gid) = some (gid, c) → c ≠ 0 →
    c + 64 ≤ s.cycle + 1 → ∃ t, exec (.throttleRotation gid) s = .next t ∧
      ((t.slot (slotOf gid)).rotation.map (·.1)).getLast? = some gid) ∧
  (∀ (s : State) (k : Nat) (q : Xchg), s.xchgs[k]? = some q → q.stage = 0 → s.onTheWay q.reply = false →
    (∀ o ∈ s.xchgs.take k, o.stage = 0 → coreOf o.gid ≠ coreOf q.gid) → (∀ o ∈ s.xchgs, o.stage ≠ 1) →
    ∃ t, exec (.xchgRequestArrival k) s = .next t ∧ { q with stage := 1 } ∈ t.xchgs) ∧
  (∀ (s : State) (gid sid c : Nat), ((s.group gid).split sid).wait = .retry c → ((s.group gid).split sid).why = 6 →
    ∃ t, exec (.queuePollRetry gid sid) s = .next t ∧ ((t.group gid).split sid).wait = .none) ∧
  (∀ (s : State) (k : Nat) (a : Arrival) (pa : Nat) (en : DWord) (leaf : Nat), s.arrivals[k]? = some a →
    (s.ctx a.ctx).dead = false → a.after = [] → a.core = none → roomAt s pa → s.ecc = [] →
    s.translate a.ctx false false 1 a.addr.toNat = .ok pa en leaf → pa % 32 = 0 → s.waiters = [] →
    ∃ t, exec (.musterArrivalCommand k) s = .next t ∧ t.arrivals = s.arrivals.eraseIdx k) ∧
  (∀ (s : State) (gid sid u : Nat) (p : Pend), ((s.group gid).split sid).pend = some p →
    (s.group gid).sleeps.look sid = some u → ((s.group gid).split sid).wait = .sleep → u ≤ s.time →
    (s.group gid).stepping = false → p.eff ≠ 0 → s.mayStart (s.group gid).ctx = true →
    ∃ t, exec (.sleepEnd gid sid) s = .next t ∧ (t.group gid).sleeps.look sid = none) ∧
  -- the fabric (R297, R300)
  (∀ (s : State) (port : Nat), ∀ p ∈ (s.fabric port).packets, 64 ≤ p.lost → p.promoted = none →
    ∃ t, exec (.packetPromotion port p.input p.chan) s = .next t ∧
      ∀ q ∈ (t.fabric port).packets, q.input = p.input → q.chan = p.chan → 64 ≤ q.lost → q.promoted ≠ none) ∧
  (∀ (s : State) (port : Nat) (p : Packet), (s.fabric port).packets = [p] → p.promoted ≠ none →
    EligibleAt s port 0 p → (s.fabric port).backlog = [] → p.route = [] → p.cargo.answer = none →
    ∃ t, exec (.fabricGrant port) s = .next t ∧ (t.fabric port).packets = []) ∧
  (∀ (s : State) (cl : Nat), cl < 32 → 256 ≤ (s.cluster cl).samples →
    ∃ t, exec (.congestionInterval cl) s = .next t ∧ (t.cluster cl).samples = 0) ∧
  -- the engines (R181, R189, R202, R235)
  (∀ (s : State) (core k : Nat) (c : Copy), (s.core core).copies[k]? = some c → c.units = [] → c.staged = [] →
    c.tail = [] → c.sent = false → s.allDone c.gid c.after = true → s.mayWork c.ctx (640 + core) = true →
    ∃ t, exec (.copyCompletion core k) s = .next t ∧ (t.core core).copies = (s.core core).copies.eraseIdx k) ∧
  (∀ (s : State) (core : Nat) (m : Matrix) (rest : List Matrix), (s.core core).matrix = m :: rest → m.started = false →
    m.since ≤ s.cycle → s.matrixBusy m = false → s.mayWork (s.wg m.wg).ctx (512 + core) = true →
    ∃ t x, exec (.matrixInstructionStart core) s = .next t ∧ (t.core core).matrix = x :: rest ∧ x.started = true) ∧
  (∀ (s : State) (core : Nat) (m : Matrix) (rest : List Matrix), Running s core m rest → m.op = 0 ∨ m.op = 3 →
    m.snap = [] → ∃ t, exec (.matrixInstructionComplete core) s = .next t ∧ (t.core core).matrix = rest) ∧
  (∀ (s : State) (core : Nat) (m : Matrix) (rest : List Matrix), Running s core m rest → m.op = 5 → m.step < m.steps →
    m.stepReady (s.wg m.wg) = true → m.phase ≤ 2 →
    ∃ t x, exec (.mloopStep core) s = .next t ∧ (t.core core).matrix = x :: rest ∧ x.step = m.step + 1) ∧
  (∀ (s : State) (core k : Nat) (n : Near), (s.core core).near[k]? = some n → n.op = 3 ∨ n.op = 4 → n.forwarded = false →
    s.allDone n.gid n.after = true → s.mayWork n.ctx (768 + n.stack) = true →
    ∃ t, exec (.nmCommandForward core k) s = .next t ∧ (t.core core).near =
      (s.core core).near.set k { n with forwarded := true, stack := s.stackFor n.ctx n.super n.addr }) ∧
  (∀ (s : State) (core k : Nat) (n : Near), (s.core core).near[k]? = some n → n.finished = true → n.target = .none →
    n.bad = none → n.readBad = none → n.stop = none → s.mayWork n.ctx (768 + n.stack) = true →
    ∃ t, exec (.nmCommandComplete core k) s = .next t ∧ (t.core core).near = (s.core core).near.eraseIdx k) ∧
  -- walkers (R248 to R252)
  (∀ (s : State) (n w : Nat), s.walkersWork (s.search (s.walker w).search).ctx = true → s.stops = [] →
    (∀ o wd pk, s.msgs[n]? = some (.heap w o wd pk) →
      ∃ t m, exec (.heapOffer n) s = .next t ∧ t.msgs = s.msgs.eraseIdx n ++ [m]) ∧
    (∀ node pd pa, s.msgs[n]? = some (.visited w node pd) → VisitedAt s (s.search (s.walker w).search) node.toNat pa →
      ∃ t m, exec (.visitedRequest n) s = .next t ∧ t.msgs = s.msgs.eraseIdx n ++ [m]) ∧
    (∀ wd pd, s.msgs[n]? = some (.reply w wd pd) →
      ∃ t, exec (.walkerReplyArrival n) s = .next t ∧ (t.walker w).waiting = false) ∧
    (∀ goal, (s.walker w).travel = true → (∃ j, j < 4 ∧ s.contexts goal j < 64) →
      (s.msgs[n]? = some (.hop w goal) → ∃ t, exec (.walkerHopArrival n) s = .next t ∧ (t.walker w).stack = goal) ∧
      (s.msgs[n]? = some (.spawn w goal) → ∃ t, exec (.walkerSpawnStart n) s = .next t ∧ (t.walker w).stack = goal))) ∧
  -- launches and pre-emption (R322, R323, R327, R329)
  (∀ (s : State) (l : Nat) (x : Launch), s.launches.look l = some x → x.grid ≤ x.done → x.grid ≠ 0 ∨ x.deps = [] →
    s.mayWork x.ctx 808 = true → ∃ t, exec (.launchCompletion l) s = .next t ∧ t.launches.look l = none) ∧
  (∀ (s : State) (wi n : Nat), (s.wg wi).preempt = some (1, n) → n ≤ s.time → s.mayWork (s.wg wi).ctx 808 = true →
    ∃ t k, exec (.drainExpiry wi) s = .next t ∧ (t.wg wi).preempt = some (3, k)) ∧
  (∀ (s : State) (ctx n : Nat), (s.ctx ctx).preemptEnd = some n → n ≤ s.time → (s.ctx ctx).halted = false →
    s.power.entering = false → ∃ t, exec (.preemptionDeadline ctx) s = .next t ∧ (t.ctx ctx).cause = 0xC4) ∧
  -- halts and debugging (R375 to R379)
  (∀ (s : State) (ctx : Nat) (cause : BitVec 8) (a : BitVec 64) (engine : Nat), ctx < 8 → 0xC0 ≤ cause → cause ≤ 0xC4 →
    ∃ t, exec (.contextHalt ctx cause a engine) s = .next t ∧ (t.ctx ctx).halted = true) ∧
  (∀ (s : State) (ctx : Nat), (s.ctx ctx).halted = false →
    ∃ t, exec (.debugHaltRequest ctx) s = .next t ∧ (t.ctx ctx).halted = true) ∧
  (∀ (s : State) (ctx : Nat), (s.ctx ctx).debugHalt = true →
    ∃ t, exec (.debugResume ctx) s = .next t ∧ (t.ctx ctx).halted = false) ∧
  -- memory and its registers (R339, R341, R366, R368, R385)
  (∀ (s : State) (ctx : Nat) (va : BitVec 64), ∃ t, exec (.shootdownPortWrite ctx va) s = .next t ∧ t.blockWord ctx 12 = 1) ∧
  (∀ (s : State) (ctx k va : Nat), (s.ctx ctx).shootdowns[k]? = some va → s.shotBusy ctx va = false →
    ∃ t, exec (.shootdownComplete ctx k) s = .next t ∧ (t.ctx ctx).shootdowns = (s.ctx ctx).shootdowns.eraseIdx k) ∧
  (∀ (s : State) (ctx : Nat) (pa : BitVec 64), s.window pa.toNat = some 0 → pa.toNat % 65536 = 0 →
    (s.ctx ctx).pool.length + (s.ctx ctx).promoted.length +
      (s.moves.filter (fun m => m.ctx = ctx && !m.down)).length < 65535 → ∃ t, exec (.poolPortWrite ctx pa) s = .next t ∧
      (t.ctx ctx).pool = (s.ctx ctx).pool ++ [pa.toNat]) ∧
  (∀ (s : State) (m : Move), s.moves.find? (fun x => x.slice = m.slice) = some m → m.leaf % 8 = 0 →
    ∃ t, exec (.pagePromotion m.slice) s = .next t ∧ t.moves = s.moves.erase m) ∧
  (∀ (s : State) (k : Nat), blBase ≤ k * 32 → k * 32 < capBase → k ∉ s.poison → (k, true) ∈ s.ecc →
    (∀ b, (k, b) ∈ s.ecc → b = true) → ∃ t, exec (.scrub k) s = .next t ∧ k ∈ t.poison) ∧
  (∀ s : State, s.power.entering = false → s.power.state ≠ .camp →
    (∃ t, exec (.campreq s.owner) s = .next t ∧ t.power.entering = true) ∧
    ∃ t, exec .powerFailWarning s = .next t ∧ t.power.entering = true) ∧
  (∀ (s : State) (reader : Nat), ∃ t, exec (.powerControlRead reader) s = .next t ∧ t.power.lastDeep = 0) ∧
  -- the network and the sideband (R359, R360, R399)
  (∀ (s : State) (w : Waybill), w.typ.toNat = 0 ∨ 9 < w.typ.toNat →
    ∃ t, exec (.waybillDiscard w) s = .next t ∧ t.waybillsDropped = s.waybillsDropped + 1) ∧
  (∀ (s : State) (k τ : Nat), s.power.state ≠ .camp → (s.stream k).ackDue = some τ → τ ≤ s.time →
    ∃ t, exec (.ackDelayExpiry k) s = .next t ∧ (t.stream k).ackDue = none) ∧
  ∀ s : State, ∃ t, exec .sidebandNack s = .next t ∧ t.mgmt.nacks = s.mgmt.nacks + 1

/-- The events that serve a waiting queue operation or claim, write a row, commit a relay, clear a workgroup away and bring it
back, stop an engine, release a context and step for a debugger happen when what they need holds, which the conditions on
the state say: QENQ_PUBLISH (R215), QUEUE_WAITER_SERVED (R217), CLAIM_SERVED (R222), COPY_FE_ROW_WRITE (R182, R307),
RELAY_COMMIT (R226, R325), FLUSH_AND_RESTART, WORKGROUP_SAVE and WORKGROUP_RESTORE (R329, R330), ENGINE_HALT_STOP (R376),
CONTEXT_RELEASE (R394), DEBUG_STEP (R379). Exec answers the state after it, of which the one thing that names the event is
said here; the statements on each say the rest, and name the model's choices in it. -/
def Obligations.ServicesComplete : Prop :=
  -- an element in the scratchpad, published at TAIL, with no other enqueue under way
  (∀ (s u v : State) (x : Enq) (bs : List (Byte × Bool)) (y : Option (Nat × Bool)), s.enqs = [x] → x.published = false →
    x.deq = false → s.enqReady x = true → x.space = 1 → (s.group x.gid).handler = none →
    ((s.group x.gid).split x.sid).wait = .publish → ((s.group x.gid).split x.sid).due = none →
    s.mayControl (s.group x.gid).ctx = true → (s.group x.gid).ctx < 8 → x.block % 64 = 0 →
    let q := s.qRead x.block
    x.index = q.tail → 1 ≤ q.penq → q.owner < 8 → q.esz < 3 → x.size = 64 * 2 ^ q.esz →
    s.getBytes (x.size / 32) ((s.group x.gid).who x.gid) ⟨1, x.src⟩ x.size = (u, .ok bs, y) →
    u.putBytes (x.size / 32) { (s.group x.gid).who x.gid with ctl := true } ⟨0, q.slot x.index⟩ bs = (v, .ok []) →
    s.listBusy (s.group x.gid) (regionList ((bs.map (·.1)).take 32)) = false →
    s.listFault (s.group x.gid) (regionList ((bs.map (·.1)).take 32)) = none →
    v.peekBytes x.block 64 = s.peekBytes x.block 64 → roomAt v x.block → (v.core (coreOf x.gid)).l1 = [] →
    ∃ t, exec (.qenqPublish 0) s = .next t ∧ t.enqs = [] ∧ (t.qRead x.block).tail = (q.tail + 1) % 2 ^ 32 ∧
      ((t.group x.gid).split x.sid).wait = .none) ∧
  -- a parked enqueue, when a slot is free; a parked dequeue into the scratchpad, when an element is there
  (∀ (s : State) (pa : Nat) (enq : Bool) (w : Waiter) (rest : List Waiter) (p : Pend), s.parked pa enq = w :: rest →
    (∀ v ∈ rest, ¬(v.gid = w.gid ∧ v.sid = w.sid)) →
    ((s.group w.gid).split w.sid).pend = some p → (s.group w.gid).stepping = false → pa % 64 = 0 → roomAt s pa →
    s.mayStart (s.group w.gid).ctx = true → s.stoppedWg (s.group w.gid) = false →
    let q := s.qRead pa
    (enq = true → 0 < q.free ∧ 1 ≤ q.enqw ∧ q.penq < 255) →
    (enq = false → p.space = 1 ∧ 0 < (q.tail + 2 ^ 32 - q.head) % 2 ^ 32 ∧ 1 ≤ q.deqw ∧ q.pdeq < 255 ∧
      s.rangeBusy (s.group w.gid) (pagesOf (q.slot q.head) (64 * 2 ^ q.esz)) = false) →
    ∃ t, exec (.queueWaiterServed pa enq) s = .next t ∧ t.parked pa enq = rest ∧
      ((t.group w.gid).split w.sid).wait = .publish) ∧
  -- the first waiting claim, when its rows can be had
  (∀ (s : State) (slot : Nat) (c : Claim) (rest : List Claim) (p : Pend), (s.slot slot).claims = c :: rest → c ∉ rest →
    slotOf c.gid = slot → s.mayStart (s.group c.gid).ctx = true → (s.grant c.gid c.rows).isSome = true →
    ((s.group c.gid).split c.sid).pend = some p → p.eff ≠ 0 → (s.group c.gid).stepping = false →
    ∃ t, exec (.claimServed slot) s = .next t ∧ (t.slot slot).claims = rest ∧
      (t.group c.gid).alloc = (s.group c.gid).alloc + c.rows ∧ ((t.group c.gid).split c.sid).wait = .none) ∧
  -- a row of a .fe copy inside the scratchpad, when its words are empty
  (∀ (s : State) (core k : Nat) (c : Copy) (src dst : Loc) (rest : List CUnit),
    (s.core core).copies[k]? = some c → c.kind = 0 → c.mod.getLsbD 6 = true → c.units = .sector src dst :: rest →
    c.staged = [] → c.tail = [] → src.space = 1 → dst.space = 1 → src.addr % 32 = 0 → dst.addr % 32 = 0 →
    src.addr + 32 ≤ (s.wg c.wg).spBytes → dst.addr + 32 ≤ (s.wg c.wg).spBytes →
    (∀ j, j < 8 → (s.wg c.wg).isFull (dst.addr / 4 + j) = false) →
    s.allDone c.gid c.after = true → s.mayWork c.ctx (640 + core) = true →
    ∃ t, exec (.copyFeRowWrite core k) s = .next t ∧ (∀ j, j < 8 → (t.wg c.wg).isFull (dst.addr / 4 + j) = true) ∧
      ∃ d, (t.core core).copies[k]? = some d ∧ d.units = rest) ∧
  -- the relay of a workgroup of one group, when its manifest passes and the core has the successor's needs
  (∀ (s u v : State) (wi gid : Nat) (a m : DWord) (bs : List Byte) (k : Checked),
    let w := s.wg wi
    s.relayReady wi = true → s.mayWork w.ctx 808 = true → w.preempt = none → w.cancelled = false →
    s.wgLive wi = [gid] → w.groups = [gid] → w.ngrp = 1 → (s.group gid).live = true → (s.group gid).wg = wi →
    (s.group gid).relay = some (a, m) → (s.group gid).cancelled = 0 → (s.group gid).relayTrap = none →
    s.distRead w.ctx false a.toNat 128 = (u, .ok bs) → field bs 964 964 = 1 → field bs 970 968 = 0 → field bs 975 972 = 0 →
    u.checkManifest w.ctx false bs = (v, .ok k) → v.relaySub wi bs k = 0 → v.successor k.launch = none →
    (v.ctx w.ctx).counters.length + (v.ctx w.ctx).newCounters k.launch ≤ 4096 →
    v.groups = s.groups → v.slots = s.slots → v.wgs = s.wgs →
    (v.room w.core (some wi)).fitsAt (dNeed k.launch.descBytes) w.base = true →
    (v.relayRows gid (dRows k.launch.descBytes) m).isSome = true →
    ∃ t, exec (.relayCommit wi) s = .next t ∧ (t.group gid).live = true ∧ (t.group gid).relay = none ∧
      ((t.group gid).split 0).pc = BitVec.ofNat 64 (field k.launch.descBytes 63 0)) ∧
  -- pre-emption: a workgroup whose engines rest is flushed; one that is ready for it is saved; a saved one is restored
  (∀ (s : State) (wi n : Nat), (s.wg wi).preempt = some (2, n) → s.mayWork (s.wg wi).ctx 808 = true →
    (∀ i ∈ (s.wg wi).groups, s.engineWork i = false ∧ (s.group i).accs = []) → waitsForNone s wi →
    (∀ c ∈ (s.ctx (s.wg wi).ctx).counters, c.cancelled = false) →
    ∃ t, exec (.flushAndRestart wi) s = .next t ∧ t.wgs.look wi = none ∧
      (s.wg wi).wgid ∈ (t.launch (s.wg wi).launch).again) ∧
  (∀ (s : State) (wi n : Nat), (s.wg wi).preempt = some (3, n) → s.mayWork (s.wg wi).ctx 808 = true →
    s.saveReady wi s.power.entering = true → s.wgLive wi ≠ [] →
    ∃ t v, exec (.workgroupSave wi) s = .next t ∧ t.wgs.look wi = none ∧ t.saved = s.saved ++ [v] ∧
      v.wg.wgid = (s.wg wi).wgid) ∧
  (∀ (s : State) (core l c b : Nat) (x : Launch) (v : Saved) (vs : List Saved),
    s.candidates.find? (fun e => s.fitsNow e.1 e.2) = some (l, x) → s.savedOf l = v :: vs →
    s.whereTo core l x = some [(c, b)] → (State.resumeAll l [(c, b)] (s.passOver l x)).isSome = true →
    (v.groups.map (·.1)).Nodup → (∀ e ∈ v.groups, e.1 < v.wg.ngrp) → c < 128 →
    ∃ t, exec (.workgroupRestore core) s = .next t ∧ t.saved = s.saved.erase v ∧ (t.wg s.ids).wgid = v.wg.wgid) ∧
  -- halts and debugging
  (∀ (s : State) (ctx engine : Nat), let c := s.ctx ctx
    c.halted = true → engine ∈ c.stopping → ctx < 8 → engine ≤ 808 → (c.debugHalt = true → s.atDebugStop ctx engine = true) →
    ∃ t, exec (.engineHaltStop ctx engine) s = .next t ∧ (t.ctx ctx).stopping = c.stopping.filter (· ≠ engine)) ∧
  (∀ (s : State) (ctx : Nat), let c := s.ctx ctx
    c.halted = true → c.debugHalt = false → c.stopping = [] → s.xchgs = [] →
    (∀ e ∈ s.searches, e.2.ctx = ctx → e.2.admitted = false) →
    ∃ t, exec (.contextRelease s.owner ctx) s = .next t ∧ (t.ctx ctx).halted = false ∧
      ∀ e ∈ t.groups, e.2.ctx ≠ ctx) ∧
  ∀ (s : State) (ctx : Nat), let c := s.ctx ctx
    let f := (BitVec.extractLsb 31 25 c.debug).toNat * 64 + (BitVec.extractLsb 24 23 c.debug).toNat * 16 +
      (BitVec.extractLsb 22 19 c.debug).toNat
    let g := s.group f
    let x := g.split g.dbgfocus.toNat
    c.debugHalt = true → c.stopping = [] → g.live = true → g.ctx = ctx → g.dbgfocus.toNat < 4 → x.live = true →
    x.parked = false → x.wait = .none → (∀ h, g.handler = some h → h.split = g.dbgfocus.toNat) →
    ∃ t, exec (.debugStep ctx) s = .next t ∧ (t.ctx ctx).stepReq = some none
end

