-- ==== Sys2Proof/Laws/Tab.lean ====
section
/-! SUPPORT. Sparse tables and memory: reading after a write, and the canonical form. -/

namespace Sys2Proof

variable {α : Type}

/-- Deleting a number: it reads as unlisted. -/
@[simp] theorem Tab.get_del_same (d : α) (t : Tab α) (i : Nat) : (t.del i).get d i = d := by
  induction t with
  | nil => rfl
  | cons e t ih =>
    obtain ⟨k, v⟩ := e
    by_cases h : k = i <;> simp [Tab.del, Tab.get, h, ih]

/-- Deleting a number leaves the others. -/
theorem Tab.get_del_ne (d : α) (t : Tab α) {i j : Nat} (h : j ≠ i) : (t.del i).get d j = t.get d j := by
  induction t with
  | nil => rfl
  | cons e t ih =>
    obtain ⟨k, v⟩ := e
    by_cases hk : k = i
    · subst hk; simp [Tab.del, Tab.get, ih, Ne.symm h]
    · by_cases hj : k = j
      · subst hj; simp [Tab.del, Tab.get, hk]
      · simp [Tab.del, Tab.get, hk, hj, ih]

/-- An inserted pair is read where its number was not listed. -/
theorem Tab.get_ins_same (d : α) (t : Tab α) (i : Nat) (v : α) (h : ∀ e ∈ t, e.1 ≠ i) :
    (t.ins i v).get d i = v := by
  induction t with
  | nil => simp [Tab.ins, Tab.get]
  | cons e t ih =>
    obtain ⟨k, w⟩ := e
    have hk : k ≠ i := h (k, w) (List.mem_cons_self ..)
    by_cases hi : i < k
    · simp [Tab.ins, Tab.get, hi]
    · simp [Tab.ins, Tab.get, hi, hk, ih (fun e he => h e (List.mem_cons_of_mem _ he))]

/-- An inserted pair leaves the others. -/
theorem Tab.get_ins_ne (d : α) (t : Tab α) {i j : Nat} (v : α) (h : j ≠ i) : (t.ins i v).get d j = t.get d j := by
  induction t with
  | nil => simp [Tab.ins, Tab.get, Ne.symm h]
  | cons e t ih =>
    obtain ⟨k, w⟩ := e
    by_cases hi : i < k
    · simp [Tab.ins, Tab.get, hi, Ne.symm h]
    · by_cases hj : k = j
      · subst hj; simp [Tab.ins, Tab.get, hi]
      · simp [Tab.ins, Tab.get, hi, hj, ih]

/-- A deleted number is not listed. -/
theorem Tab.not_mem_del (t : Tab α) (i : Nat) : ∀ e ∈ t.del i, e.1 ≠ i := by
  induction t with
  | nil => simp [Tab.del]
  | cons e t ih =>
    obtain ⟨k, v⟩ := e
    by_cases h : k = i
    · simpa [Tab.del, h] using ih
    · intro e he
      simp only [Tab.del, h, if_false, List.mem_cons] at he
      rcases he with rfl | he
      · exact h
      · exact ih e he

/-- A listed value's number is among the numbers. -/
theorem Tab.mem_keys_of_look (t : Tab α) {i : Nat} {v : α} (h : t.look i = some v) : i ∈ t.keys := by
  induction t with
  | nil => cases h
  | cons e t ih =>
    simp only [Tab.look] at h
    split at h
    · simp_all [Tab.keys]
    · exact List.mem_cons_of_mem _ (ih h)

@[simp] theorem Tab.get_put_same (d : α) (t : Tab α) (i : Nat) (v : α) : (t.put i v).get d i = v :=
  Tab.get_ins_same d _ i v (Tab.not_mem_del t i)

theorem Tab.get_put_ne (d : α) (t : Tab α) {i j : Nat} (v : α) (h : j ≠ i) : (t.put i v).get d j = t.get d j := by
  rw [Tab.put, Tab.get_ins_ne d _ v h, Tab.get_del_ne d t h]

theorem Tab.get_put (d : α) (t : Tab α) (i j : Nat) (v : α) :
    (t.put i v).get d j = if j = i then v else t.get d j := by
  by_cases h : j = i
  · subst h; simp
  · simp [h, Tab.get_put_ne d t v h]

variable [DecidableEq α]

@[simp] theorem Tab.get_set_same (d : α) (t : Tab α) (i : Nat) (v : α) : (t.set d i v).get d i = v := by
  by_cases h : v = d
  · simp [Tab.set, h]
  · simp [Tab.set, h, Tab.get_ins_same d _ i v (Tab.not_mem_del t i)]

theorem Tab.get_set_ne (d : α) (t : Tab α) {i j : Nat} (v : α) (h : j ≠ i) : (t.set d i v).get d j = t.get d j := by
  by_cases hv : v = d
  · simp [Tab.set, hv, Tab.get_del_ne d t h]
  · simp [Tab.set, hv, Tab.get_ins_ne d _ v h, Tab.get_del_ne d t h]

theorem Tab.get_set (d : α) (t : Tab α) (i j : Nat) (v : α) :
    (t.set d i v).get d j = if j = i then v else t.get d j := by
  by_cases h : j = i
  · subst h; simp
  · simp [h, Tab.get_set_ne d t v h]

/-! ### The canonical form -/

/-- A canonical table above a bound is canonical above a lower one, and above none. -/
theorem Tab.wfFrom_mono (d : α) (t : Tab α) {b c : Option Nat} (h : Tab.wfFrom d c t = true)
    (hb : ∀ x, b = some x → ∃ y, c = some y ∧ x ≤ y) : Tab.wfFrom d b t = true := by
  cases t with
  | nil => rfl
  | cons e t =>
    obtain ⟨k, v⟩ := e
    simp only [Tab.wfFrom, Bool.and_eq_true] at h ⊢
    refine ⟨⟨?_, h.1.2⟩, h.2⟩
    cases b with
    | none => rfl
    | some x =>
      obtain ⟨y, rfl, hy⟩ := hb x rfl
      have := h.1.1
      simp only [decide_eq_true_eq] at this ⊢
      omega

theorem Tab.wfFrom_none (d : α) (t : Tab α) (b : Option Nat) (h : Tab.wfFrom d b t = true) :
    Tab.wfFrom d none t = true := Tab.wfFrom_mono d t h (fun _ hx => by cases hx)

theorem Tab.wfFrom_del (d : α) (t : Tab α) (i : Nat) (b : Option Nat) (h : Tab.wfFrom d b t = true) :
    Tab.wfFrom d b (t.del i) = true := by
  induction t generalizing b with
  | nil => rfl
  | cons e t ih =>
    obtain ⟨k, v⟩ := e
    simp only [Tab.wfFrom, Bool.and_eq_true] at h
    by_cases hk : k = i
    · simp only [Tab.del, hk, if_true]
      refine ih b (Tab.wfFrom_mono d t h.2 ?_)
      rintro x rfl
      have := h.1.1
      simp only [decide_eq_true_eq] at this
      exact ⟨k, rfl, Nat.le_of_lt this⟩
    · simp only [Tab.del, hk, if_false, Tab.wfFrom, Bool.and_eq_true]
      exact ⟨h.1, ih _ h.2⟩

theorem Tab.wfFrom_ins (d : α) (t : Tab α) (i : Nat) (v : α) (b : Option Nat) (h : Tab.wfFrom d b t = true)
    (hb : ∀ x, b = some x → x < i) (hv : v ≠ d) (hi : ∀ e ∈ t, e.1 ≠ i) :
    Tab.wfFrom d b (t.ins i v) = true := by
  induction t generalizing b with
  | nil =>
    cases b with
    | none => simp [Tab.ins, Tab.wfFrom, hv]
    | some x => simp [Tab.ins, Tab.wfFrom, hv, hb x rfl]
  | cons e t ih =>
    obtain ⟨k, w⟩ := e
    simp only [Tab.wfFrom, Bool.and_eq_true] at h
    by_cases hk : i < k
    · simp only [Tab.ins, hk, if_true, Tab.wfFrom, Bool.and_eq_true]
      refine ⟨⟨?_, by simp [hv]⟩, ⟨⟨by simp [hk], h.1.2⟩, h.2⟩⟩
      cases b with
      | none => rfl
      | some x => simp [hb x rfl]
    · simp only [Tab.ins, hk, if_false, Tab.wfFrom, Bool.and_eq_true]
      have hne : k ≠ i := hi (k, w) (List.mem_cons_self ..)
      refine ⟨h.1, ih _ h.2 ?_ (fun e he => hi e (List.mem_cons_of_mem _ he))⟩
      intro x hx
      cases hx
      omega

/-- Writing keeps the canonical form. -/
theorem Tab.wf_set (d : α) (t : Tab α) (i : Nat) (v : α) (h : t.wf d = true) : (t.set d i v).wf d = true := by
  by_cases hv : v = d
  · simpa [Tab.set, hv, Tab.wf] using Tab.wfFrom_del d t i none h
  · simp only [Tab.set, hv, if_false, Tab.wf]
    exact Tab.wfFrom_ins d _ i v none (Tab.wfFrom_del d t i none h) (fun _ hx => by cases hx) hv (Tab.not_mem_del t i)

namespace Machine

/-- A byte read where it was written. -/
@[simp] theorem Memory.byte_setByte_same (m : Memory) (a : Nat) (b : Byte) : (m.setByte a b).byte a = b :=
  Tab.get_set_same _ m a b

/-- A write leaves every other byte. -/
theorem Memory.byte_setByte_ne (m : Memory) {a c : Nat} (b : Byte) (h : c ≠ a) : (m.setByte a b).byte c = m.byte c :=
  Tab.get_set_ne _ m b h

/-- A write keeps the canonical form. -/
theorem Memory.wf_setByte (m : Memory) (a : Nat) (b : Byte) (h : m.wf = true) : (m.setByte a b).wf = true :=
  Tab.wf_set _ m a b h

/-- The empty memory is in canonical form. -/
theorem Memory.wf_nil : Memory.wf [] = true := rfl

end Machine
end Sys2Proof
end

