-- ==== Sys2Proof/Laws/State.lean ====
section
/-! SUPPORT. One lemma per field per update of State, true by rfl. -/

namespace Sys2Proof.Machine

@[simp] theorem State.setGroup_time (s : State) (i : Nat) (x : Group) : (s.setGroup i x).time = s.time := rfl
@[simp] theorem State.setGroup_cycle (s : State) (i : Nat) (x : Group) : (s.setGroup i x).cycle = s.cycle := rfl
@[simp] theorem State.setGroup_sub (s : State) (i : Nat) (x : Group) : (s.setGroup i x).sub = s.sub := rfl
@[simp] theorem State.setGroup_booted (s : State) (i : Nat) (x : Group) : (s.setGroup i x).booted = s.booted := rfl
@[simp] theorem State.setGroup_who (s : State) (i : Nat) (x : Group) : (s.setGroup i x).who = s.who := rfl
@[simp] theorem State.setGroup_turns (s : State) (i : Nat) (x : Group) : (s.setGroup i x).turns = s.turns := rfl
@[simp] theorem State.setGroup_focus (s : State) (i : Nat) (x : Group) : (s.setGroup i x).focus = s.focus := rfl
@[simp] theorem State.setGroup_fresh (s : State) (i : Nat) (x : Group) : (s.setGroup i x).fresh = s.fresh := rfl
@[simp] theorem State.setGroup_ids (s : State) (i : Nat) (x : Group) : (s.setGroup i x).ids = s.ids := rfl
@[simp] theorem State.setGroup_mem (s : State) (i : Nat) (x : Group) : (s.setGroup i x).mem = s.mem := rfl
@[simp] theorem State.setGroup_poison (s : State) (i : Nat) (x : Group) : (s.setGroup i x).poison = s.poison := rfl
@[simp] theorem State.setGroup_ecc (s : State) (i : Nat) (x : Group) : (s.setGroup i x).ecc = s.ecc := rfl
@[simp] theorem State.setGroup_slice (s : State) (i : Nat) (x : Group) : (s.setGroup i x).slice = s.slice := rfl
@[simp] theorem State.setGroup_cores (s : State) (i : Nat) (x : Group) : (s.setGroup i x).cores = s.cores := rfl
@[simp] theorem State.setGroup_slots (s : State) (i : Nat) (x : Group) : (s.setGroup i x).slots = s.slots := rfl
@[simp] theorem State.setGroup_clusters (s : State) (i : Nat) (x : Group) : (s.setGroup i x).clusters = s.clusters := rfl
@[simp] theorem State.setGroup_groups (s : State) (i : Nat) (x : Group) : (s.setGroup i x).groups = s.groups.put i x := rfl
@[simp] theorem State.setGroup_wgs (s : State) (i : Nat) (x : Group) : (s.setGroup i x).wgs = s.wgs := rfl
@[simp] theorem State.setGroup_ctxs (s : State) (i : Nat) (x : Group) : (s.setGroup i x).ctxs = s.ctxs := rfl
@[simp] theorem State.setGroup_launches (s : State) (i : Nat) (x : Group) : (s.setGroup i x).launches = s.launches := rfl
@[simp] theorem State.setGroup_saved (s : State) (i : Nat) (x : Group) : (s.setGroup i x).saved = s.saved := rfl
@[simp] theorem State.setGroup_served (s : State) (i : Nat) (x : Group) : (s.setGroup i x).served = s.served := rfl
@[simp] theorem State.setGroup_waiters (s : State) (i : Nat) (x : Group) : (s.setGroup i x).waiters = s.waiters := rfl
@[simp] theorem State.setGroup_enqs (s : State) (i : Nat) (x : Group) : (s.setGroup i x).enqs = s.enqs := rfl
@[simp] theorem State.setGroup_arrivals (s : State) (i : Nat) (x : Group) : (s.setGroup i x).arrivals = s.arrivals := rfl
@[simp] theorem State.setGroup_xchgs (s : State) (i : Nat) (x : Group) : (s.setGroup i x).xchgs = s.xchgs := rfl
@[simp] theorem State.setGroup_searches (s : State) (i : Nat) (x : Group) : (s.setGroup i x).searches = s.searches := rfl
@[simp] theorem State.setGroup_walkers (s : State) (i : Nat) (x : Group) : (s.setGroup i x).walkers = s.walkers := rfl
@[simp] theorem State.setGroup_msgs (s : State) (i : Nat) (x : Group) : (s.setGroup i x).msgs = s.msgs := rfl
@[simp] theorem State.setGroup_stops (s : State) (i : Nat) (x : Group) : (s.setGroup i x).stops = s.stops := rfl
@[simp] theorem State.setGroup_cacheWait (s : State) (i : Nat) (x : Group) : (s.setGroup i x).cacheWait = s.cacheWait := rfl
@[simp] theorem State.setGroup_inEffect (s : State) (i : Nat) (x : Group) : (s.setGroup i x).inEffect = s.inEffect := rfl
@[simp] theorem State.setGroup_handles (s : State) (i : Nat) (x : Group) : (s.setGroup i x).handles = s.handles := rfl
@[simp] theorem State.setGroup_admissions (s : State) (i : Nat) (x : Group) : (s.setGroup i x).admissions = s.admissions := rfl
@[simp] theorem State.setGroup_lastWalker (s : State) (i : Nat) (x : Group) : (s.setGroup i x).lastWalker = s.lastWalker := rfl
@[simp] theorem State.setGroup_walkedAt (s : State) (i : Nat) (x : Group) : (s.setGroup i x).walkedAt = s.walkedAt := rfl
@[simp] theorem State.setGroup_bankErr (s : State) (i : Nat) (x : Group) : (s.setGroup i x).bankErr = s.bankErr := rfl
@[simp] theorem State.setGroup_baseDie (s : State) (i : Nat) (x : Group) : (s.setGroup i x).baseDie = s.baseDie := rfl
@[simp] theorem State.setGroup_repaired (s : State) (i : Nat) (x : Group) : (s.setGroup i x).repaired = s.repaired := rfl
@[simp] theorem State.setGroup_retire (s : State) (i : Nat) (x : Group) : (s.setGroup i x).retire = s.retire := rfl
@[simp] theorem State.setGroup_retired (s : State) (i : Nat) (x : Group) : (s.setGroup i x).retired = s.retired := rfl
@[simp] theorem State.setGroup_populated (s : State) (i : Nat) (x : Group) : (s.setGroup i x).populated = s.populated := rfl
@[simp] theorem State.setGroup_device (s : State) (i : Nat) (x : Group) : (s.setGroup i x).device = s.device := rfl
@[simp] theorem State.setGroup_owner (s : State) (i : Nat) (x : Group) : (s.setGroup i x).owner = s.owner := rfl
@[simp] theorem State.setGroup_mgmtList (s : State) (i : Nat) (x : Group) : (s.setGroup i x).mgmtList = s.mgmtList := rfl
@[simp] theorem State.setGroup_mac0 (s : State) (i : Nat) (x : Group) : (s.setGroup i x).mac0 = s.mac0 := rfl
@[simp] theorem State.setGroup_mac1 (s : State) (i : Nat) (x : Group) : (s.setGroup i x).mac1 = s.mac1 := rfl
@[simp] theorem State.setGroup_ip0 (s : State) (i : Nat) (x : Group) : (s.setGroup i x).ip0 = s.ip0 := rfl
@[simp] theorem State.setGroup_ip1 (s : State) (i : Nat) (x : Group) : (s.setGroup i x).ip1 = s.ip1 := rfl
@[simp] theorem State.setGroup_pageCount (s : State) (i : Nat) (x : Group) : (s.setGroup i x).pageCount = s.pageCount := rfl
@[simp] theorem State.setGroup_pageLeaf (s : State) (i : Nat) (x : Group) : (s.setGroup i x).pageLeaf = s.pageLeaf := rfl
@[simp] theorem State.setGroup_pageShared (s : State) (i : Nat) (x : Group) : (s.setGroup i x).pageShared = s.pageShared := rfl
@[simp] theorem State.setGroup_pageCtx (s : State) (i : Nat) (x : Group) : (s.setGroup i x).pageCtx = s.pageCtx := rfl
@[simp] theorem State.setGroup_promote (s : State) (i : Nat) (x : Group) : (s.setGroup i x).promote = s.promote := rfl
@[simp] theorem State.setGroup_busy (s : State) (i : Nat) (x : Group) : (s.setGroup i x).busy = s.busy := rfl
@[simp] theorem State.setGroup_moves (s : State) (i : Nat) (x : Group) : (s.setGroup i x).moves = s.moves := rfl
@[simp] theorem State.setGroup_net (s : State) (i : Nat) (x : Group) : (s.setGroup i x).net = s.net := rfl
@[simp] theorem State.setGroup_outbox (s : State) (i : Nat) (x : Group) : (s.setGroup i x).outbox = s.outbox := rfl
@[simp] theorem State.setGroup_rdmaOut (s : State) (i : Nat) (x : Group) : (s.setGroup i x).rdmaOut = s.rdmaOut := rfl
@[simp] theorem State.setGroup_qpError (s : State) (i : Nat) (x : Group) : (s.setGroup i x).qpError = s.qpError := rfl
@[simp] theorem State.setGroup_psns (s : State) (i : Nat) (x : Group) : (s.setGroup i x).psns = s.psns := rfl
@[simp] theorem State.setGroup_frames (s : State) (i : Nat) (x : Group) : (s.setGroup i x).frames = s.frames := rfl
@[simp] theorem State.setGroup_waybillsDropped (s : State) (i : Nat) (x : Group) : (s.setGroup i x).waybillsDropped = s.waybillsDropped := rfl
@[simp] theorem State.setGroup_links (s : State) (i : Nat) (x : Group) : (s.setGroup i x).links = s.links := rfl
@[simp] theorem State.setGroup_ports (s : State) (i : Nat) (x : Group) : (s.setGroup i x).ports = s.ports := rfl
@[simp] theorem State.setGroup_power (s : State) (i : Nat) (x : Group) : (s.setGroup i x).power = s.power := rfl
@[simp] theorem State.setGroup_mgmt (s : State) (i : Nat) (x : Group) : (s.setGroup i x).mgmt = s.mgmt := rfl

@[simp] theorem State.setSlot_time (s : State) (i : Nat) (x : Slot) : (s.setSlot i x).time = s.time := rfl
@[simp] theorem State.setSlot_cycle (s : State) (i : Nat) (x : Slot) : (s.setSlot i x).cycle = s.cycle := rfl
@[simp] theorem State.setSlot_sub (s : State) (i : Nat) (x : Slot) : (s.setSlot i x).sub = s.sub := rfl
@[simp] theorem State.setSlot_booted (s : State) (i : Nat) (x : Slot) : (s.setSlot i x).booted = s.booted := rfl
@[simp] theorem State.setSlot_who (s : State) (i : Nat) (x : Slot) : (s.setSlot i x).who = s.who := rfl
@[simp] theorem State.setSlot_turns (s : State) (i : Nat) (x : Slot) : (s.setSlot i x).turns = s.turns := rfl
@[simp] theorem State.setSlot_focus (s : State) (i : Nat) (x : Slot) : (s.setSlot i x).focus = s.focus := rfl
@[simp] theorem State.setSlot_fresh (s : State) (i : Nat) (x : Slot) : (s.setSlot i x).fresh = s.fresh := rfl
@[simp] theorem State.setSlot_ids (s : State) (i : Nat) (x : Slot) : (s.setSlot i x).ids = s.ids := rfl
@[simp] theorem State.setSlot_mem (s : State) (i : Nat) (x : Slot) : (s.setSlot i x).mem = s.mem := rfl
@[simp] theorem State.setSlot_poison (s : State) (i : Nat) (x : Slot) : (s.setSlot i x).poison = s.poison := rfl
@[simp] theorem State.setSlot_ecc (s : State) (i : Nat) (x : Slot) : (s.setSlot i x).ecc = s.ecc := rfl
@[simp] theorem State.setSlot_slice (s : State) (i : Nat) (x : Slot) : (s.setSlot i x).slice = s.slice := rfl
@[simp] theorem State.setSlot_cores (s : State) (i : Nat) (x : Slot) : (s.setSlot i x).cores = s.cores := rfl
@[simp] theorem State.setSlot_slots (s : State) (i : Nat) (x : Slot) : (s.setSlot i x).slots = s.slots.put i x := rfl
@[simp] theorem State.setSlot_clusters (s : State) (i : Nat) (x : Slot) : (s.setSlot i x).clusters = s.clusters := rfl
@[simp] theorem State.setSlot_groups (s : State) (i : Nat) (x : Slot) : (s.setSlot i x).groups = s.groups := rfl
@[simp] theorem State.setSlot_wgs (s : State) (i : Nat) (x : Slot) : (s.setSlot i x).wgs = s.wgs := rfl
@[simp] theorem State.setSlot_ctxs (s : State) (i : Nat) (x : Slot) : (s.setSlot i x).ctxs = s.ctxs := rfl
@[simp] theorem State.setSlot_launches (s : State) (i : Nat) (x : Slot) : (s.setSlot i x).launches = s.launches := rfl
@[simp] theorem State.setSlot_saved (s : State) (i : Nat) (x : Slot) : (s.setSlot i x).saved = s.saved := rfl
@[simp] theorem State.setSlot_served (s : State) (i : Nat) (x : Slot) : (s.setSlot i x).served = s.served := rfl
@[simp] theorem State.setSlot_waiters (s : State) (i : Nat) (x : Slot) : (s.setSlot i x).waiters = s.waiters := rfl
@[simp] theorem State.setSlot_enqs (s : State) (i : Nat) (x : Slot) : (s.setSlot i x).enqs = s.enqs := rfl
@[simp] theorem State.setSlot_arrivals (s : State) (i : Nat) (x : Slot) : (s.setSlot i x).arrivals = s.arrivals := rfl
@[simp] theorem State.setSlot_xchgs (s : State) (i : Nat) (x : Slot) : (s.setSlot i x).xchgs = s.xchgs := rfl
@[simp] theorem State.setSlot_searches (s : State) (i : Nat) (x : Slot) : (s.setSlot i x).searches = s.searches := rfl
@[simp] theorem State.setSlot_walkers (s : State) (i : Nat) (x : Slot) : (s.setSlot i x).walkers = s.walkers := rfl
@[simp] theorem State.setSlot_msgs (s : State) (i : Nat) (x : Slot) : (s.setSlot i x).msgs = s.msgs := rfl
@[simp] theorem State.setSlot_stops (s : State) (i : Nat) (x : Slot) : (s.setSlot i x).stops = s.stops := rfl
@[simp] theorem State.setSlot_cacheWait (s : State) (i : Nat) (x : Slot) : (s.setSlot i x).cacheWait = s.cacheWait := rfl
@[simp] theorem State.setSlot_inEffect (s : State) (i : Nat) (x : Slot) : (s.setSlot i x).inEffect = s.inEffect := rfl
@[simp] theorem State.setSlot_handles (s : State) (i : Nat) (x : Slot) : (s.setSlot i x).handles = s.handles := rfl
@[simp] theorem State.setSlot_admissions (s : State) (i : Nat) (x : Slot) : (s.setSlot i x).admissions = s.admissions := rfl
@[simp] theorem State.setSlot_lastWalker (s : State) (i : Nat) (x : Slot) : (s.setSlot i x).lastWalker = s.lastWalker := rfl
@[simp] theorem State.setSlot_walkedAt (s : State) (i : Nat) (x : Slot) : (s.setSlot i x).walkedAt = s.walkedAt := rfl
@[simp] theorem State.setSlot_bankErr (s : State) (i : Nat) (x : Slot) : (s.setSlot i x).bankErr = s.bankErr := rfl
@[simp] theorem State.setSlot_baseDie (s : State) (i : Nat) (x : Slot) : (s.setSlot i x).baseDie = s.baseDie := rfl
@[simp] theorem State.setSlot_repaired (s : State) (i : Nat) (x : Slot) : (s.setSlot i x).repaired = s.repaired := rfl
@[simp] theorem State.setSlot_retire (s : State) (i : Nat) (x : Slot) : (s.setSlot i x).retire = s.retire := rfl
@[simp] theorem State.setSlot_retired (s : State) (i : Nat) (x : Slot) : (s.setSlot i x).retired = s.retired := rfl
@[simp] theorem State.setSlot_populated (s : State) (i : Nat) (x : Slot) : (s.setSlot i x).populated = s.populated := rfl
@[simp] theorem State.setSlot_device (s : State) (i : Nat) (x : Slot) : (s.setSlot i x).device = s.device := rfl
@[simp] theorem State.setSlot_owner (s : State) (i : Nat) (x : Slot) : (s.setSlot i x).owner = s.owner := rfl
@[simp] theorem State.setSlot_mgmtList (s : State) (i : Nat) (x : Slot) : (s.setSlot i x).mgmtList = s.mgmtList := rfl
@[simp] theorem State.setSlot_mac0 (s : State) (i : Nat) (x : Slot) : (s.setSlot i x).mac0 = s.mac0 := rfl
@[simp] theorem State.setSlot_mac1 (s : State) (i : Nat) (x : Slot) : (s.setSlot i x).mac1 = s.mac1 := rfl
@[simp] theorem State.setSlot_ip0 (s : State) (i : Nat) (x : Slot) : (s.setSlot i x).ip0 = s.ip0 := rfl
@[simp] theorem State.setSlot_ip1 (s : State) (i : Nat) (x : Slot) : (s.setSlot i x).ip1 = s.ip1 := rfl
@[simp] theorem State.setSlot_pageCount (s : State) (i : Nat) (x : Slot) : (s.setSlot i x).pageCount = s.pageCount := rfl
@[simp] theorem State.setSlot_pageLeaf (s : State) (i : Nat) (x : Slot) : (s.setSlot i x).pageLeaf = s.pageLeaf := rfl
@[simp] theorem State.setSlot_pageShared (s : State) (i : Nat) (x : Slot) : (s.setSlot i x).pageShared = s.pageShared := rfl
@[simp] theorem State.setSlot_pageCtx (s : State) (i : Nat) (x : Slot) : (s.setSlot i x).pageCtx = s.pageCtx := rfl
@[simp] theorem State.setSlot_promote (s : State) (i : Nat) (x : Slot) : (s.setSlot i x).promote = s.promote := rfl
@[simp] theorem State.setSlot_busy (s : State) (i : Nat) (x : Slot) : (s.setSlot i x).busy = s.busy := rfl
@[simp] theorem State.setSlot_moves (s : State) (i : Nat) (x : Slot) : (s.setSlot i x).moves = s.moves := rfl
@[simp] theorem State.setSlot_net (s : State) (i : Nat) (x : Slot) : (s.setSlot i x).net = s.net := rfl
@[simp] theorem State.setSlot_outbox (s : State) (i : Nat) (x : Slot) : (s.setSlot i x).outbox = s.outbox := rfl
@[simp] theorem State.setSlot_rdmaOut (s : State) (i : Nat) (x : Slot) : (s.setSlot i x).rdmaOut = s.rdmaOut := rfl
@[simp] theorem State.setSlot_qpError (s : State) (i : Nat) (x : Slot) : (s.setSlot i x).qpError = s.qpError := rfl
@[simp] theorem State.setSlot_psns (s : State) (i : Nat) (x : Slot) : (s.setSlot i x).psns = s.psns := rfl
@[simp] theorem State.setSlot_frames (s : State) (i : Nat) (x : Slot) : (s.setSlot i x).frames = s.frames := rfl
@[simp] theorem State.setSlot_waybillsDropped (s : State) (i : Nat) (x : Slot) : (s.setSlot i x).waybillsDropped = s.waybillsDropped := rfl
@[simp] theorem State.setSlot_links (s : State) (i : Nat) (x : Slot) : (s.setSlot i x).links = s.links := rfl
@[simp] theorem State.setSlot_ports (s : State) (i : Nat) (x : Slot) : (s.setSlot i x).ports = s.ports := rfl
@[simp] theorem State.setSlot_power (s : State) (i : Nat) (x : Slot) : (s.setSlot i x).power = s.power := rfl
@[simp] theorem State.setSlot_mgmt (s : State) (i : Nat) (x : Slot) : (s.setSlot i x).mgmt = s.mgmt := rfl

@[simp] theorem State.setWg_time (s : State) (i : Nat) (x : Workgroup) : (s.setWg i x).time = s.time := rfl
@[simp] theorem State.setWg_cycle (s : State) (i : Nat) (x : Workgroup) : (s.setWg i x).cycle = s.cycle := rfl
@[simp] theorem State.setWg_sub (s : State) (i : Nat) (x : Workgroup) : (s.setWg i x).sub = s.sub := rfl
@[simp] theorem State.setWg_booted (s : State) (i : Nat) (x : Workgroup) : (s.setWg i x).booted = s.booted := rfl
@[simp] theorem State.setWg_who (s : State) (i : Nat) (x : Workgroup) : (s.setWg i x).who = s.who := rfl
@[simp] theorem State.setWg_turns (s : State) (i : Nat) (x : Workgroup) : (s.setWg i x).turns = s.turns := rfl
@[simp] theorem State.setWg_focus (s : State) (i : Nat) (x : Workgroup) : (s.setWg i x).focus = s.focus := rfl
@[simp] theorem State.setWg_fresh (s : State) (i : Nat) (x : Workgroup) : (s.setWg i x).fresh = s.fresh := rfl
@[simp] theorem State.setWg_ids (s : State) (i : Nat) (x : Workgroup) : (s.setWg i x).ids = s.ids := rfl
@[simp] theorem State.setWg_mem (s : State) (i : Nat) (x : Workgroup) : (s.setWg i x).mem = s.mem := rfl
@[simp] theorem State.setWg_poison (s : State) (i : Nat) (x : Workgroup) : (s.setWg i x).poison = s.poison := rfl
@[simp] theorem State.setWg_ecc (s : State) (i : Nat) (x : Workgroup) : (s.setWg i x).ecc = s.ecc := rfl
@[simp] theorem State.setWg_slice (s : State) (i : Nat) (x : Workgroup) : (s.setWg i x).slice = s.slice := rfl
@[simp] theorem State.setWg_cores (s : State) (i : Nat) (x : Workgroup) : (s.setWg i x).cores = s.cores := rfl
@[simp] theorem State.setWg_slots (s : State) (i : Nat) (x : Workgroup) : (s.setWg i x).slots = s.slots := rfl
@[simp] theorem State.setWg_clusters (s : State) (i : Nat) (x : Workgroup) : (s.setWg i x).clusters = s.clusters := rfl
@[simp] theorem State.setWg_groups (s : State) (i : Nat) (x : Workgroup) : (s.setWg i x).groups = s.groups := rfl
@[simp] theorem State.setWg_wgs (s : State) (i : Nat) (x : Workgroup) : (s.setWg i x).wgs = s.wgs.put i x := rfl
@[simp] theorem State.setWg_ctxs (s : State) (i : Nat) (x : Workgroup) : (s.setWg i x).ctxs = s.ctxs := rfl
@[simp] theorem State.setWg_launches (s : State) (i : Nat) (x : Workgroup) : (s.setWg i x).launches = s.launches := rfl
@[simp] theorem State.setWg_saved (s : State) (i : Nat) (x : Workgroup) : (s.setWg i x).saved = s.saved := rfl
@[simp] theorem State.setWg_served (s : State) (i : Nat) (x : Workgroup) : (s.setWg i x).served = s.served := rfl
@[simp] theorem State.setWg_waiters (s : State) (i : Nat) (x : Workgroup) : (s.setWg i x).waiters = s.waiters := rfl
@[simp] theorem State.setWg_enqs (s : State) (i : Nat) (x : Workgroup) : (s.setWg i x).enqs = s.enqs := rfl
@[simp] theorem State.setWg_arrivals (s : State) (i : Nat) (x : Workgroup) : (s.setWg i x).arrivals = s.arrivals := rfl
@[simp] theorem State.setWg_xchgs (s : State) (i : Nat) (x : Workgroup) : (s.setWg i x).xchgs = s.xchgs := rfl
@[simp] theorem State.setWg_searches (s : State) (i : Nat) (x : Workgroup) : (s.setWg i x).searches = s.searches := rfl
@[simp] theorem State.setWg_walkers (s : State) (i : Nat) (x : Workgroup) : (s.setWg i x).walkers = s.walkers := rfl
@[simp] theorem State.setWg_msgs (s : State) (i : Nat) (x : Workgroup) : (s.setWg i x).msgs = s.msgs := rfl
@[simp] theorem State.setWg_stops (s : State) (i : Nat) (x : Workgroup) : (s.setWg i x).stops = s.stops := rfl
@[simp] theorem State.setWg_cacheWait (s : State) (i : Nat) (x : Workgroup) : (s.setWg i x).cacheWait = s.cacheWait := rfl
@[simp] theorem State.setWg_inEffect (s : State) (i : Nat) (x : Workgroup) : (s.setWg i x).inEffect = s.inEffect := rfl
@[simp] theorem State.setWg_handles (s : State) (i : Nat) (x : Workgroup) : (s.setWg i x).handles = s.handles := rfl
@[simp] theorem State.setWg_admissions (s : State) (i : Nat) (x : Workgroup) : (s.setWg i x).admissions = s.admissions := rfl
@[simp] theorem State.setWg_lastWalker (s : State) (i : Nat) (x : Workgroup) : (s.setWg i x).lastWalker = s.lastWalker := rfl
@[simp] theorem State.setWg_walkedAt (s : State) (i : Nat) (x : Workgroup) : (s.setWg i x).walkedAt = s.walkedAt := rfl
@[simp] theorem State.setWg_bankErr (s : State) (i : Nat) (x : Workgroup) : (s.setWg i x).bankErr = s.bankErr := rfl
@[simp] theorem State.setWg_baseDie (s : State) (i : Nat) (x : Workgroup) : (s.setWg i x).baseDie = s.baseDie := rfl
@[simp] theorem State.setWg_repaired (s : State) (i : Nat) (x : Workgroup) : (s.setWg i x).repaired = s.repaired := rfl
@[simp] theorem State.setWg_retire (s : State) (i : Nat) (x : Workgroup) : (s.setWg i x).retire = s.retire := rfl
@[simp] theorem State.setWg_retired (s : State) (i : Nat) (x : Workgroup) : (s.setWg i x).retired = s.retired := rfl
@[simp] theorem State.setWg_populated (s : State) (i : Nat) (x : Workgroup) : (s.setWg i x).populated = s.populated := rfl
@[simp] theorem State.setWg_device (s : State) (i : Nat) (x : Workgroup) : (s.setWg i x).device = s.device := rfl
@[simp] theorem State.setWg_owner (s : State) (i : Nat) (x : Workgroup) : (s.setWg i x).owner = s.owner := rfl
@[simp] theorem State.setWg_mgmtList (s : State) (i : Nat) (x : Workgroup) : (s.setWg i x).mgmtList = s.mgmtList := rfl
@[simp] theorem State.setWg_mac0 (s : State) (i : Nat) (x : Workgroup) : (s.setWg i x).mac0 = s.mac0 := rfl
@[simp] theorem State.setWg_mac1 (s : State) (i : Nat) (x : Workgroup) : (s.setWg i x).mac1 = s.mac1 := rfl
@[simp] theorem State.setWg_ip0 (s : State) (i : Nat) (x : Workgroup) : (s.setWg i x).ip0 = s.ip0 := rfl
@[simp] theorem State.setWg_ip1 (s : State) (i : Nat) (x : Workgroup) : (s.setWg i x).ip1 = s.ip1 := rfl
@[simp] theorem State.setWg_pageCount (s : State) (i : Nat) (x : Workgroup) : (s.setWg i x).pageCount = s.pageCount := rfl
@[simp] theorem State.setWg_pageLeaf (s : State) (i : Nat) (x : Workgroup) : (s.setWg i x).pageLeaf = s.pageLeaf := rfl
@[simp] theorem State.setWg_pageShared (s : State) (i : Nat) (x : Workgroup) : (s.setWg i x).pageShared = s.pageShared := rfl
@[simp] theorem State.setWg_pageCtx (s : State) (i : Nat) (x : Workgroup) : (s.setWg i x).pageCtx = s.pageCtx := rfl
@[simp] theorem State.setWg_promote (s : State) (i : Nat) (x : Workgroup) : (s.setWg i x).promote = s.promote := rfl
@[simp] theorem State.setWg_busy (s : State) (i : Nat) (x : Workgroup) : (s.setWg i x).busy = s.busy := rfl
@[simp] theorem State.setWg_moves (s : State) (i : Nat) (x : Workgroup) : (s.setWg i x).moves = s.moves := rfl
@[simp] theorem State.setWg_net (s : State) (i : Nat) (x : Workgroup) : (s.setWg i x).net = s.net := rfl
@[simp] theorem State.setWg_outbox (s : State) (i : Nat) (x : Workgroup) : (s.setWg i x).outbox = s.outbox := rfl
@[simp] theorem State.setWg_rdmaOut (s : State) (i : Nat) (x : Workgroup) : (s.setWg i x).rdmaOut = s.rdmaOut := rfl
@[simp] theorem State.setWg_qpError (s : State) (i : Nat) (x : Workgroup) : (s.setWg i x).qpError = s.qpError := rfl
@[simp] theorem State.setWg_psns (s : State) (i : Nat) (x : Workgroup) : (s.setWg i x).psns = s.psns := rfl
@[simp] theorem State.setWg_frames (s : State) (i : Nat) (x : Workgroup) : (s.setWg i x).frames = s.frames := rfl
@[simp] theorem State.setWg_waybillsDropped (s : State) (i : Nat) (x : Workgroup) : (s.setWg i x).waybillsDropped = s.waybillsDropped := rfl
@[simp] theorem State.setWg_links (s : State) (i : Nat) (x : Workgroup) : (s.setWg i x).links = s.links := rfl
@[simp] theorem State.setWg_ports (s : State) (i : Nat) (x : Workgroup) : (s.setWg i x).ports = s.ports := rfl
@[simp] theorem State.setWg_power (s : State) (i : Nat) (x : Workgroup) : (s.setWg i x).power = s.power := rfl
@[simp] theorem State.setWg_mgmt (s : State) (i : Nat) (x : Workgroup) : (s.setWg i x).mgmt = s.mgmt := rfl

@[simp] theorem State.setCtx_time (s : State) (i : Nat) (x : Context) : (s.setCtx i x).time = s.time := rfl
@[simp] theorem State.setCtx_cycle (s : State) (i : Nat) (x : Context) : (s.setCtx i x).cycle = s.cycle := rfl
@[simp] theorem State.setCtx_sub (s : State) (i : Nat) (x : Context) : (s.setCtx i x).sub = s.sub := rfl
@[simp] theorem State.setCtx_booted (s : State) (i : Nat) (x : Context) : (s.setCtx i x).booted = s.booted := rfl
@[simp] theorem State.setCtx_who (s : State) (i : Nat) (x : Context) : (s.setCtx i x).who = s.who := rfl
@[simp] theorem State.setCtx_turns (s : State) (i : Nat) (x : Context) : (s.setCtx i x).turns = s.turns := rfl
@[simp] theorem State.setCtx_focus (s : State) (i : Nat) (x : Context) : (s.setCtx i x).focus = s.focus := rfl
@[simp] theorem State.setCtx_fresh (s : State) (i : Nat) (x : Context) : (s.setCtx i x).fresh = s.fresh := rfl
@[simp] theorem State.setCtx_ids (s : State) (i : Nat) (x : Context) : (s.setCtx i x).ids = s.ids := rfl
@[simp] theorem State.setCtx_mem (s : State) (i : Nat) (x : Context) : (s.setCtx i x).mem = s.mem := rfl
@[simp] theorem State.setCtx_poison (s : State) (i : Nat) (x : Context) : (s.setCtx i x).poison = s.poison := rfl
@[simp] theorem State.setCtx_ecc (s : State) (i : Nat) (x : Context) : (s.setCtx i x).ecc = s.ecc := rfl
@[simp] theorem State.setCtx_slice (s : State) (i : Nat) (x : Context) : (s.setCtx i x).slice = s.slice := rfl
@[simp] theorem State.setCtx_cores (s : State) (i : Nat) (x : Context) : (s.setCtx i x).cores = s.cores := rfl
@[simp] theorem State.setCtx_slots (s : State) (i : Nat) (x : Context) : (s.setCtx i x).slots = s.slots := rfl
@[simp] theorem State.setCtx_clusters (s : State) (i : Nat) (x : Context) : (s.setCtx i x).clusters = s.clusters := rfl
@[simp] theorem State.setCtx_groups (s : State) (i : Nat) (x : Context) : (s.setCtx i x).groups = s.groups := rfl
@[simp] theorem State.setCtx_wgs (s : State) (i : Nat) (x : Context) : (s.setCtx i x).wgs = s.wgs := rfl
@[simp] theorem State.setCtx_ctxs (s : State) (i : Nat) (x : Context) : (s.setCtx i x).ctxs = s.ctxs.put i x := rfl
@[simp] theorem State.setCtx_launches (s : State) (i : Nat) (x : Context) : (s.setCtx i x).launches = s.launches := rfl
@[simp] theorem State.setCtx_saved (s : State) (i : Nat) (x : Context) : (s.setCtx i x).saved = s.saved := rfl
@[simp] theorem State.setCtx_served (s : State) (i : Nat) (x : Context) : (s.setCtx i x).served = s.served := rfl
@[simp] theorem State.setCtx_waiters (s : State) (i : Nat) (x : Context) : (s.setCtx i x).waiters = s.waiters := rfl
@[simp] theorem State.setCtx_enqs (s : State) (i : Nat) (x : Context) : (s.setCtx i x).enqs = s.enqs := rfl
@[simp] theorem State.setCtx_arrivals (s : State) (i : Nat) (x : Context) : (s.setCtx i x).arrivals = s.arrivals := rfl
@[simp] theorem State.setCtx_xchgs (s : State) (i : Nat) (x : Context) : (s.setCtx i x).xchgs = s.xchgs := rfl
@[simp] theorem State.setCtx_searches (s : State) (i : Nat) (x : Context) : (s.setCtx i x).searches = s.searches := rfl
@[simp] theorem State.setCtx_walkers (s : State) (i : Nat) (x : Context) : (s.setCtx i x).walkers = s.walkers := rfl
@[simp] theorem State.setCtx_msgs (s : State) (i : Nat) (x : Context) : (s.setCtx i x).msgs = s.msgs := rfl
@[simp] theorem State.setCtx_stops (s : State) (i : Nat) (x : Context) : (s.setCtx i x).stops = s.stops := rfl
@[simp] theorem State.setCtx_cacheWait (s : State) (i : Nat) (x : Context) : (s.setCtx i x).cacheWait = s.cacheWait := rfl
@[simp] theorem State.setCtx_inEffect (s : State) (i : Nat) (x : Context) : (s.setCtx i x).inEffect = s.inEffect := rfl
@[simp] theorem State.setCtx_handles (s : State) (i : Nat) (x : Context) : (s.setCtx i x).handles = s.handles := rfl
@[simp] theorem State.setCtx_admissions (s : State) (i : Nat) (x : Context) : (s.setCtx i x).admissions = s.admissions := rfl
@[simp] theorem State.setCtx_lastWalker (s : State) (i : Nat) (x : Context) : (s.setCtx i x).lastWalker = s.lastWalker := rfl
@[simp] theorem State.setCtx_walkedAt (s : State) (i : Nat) (x : Context) : (s.setCtx i x).walkedAt = s.walkedAt := rfl
@[simp] theorem State.setCtx_bankErr (s : State) (i : Nat) (x : Context) : (s.setCtx i x).bankErr = s.bankErr := rfl
@[simp] theorem State.setCtx_baseDie (s : State) (i : Nat) (x : Context) : (s.setCtx i x).baseDie = s.baseDie := rfl
@[simp] theorem State.setCtx_repaired (s : State) (i : Nat) (x : Context) : (s.setCtx i x).repaired = s.repaired := rfl
@[simp] theorem State.setCtx_retire (s : State) (i : Nat) (x : Context) : (s.setCtx i x).retire = s.retire := rfl
@[simp] theorem State.setCtx_retired (s : State) (i : Nat) (x : Context) : (s.setCtx i x).retired = s.retired := rfl
@[simp] theorem State.setCtx_populated (s : State) (i : Nat) (x : Context) : (s.setCtx i x).populated = s.populated := rfl
@[simp] theorem State.setCtx_device (s : State) (i : Nat) (x : Context) : (s.setCtx i x).device = s.device := rfl
@[simp] theorem State.setCtx_owner (s : State) (i : Nat) (x : Context) : (s.setCtx i x).owner = s.owner := rfl
@[simp] theorem State.setCtx_mgmtList (s : State) (i : Nat) (x : Context) : (s.setCtx i x).mgmtList = s.mgmtList := rfl
@[simp] theorem State.setCtx_mac0 (s : State) (i : Nat) (x : Context) : (s.setCtx i x).mac0 = s.mac0 := rfl
@[simp] theorem State.setCtx_mac1 (s : State) (i : Nat) (x : Context) : (s.setCtx i x).mac1 = s.mac1 := rfl
@[simp] theorem State.setCtx_ip0 (s : State) (i : Nat) (x : Context) : (s.setCtx i x).ip0 = s.ip0 := rfl
@[simp] theorem State.setCtx_ip1 (s : State) (i : Nat) (x : Context) : (s.setCtx i x).ip1 = s.ip1 := rfl
@[simp] theorem State.setCtx_pageCount (s : State) (i : Nat) (x : Context) : (s.setCtx i x).pageCount = s.pageCount := rfl
@[simp] theorem State.setCtx_pageLeaf (s : State) (i : Nat) (x : Context) : (s.setCtx i x).pageLeaf = s.pageLeaf := rfl
@[simp] theorem State.setCtx_pageShared (s : State) (i : Nat) (x : Context) : (s.setCtx i x).pageShared = s.pageShared := rfl
@[simp] theorem State.setCtx_pageCtx (s : State) (i : Nat) (x : Context) : (s.setCtx i x).pageCtx = s.pageCtx := rfl
@[simp] theorem State.setCtx_promote (s : State) (i : Nat) (x : Context) : (s.setCtx i x).promote = s.promote := rfl
@[simp] theorem State.setCtx_busy (s : State) (i : Nat) (x : Context) : (s.setCtx i x).busy = s.busy := rfl
@[simp] theorem State.setCtx_moves (s : State) (i : Nat) (x : Context) : (s.setCtx i x).moves = s.moves := rfl
@[simp] theorem State.setCtx_net (s : State) (i : Nat) (x : Context) : (s.setCtx i x).net = s.net := rfl
@[simp] theorem State.setCtx_outbox (s : State) (i : Nat) (x : Context) : (s.setCtx i x).outbox = s.outbox := rfl
@[simp] theorem State.setCtx_rdmaOut (s : State) (i : Nat) (x : Context) : (s.setCtx i x).rdmaOut = s.rdmaOut := rfl
@[simp] theorem State.setCtx_qpError (s : State) (i : Nat) (x : Context) : (s.setCtx i x).qpError = s.qpError := rfl
@[simp] theorem State.setCtx_psns (s : State) (i : Nat) (x : Context) : (s.setCtx i x).psns = s.psns := rfl
@[simp] theorem State.setCtx_frames (s : State) (i : Nat) (x : Context) : (s.setCtx i x).frames = s.frames := rfl
@[simp] theorem State.setCtx_waybillsDropped (s : State) (i : Nat) (x : Context) : (s.setCtx i x).waybillsDropped = s.waybillsDropped := rfl
@[simp] theorem State.setCtx_links (s : State) (i : Nat) (x : Context) : (s.setCtx i x).links = s.links := rfl
@[simp] theorem State.setCtx_ports (s : State) (i : Nat) (x : Context) : (s.setCtx i x).ports = s.ports := rfl
@[simp] theorem State.setCtx_power (s : State) (i : Nat) (x : Context) : (s.setCtx i x).power = s.power := rfl
@[simp] theorem State.setCtx_mgmt (s : State) (i : Nat) (x : Context) : (s.setCtx i x).mgmt = s.mgmt := rfl

@[simp] theorem State.setCore_time (s : State) (i : Nat) (x : Core) : (s.setCore i x).time = s.time := rfl
@[simp] theorem State.setCore_cycle (s : State) (i : Nat) (x : Core) : (s.setCore i x).cycle = s.cycle := rfl
@[simp] theorem State.setCore_sub (s : State) (i : Nat) (x : Core) : (s.setCore i x).sub = s.sub := rfl
@[simp] theorem State.setCore_booted (s : State) (i : Nat) (x : Core) : (s.setCore i x).booted = s.booted := rfl
@[simp] theorem State.setCore_who (s : State) (i : Nat) (x : Core) : (s.setCore i x).who = s.who := rfl
@[simp] theorem State.setCore_turns (s : State) (i : Nat) (x : Core) : (s.setCore i x).turns = s.turns := rfl
@[simp] theorem State.setCore_focus (s : State) (i : Nat) (x : Core) : (s.setCore i x).focus = s.focus := rfl
@[simp] theorem State.setCore_fresh (s : State) (i : Nat) (x : Core) : (s.setCore i x).fresh = s.fresh := rfl
@[simp] theorem State.setCore_ids (s : State) (i : Nat) (x : Core) : (s.setCore i x).ids = s.ids := rfl
@[simp] theorem State.setCore_mem (s : State) (i : Nat) (x : Core) : (s.setCore i x).mem = s.mem := rfl
@[simp] theorem State.setCore_poison (s : State) (i : Nat) (x : Core) : (s.setCore i x).poison = s.poison := rfl
@[simp] theorem State.setCore_ecc (s : State) (i : Nat) (x : Core) : (s.setCore i x).ecc = s.ecc := rfl
@[simp] theorem State.setCore_slice (s : State) (i : Nat) (x : Core) : (s.setCore i x).slice = s.slice := rfl
@[simp] theorem State.setCore_cores (s : State) (i : Nat) (x : Core) : (s.setCore i x).cores = s.cores.put i x := rfl
@[simp] theorem State.setCore_slots (s : State) (i : Nat) (x : Core) : (s.setCore i x).slots = s.slots := rfl
@[simp] theorem State.setCore_clusters (s : State) (i : Nat) (x : Core) : (s.setCore i x).clusters = s.clusters := rfl
@[simp] theorem State.setCore_groups (s : State) (i : Nat) (x : Core) : (s.setCore i x).groups = s.groups := rfl
@[simp] theorem State.setCore_wgs (s : State) (i : Nat) (x : Core) : (s.setCore i x).wgs = s.wgs := rfl
@[simp] theorem State.setCore_ctxs (s : State) (i : Nat) (x : Core) : (s.setCore i x).ctxs = s.ctxs := rfl
@[simp] theorem State.setCore_launches (s : State) (i : Nat) (x : Core) : (s.setCore i x).launches = s.launches := rfl
@[simp] theorem State.setCore_saved (s : State) (i : Nat) (x : Core) : (s.setCore i x).saved = s.saved := rfl
@[simp] theorem State.setCore_served (s : State) (i : Nat) (x : Core) : (s.setCore i x).served = s.served := rfl
@[simp] theorem State.setCore_waiters (s : State) (i : Nat) (x : Core) : (s.setCore i x).waiters = s.waiters := rfl
@[simp] theorem State.setCore_enqs (s : State) (i : Nat) (x : Core) : (s.setCore i x).enqs = s.enqs := rfl
@[simp] theorem State.setCore_arrivals (s : State) (i : Nat) (x : Core) : (s.setCore i x).arrivals = s.arrivals := rfl
@[simp] theorem State.setCore_xchgs (s : State) (i : Nat) (x : Core) : (s.setCore i x).xchgs = s.xchgs := rfl
@[simp] theorem State.setCore_searches (s : State) (i : Nat) (x : Core) : (s.setCore i x).searches = s.searches := rfl
@[simp] theorem State.setCore_walkers (s : State) (i : Nat) (x : Core) : (s.setCore i x).walkers = s.walkers := rfl
@[simp] theorem State.setCore_msgs (s : State) (i : Nat) (x : Core) : (s.setCore i x).msgs = s.msgs := rfl
@[simp] theorem State.setCore_stops (s : State) (i : Nat) (x : Core) : (s.setCore i x).stops = s.stops := rfl
@[simp] theorem State.setCore_cacheWait (s : State) (i : Nat) (x : Core) : (s.setCore i x).cacheWait = s.cacheWait := rfl
@[simp] theorem State.setCore_inEffect (s : State) (i : Nat) (x : Core) : (s.setCore i x).inEffect = s.inEffect := rfl
@[simp] theorem State.setCore_handles (s : State) (i : Nat) (x : Core) : (s.setCore i x).handles = s.handles := rfl
@[simp] theorem State.setCore_admissions (s : State) (i : Nat) (x : Core) : (s.setCore i x).admissions = s.admissions := rfl
@[simp] theorem State.setCore_lastWalker (s : State) (i : Nat) (x : Core) : (s.setCore i x).lastWalker = s.lastWalker := rfl
@[simp] theorem State.setCore_walkedAt (s : State) (i : Nat) (x : Core) : (s.setCore i x).walkedAt = s.walkedAt := rfl
@[simp] theorem State.setCore_bankErr (s : State) (i : Nat) (x : Core) : (s.setCore i x).bankErr = s.bankErr := rfl
@[simp] theorem State.setCore_baseDie (s : State) (i : Nat) (x : Core) : (s.setCore i x).baseDie = s.baseDie := rfl
@[simp] theorem State.setCore_repaired (s : State) (i : Nat) (x : Core) : (s.setCore i x).repaired = s.repaired := rfl
@[simp] theorem State.setCore_retire (s : State) (i : Nat) (x : Core) : (s.setCore i x).retire = s.retire := rfl
@[simp] theorem State.setCore_retired (s : State) (i : Nat) (x : Core) : (s.setCore i x).retired = s.retired := rfl
@[simp] theorem State.setCore_populated (s : State) (i : Nat) (x : Core) : (s.setCore i x).populated = s.populated := rfl
@[simp] theorem State.setCore_device (s : State) (i : Nat) (x : Core) : (s.setCore i x).device = s.device := rfl
@[simp] theorem State.setCore_owner (s : State) (i : Nat) (x : Core) : (s.setCore i x).owner = s.owner := rfl
@[simp] theorem State.setCore_mgmtList (s : State) (i : Nat) (x : Core) : (s.setCore i x).mgmtList = s.mgmtList := rfl
@[simp] theorem State.setCore_mac0 (s : State) (i : Nat) (x : Core) : (s.setCore i x).mac0 = s.mac0 := rfl
@[simp] theorem State.setCore_mac1 (s : State) (i : Nat) (x : Core) : (s.setCore i x).mac1 = s.mac1 := rfl
@[simp] theorem State.setCore_ip0 (s : State) (i : Nat) (x : Core) : (s.setCore i x).ip0 = s.ip0 := rfl
@[simp] theorem State.setCore_ip1 (s : State) (i : Nat) (x : Core) : (s.setCore i x).ip1 = s.ip1 := rfl
@[simp] theorem State.setCore_pageCount (s : State) (i : Nat) (x : Core) : (s.setCore i x).pageCount = s.pageCount := rfl
@[simp] theorem State.setCore_pageLeaf (s : State) (i : Nat) (x : Core) : (s.setCore i x).pageLeaf = s.pageLeaf := rfl
@[simp] theorem State.setCore_pageShared (s : State) (i : Nat) (x : Core) : (s.setCore i x).pageShared = s.pageShared := rfl
@[simp] theorem State.setCore_pageCtx (s : State) (i : Nat) (x : Core) : (s.setCore i x).pageCtx = s.pageCtx := rfl
@[simp] theorem State.setCore_promote (s : State) (i : Nat) (x : Core) : (s.setCore i x).promote = s.promote := rfl
@[simp] theorem State.setCore_busy (s : State) (i : Nat) (x : Core) : (s.setCore i x).busy = s.busy := rfl
@[simp] theorem State.setCore_moves (s : State) (i : Nat) (x : Core) : (s.setCore i x).moves = s.moves := rfl
@[simp] theorem State.setCore_net (s : State) (i : Nat) (x : Core) : (s.setCore i x).net = s.net := rfl
@[simp] theorem State.setCore_outbox (s : State) (i : Nat) (x : Core) : (s.setCore i x).outbox = s.outbox := rfl
@[simp] theorem State.setCore_rdmaOut (s : State) (i : Nat) (x : Core) : (s.setCore i x).rdmaOut = s.rdmaOut := rfl
@[simp] theorem State.setCore_qpError (s : State) (i : Nat) (x : Core) : (s.setCore i x).qpError = s.qpError := rfl
@[simp] theorem State.setCore_psns (s : State) (i : Nat) (x : Core) : (s.setCore i x).psns = s.psns := rfl
@[simp] theorem State.setCore_frames (s : State) (i : Nat) (x : Core) : (s.setCore i x).frames = s.frames := rfl
@[simp] theorem State.setCore_waybillsDropped (s : State) (i : Nat) (x : Core) : (s.setCore i x).waybillsDropped = s.waybillsDropped := rfl
@[simp] theorem State.setCore_links (s : State) (i : Nat) (x : Core) : (s.setCore i x).links = s.links := rfl
@[simp] theorem State.setCore_ports (s : State) (i : Nat) (x : Core) : (s.setCore i x).ports = s.ports := rfl
@[simp] theorem State.setCore_power (s : State) (i : Nat) (x : Core) : (s.setCore i x).power = s.power := rfl
@[simp] theorem State.setCore_mgmt (s : State) (i : Nat) (x : Core) : (s.setCore i x).mgmt = s.mgmt := rfl

@[simp] theorem State.setCluster_time (s : State) (i : Nat) (x : Cluster) : (s.setCluster i x).time = s.time := rfl
@[simp] theorem State.setCluster_cycle (s : State) (i : Nat) (x : Cluster) : (s.setCluster i x).cycle = s.cycle := rfl
@[simp] theorem State.setCluster_sub (s : State) (i : Nat) (x : Cluster) : (s.setCluster i x).sub = s.sub := rfl
@[simp] theorem State.setCluster_booted (s : State) (i : Nat) (x : Cluster) : (s.setCluster i x).booted = s.booted := rfl
@[simp] theorem State.setCluster_who (s : State) (i : Nat) (x : Cluster) : (s.setCluster i x).who = s.who := rfl
@[simp] theorem State.setCluster_turns (s : State) (i : Nat) (x : Cluster) : (s.setCluster i x).turns = s.turns := rfl
@[simp] theorem State.setCluster_focus (s : State) (i : Nat) (x : Cluster) : (s.setCluster i x).focus = s.focus := rfl
@[simp] theorem State.setCluster_fresh (s : State) (i : Nat) (x : Cluster) : (s.setCluster i x).fresh = s.fresh := rfl
@[simp] theorem State.setCluster_ids (s : State) (i : Nat) (x : Cluster) : (s.setCluster i x).ids = s.ids := rfl
@[simp] theorem State.setCluster_mem (s : State) (i : Nat) (x : Cluster) : (s.setCluster i x).mem = s.mem := rfl
@[simp] theorem State.setCluster_poison (s : State) (i : Nat) (x : Cluster) : (s.setCluster i x).poison = s.poison := rfl
@[simp] theorem State.setCluster_ecc (s : State) (i : Nat) (x : Cluster) : (s.setCluster i x).ecc = s.ecc := rfl
@[simp] theorem State.setCluster_slice (s : State) (i : Nat) (x : Cluster) : (s.setCluster i x).slice = s.slice := rfl
@[simp] theorem State.setCluster_cores (s : State) (i : Nat) (x : Cluster) : (s.setCluster i x).cores = s.cores := rfl
@[simp] theorem State.setCluster_slots (s : State) (i : Nat) (x : Cluster) : (s.setCluster i x).slots = s.slots := rfl
@[simp] theorem State.setCluster_clusters (s : State) (i : Nat) (x : Cluster) : (s.setCluster i x).clusters = s.clusters.put i x := rfl
@[simp] theorem State.setCluster_groups (s : State) (i : Nat) (x : Cluster) : (s.setCluster i x).groups = s.groups := rfl
@[simp] theorem State.setCluster_wgs (s : State) (i : Nat) (x : Cluster) : (s.setCluster i x).wgs = s.wgs := rfl
@[simp] theorem State.setCluster_ctxs (s : State) (i : Nat) (x : Cluster) : (s.setCluster i x).ctxs = s.ctxs := rfl
@[simp] theorem State.setCluster_launches (s : State) (i : Nat) (x : Cluster) : (s.setCluster i x).launches = s.launches := rfl
@[simp] theorem State.setCluster_saved (s : State) (i : Nat) (x : Cluster) : (s.setCluster i x).saved = s.saved := rfl
@[simp] theorem State.setCluster_served (s : State) (i : Nat) (x : Cluster) : (s.setCluster i x).served = s.served := rfl
@[simp] theorem State.setCluster_waiters (s : State) (i : Nat) (x : Cluster) : (s.setCluster i x).waiters = s.waiters := rfl
@[simp] theorem State.setCluster_enqs (s : State) (i : Nat) (x : Cluster) : (s.setCluster i x).enqs = s.enqs := rfl
@[simp] theorem State.setCluster_arrivals (s : State) (i : Nat) (x : Cluster) : (s.setCluster i x).arrivals = s.arrivals := rfl
@[simp] theorem State.setCluster_xchgs (s : State) (i : Nat) (x : Cluster) : (s.setCluster i x).xchgs = s.xchgs := rfl
@[simp] theorem State.setCluster_searches (s : State) (i : Nat) (x : Cluster) : (s.setCluster i x).searches = s.searches := rfl
@[simp] theorem State.setCluster_walkers (s : State) (i : Nat) (x : Cluster) : (s.setCluster i x).walkers = s.walkers := rfl
@[simp] theorem State.setCluster_msgs (s : State) (i : Nat) (x : Cluster) : (s.setCluster i x).msgs = s.msgs := rfl
@[simp] theorem State.setCluster_stops (s : State) (i : Nat) (x : Cluster) : (s.setCluster i x).stops = s.stops := rfl
@[simp] theorem State.setCluster_cacheWait (s : State) (i : Nat) (x : Cluster) : (s.setCluster i x).cacheWait = s.cacheWait := rfl
@[simp] theorem State.setCluster_inEffect (s : State) (i : Nat) (x : Cluster) : (s.setCluster i x).inEffect = s.inEffect := rfl
@[simp] theorem State.setCluster_handles (s : State) (i : Nat) (x : Cluster) : (s.setCluster i x).handles = s.handles := rfl
@[simp] theorem State.setCluster_admissions (s : State) (i : Nat) (x : Cluster) : (s.setCluster i x).admissions = s.admissions := rfl
@[simp] theorem State.setCluster_lastWalker (s : State) (i : Nat) (x : Cluster) : (s.setCluster i x).lastWalker = s.lastWalker := rfl
@[simp] theorem State.setCluster_walkedAt (s : State) (i : Nat) (x : Cluster) : (s.setCluster i x).walkedAt = s.walkedAt := rfl
@[simp] theorem State.setCluster_bankErr (s : State) (i : Nat) (x : Cluster) : (s.setCluster i x).bankErr = s.bankErr := rfl
@[simp] theorem State.setCluster_baseDie (s : State) (i : Nat) (x : Cluster) : (s.setCluster i x).baseDie = s.baseDie := rfl
@[simp] theorem State.setCluster_repaired (s : State) (i : Nat) (x : Cluster) : (s.setCluster i x).repaired = s.repaired := rfl
@[simp] theorem State.setCluster_retire (s : State) (i : Nat) (x : Cluster) : (s.setCluster i x).retire = s.retire := rfl
@[simp] theorem State.setCluster_retired (s : State) (i : Nat) (x : Cluster) : (s.setCluster i x).retired = s.retired := rfl
@[simp] theorem State.setCluster_populated (s : State) (i : Nat) (x : Cluster) : (s.setCluster i x).populated = s.populated := rfl
@[simp] theorem State.setCluster_device (s : State) (i : Nat) (x : Cluster) : (s.setCluster i x).device = s.device := rfl
@[simp] theorem State.setCluster_owner (s : State) (i : Nat) (x : Cluster) : (s.setCluster i x).owner = s.owner := rfl
@[simp] theorem State.setCluster_mgmtList (s : State) (i : Nat) (x : Cluster) : (s.setCluster i x).mgmtList = s.mgmtList := rfl
@[simp] theorem State.setCluster_mac0 (s : State) (i : Nat) (x : Cluster) : (s.setCluster i x).mac0 = s.mac0 := rfl
@[simp] theorem State.setCluster_mac1 (s : State) (i : Nat) (x : Cluster) : (s.setCluster i x).mac1 = s.mac1 := rfl
@[simp] theorem State.setCluster_ip0 (s : State) (i : Nat) (x : Cluster) : (s.setCluster i x).ip0 = s.ip0 := rfl
@[simp] theorem State.setCluster_ip1 (s : State) (i : Nat) (x : Cluster) : (s.setCluster i x).ip1 = s.ip1 := rfl
@[simp] theorem State.setCluster_pageCount (s : State) (i : Nat) (x : Cluster) : (s.setCluster i x).pageCount = s.pageCount := rfl
@[simp] theorem State.setCluster_pageLeaf (s : State) (i : Nat) (x : Cluster) : (s.setCluster i x).pageLeaf = s.pageLeaf := rfl
@[simp] theorem State.setCluster_pageShared (s : State) (i : Nat) (x : Cluster) : (s.setCluster i x).pageShared = s.pageShared := rfl
@[simp] theorem State.setCluster_pageCtx (s : State) (i : Nat) (x : Cluster) : (s.setCluster i x).pageCtx = s.pageCtx := rfl
@[simp] theorem State.setCluster_promote (s : State) (i : Nat) (x : Cluster) : (s.setCluster i x).promote = s.promote := rfl
@[simp] theorem State.setCluster_busy (s : State) (i : Nat) (x : Cluster) : (s.setCluster i x).busy = s.busy := rfl
@[simp] theorem State.setCluster_moves (s : State) (i : Nat) (x : Cluster) : (s.setCluster i x).moves = s.moves := rfl
@[simp] theorem State.setCluster_net (s : State) (i : Nat) (x : Cluster) : (s.setCluster i x).net = s.net := rfl
@[simp] theorem State.setCluster_outbox (s : State) (i : Nat) (x : Cluster) : (s.setCluster i x).outbox = s.outbox := rfl
@[simp] theorem State.setCluster_rdmaOut (s : State) (i : Nat) (x : Cluster) : (s.setCluster i x).rdmaOut = s.rdmaOut := rfl
@[simp] theorem State.setCluster_qpError (s : State) (i : Nat) (x : Cluster) : (s.setCluster i x).qpError = s.qpError := rfl
@[simp] theorem State.setCluster_psns (s : State) (i : Nat) (x : Cluster) : (s.setCluster i x).psns = s.psns := rfl
@[simp] theorem State.setCluster_frames (s : State) (i : Nat) (x : Cluster) : (s.setCluster i x).frames = s.frames := rfl
@[simp] theorem State.setCluster_waybillsDropped (s : State) (i : Nat) (x : Cluster) : (s.setCluster i x).waybillsDropped = s.waybillsDropped := rfl
@[simp] theorem State.setCluster_links (s : State) (i : Nat) (x : Cluster) : (s.setCluster i x).links = s.links := rfl
@[simp] theorem State.setCluster_ports (s : State) (i : Nat) (x : Cluster) : (s.setCluster i x).ports = s.ports := rfl
@[simp] theorem State.setCluster_power (s : State) (i : Nat) (x : Cluster) : (s.setCluster i x).power = s.power := rfl
@[simp] theorem State.setCluster_mgmt (s : State) (i : Nat) (x : Cluster) : (s.setCluster i x).mgmt = s.mgmt := rfl

@[simp] theorem State.setLaunch_time (s : State) (i : Nat) (x : Launch) : (s.setLaunch i x).time = s.time := rfl
@[simp] theorem State.setLaunch_cycle (s : State) (i : Nat) (x : Launch) : (s.setLaunch i x).cycle = s.cycle := rfl
@[simp] theorem State.setLaunch_sub (s : State) (i : Nat) (x : Launch) : (s.setLaunch i x).sub = s.sub := rfl
@[simp] theorem State.setLaunch_booted (s : State) (i : Nat) (x : Launch) : (s.setLaunch i x).booted = s.booted := rfl
@[simp] theorem State.setLaunch_who (s : State) (i : Nat) (x : Launch) : (s.setLaunch i x).who = s.who := rfl
@[simp] theorem State.setLaunch_turns (s : State) (i : Nat) (x : Launch) : (s.setLaunch i x).turns = s.turns := rfl
@[simp] theorem State.setLaunch_focus (s : State) (i : Nat) (x : Launch) : (s.setLaunch i x).focus = s.focus := rfl
@[simp] theorem State.setLaunch_fresh (s : State) (i : Nat) (x : Launch) : (s.setLaunch i x).fresh = s.fresh := rfl
@[simp] theorem State.setLaunch_ids (s : State) (i : Nat) (x : Launch) : (s.setLaunch i x).ids = s.ids := rfl
@[simp] theorem State.setLaunch_mem (s : State) (i : Nat) (x : Launch) : (s.setLaunch i x).mem = s.mem := rfl
@[simp] theorem State.setLaunch_poison (s : State) (i : Nat) (x : Launch) : (s.setLaunch i x).poison = s.poison := rfl
@[simp] theorem State.setLaunch_ecc (s : State) (i : Nat) (x : Launch) : (s.setLaunch i x).ecc = s.ecc := rfl
@[simp] theorem State.setLaunch_slice (s : State) (i : Nat) (x : Launch) : (s.setLaunch i x).slice = s.slice := rfl
@[simp] theorem State.setLaunch_cores (s : State) (i : Nat) (x : Launch) : (s.setLaunch i x).cores = s.cores := rfl
@[simp] theorem State.setLaunch_slots (s : State) (i : Nat) (x : Launch) : (s.setLaunch i x).slots = s.slots := rfl
@[simp] theorem State.setLaunch_clusters (s : State) (i : Nat) (x : Launch) : (s.setLaunch i x).clusters = s.clusters := rfl
@[simp] theorem State.setLaunch_groups (s : State) (i : Nat) (x : Launch) : (s.setLaunch i x).groups = s.groups := rfl
@[simp] theorem State.setLaunch_wgs (s : State) (i : Nat) (x : Launch) : (s.setLaunch i x).wgs = s.wgs := rfl
@[simp] theorem State.setLaunch_ctxs (s : State) (i : Nat) (x : Launch) : (s.setLaunch i x).ctxs = s.ctxs := rfl
@[simp] theorem State.setLaunch_launches (s : State) (i : Nat) (x : Launch) : (s.setLaunch i x).launches = s.launches.put i x := rfl
@[simp] theorem State.setLaunch_saved (s : State) (i : Nat) (x : Launch) : (s.setLaunch i x).saved = s.saved := rfl
@[simp] theorem State.setLaunch_served (s : State) (i : Nat) (x : Launch) : (s.setLaunch i x).served = s.served := rfl
@[simp] theorem State.setLaunch_waiters (s : State) (i : Nat) (x : Launch) : (s.setLaunch i x).waiters = s.waiters := rfl
@[simp] theorem State.setLaunch_enqs (s : State) (i : Nat) (x : Launch) : (s.setLaunch i x).enqs = s.enqs := rfl
@[simp] theorem State.setLaunch_arrivals (s : State) (i : Nat) (x : Launch) : (s.setLaunch i x).arrivals = s.arrivals := rfl
@[simp] theorem State.setLaunch_xchgs (s : State) (i : Nat) (x : Launch) : (s.setLaunch i x).xchgs = s.xchgs := rfl
@[simp] theorem State.setLaunch_searches (s : State) (i : Nat) (x : Launch) : (s.setLaunch i x).searches = s.searches := rfl
@[simp] theorem State.setLaunch_walkers (s : State) (i : Nat) (x : Launch) : (s.setLaunch i x).walkers = s.walkers := rfl
@[simp] theorem State.setLaunch_msgs (s : State) (i : Nat) (x : Launch) : (s.setLaunch i x).msgs = s.msgs := rfl
@[simp] theorem State.setLaunch_stops (s : State) (i : Nat) (x : Launch) : (s.setLaunch i x).stops = s.stops := rfl
@[simp] theorem State.setLaunch_cacheWait (s : State) (i : Nat) (x : Launch) : (s.setLaunch i x).cacheWait = s.cacheWait := rfl
@[simp] theorem State.setLaunch_inEffect (s : State) (i : Nat) (x : Launch) : (s.setLaunch i x).inEffect = s.inEffect := rfl
@[simp] theorem State.setLaunch_handles (s : State) (i : Nat) (x : Launch) : (s.setLaunch i x).handles = s.handles := rfl
@[simp] theorem State.setLaunch_admissions (s : State) (i : Nat) (x : Launch) : (s.setLaunch i x).admissions = s.admissions := rfl
@[simp] theorem State.setLaunch_lastWalker (s : State) (i : Nat) (x : Launch) : (s.setLaunch i x).lastWalker = s.lastWalker := rfl
@[simp] theorem State.setLaunch_walkedAt (s : State) (i : Nat) (x : Launch) : (s.setLaunch i x).walkedAt = s.walkedAt := rfl
@[simp] theorem State.setLaunch_bankErr (s : State) (i : Nat) (x : Launch) : (s.setLaunch i x).bankErr = s.bankErr := rfl
@[simp] theorem State.setLaunch_baseDie (s : State) (i : Nat) (x : Launch) : (s.setLaunch i x).baseDie = s.baseDie := rfl
@[simp] theorem State.setLaunch_repaired (s : State) (i : Nat) (x : Launch) : (s.setLaunch i x).repaired = s.repaired := rfl
@[simp] theorem State.setLaunch_retire (s : State) (i : Nat) (x : Launch) : (s.setLaunch i x).retire = s.retire := rfl
@[simp] theorem State.setLaunch_retired (s : State) (i : Nat) (x : Launch) : (s.setLaunch i x).retired = s.retired := rfl
@[simp] theorem State.setLaunch_populated (s : State) (i : Nat) (x : Launch) : (s.setLaunch i x).populated = s.populated := rfl
@[simp] theorem State.setLaunch_device (s : State) (i : Nat) (x : Launch) : (s.setLaunch i x).device = s.device := rfl
@[simp] theorem State.setLaunch_owner (s : State) (i : Nat) (x : Launch) : (s.setLaunch i x).owner = s.owner := rfl
@[simp] theorem State.setLaunch_mgmtList (s : State) (i : Nat) (x : Launch) : (s.setLaunch i x).mgmtList = s.mgmtList := rfl
@[simp] theorem State.setLaunch_mac0 (s : State) (i : Nat) (x : Launch) : (s.setLaunch i x).mac0 = s.mac0 := rfl
@[simp] theorem State.setLaunch_mac1 (s : State) (i : Nat) (x : Launch) : (s.setLaunch i x).mac1 = s.mac1 := rfl
@[simp] theorem State.setLaunch_ip0 (s : State) (i : Nat) (x : Launch) : (s.setLaunch i x).ip0 = s.ip0 := rfl
@[simp] theorem State.setLaunch_ip1 (s : State) (i : Nat) (x : Launch) : (s.setLaunch i x).ip1 = s.ip1 := rfl
@[simp] theorem State.setLaunch_pageCount (s : State) (i : Nat) (x : Launch) : (s.setLaunch i x).pageCount = s.pageCount := rfl
@[simp] theorem State.setLaunch_pageLeaf (s : State) (i : Nat) (x : Launch) : (s.setLaunch i x).pageLeaf = s.pageLeaf := rfl
@[simp] theorem State.setLaunch_pageShared (s : State) (i : Nat) (x : Launch) : (s.setLaunch i x).pageShared = s.pageShared := rfl
@[simp] theorem State.setLaunch_pageCtx (s : State) (i : Nat) (x : Launch) : (s.setLaunch i x).pageCtx = s.pageCtx := rfl
@[simp] theorem State.setLaunch_promote (s : State) (i : Nat) (x : Launch) : (s.setLaunch i x).promote = s.promote := rfl
@[simp] theorem State.setLaunch_busy (s : State) (i : Nat) (x : Launch) : (s.setLaunch i x).busy = s.busy := rfl
@[simp] theorem State.setLaunch_moves (s : State) (i : Nat) (x : Launch) : (s.setLaunch i x).moves = s.moves := rfl
@[simp] theorem State.setLaunch_net (s : State) (i : Nat) (x : Launch) : (s.setLaunch i x).net = s.net := rfl
@[simp] theorem State.setLaunch_outbox (s : State) (i : Nat) (x : Launch) : (s.setLaunch i x).outbox = s.outbox := rfl
@[simp] theorem State.setLaunch_rdmaOut (s : State) (i : Nat) (x : Launch) : (s.setLaunch i x).rdmaOut = s.rdmaOut := rfl
@[simp] theorem State.setLaunch_qpError (s : State) (i : Nat) (x : Launch) : (s.setLaunch i x).qpError = s.qpError := rfl
@[simp] theorem State.setLaunch_psns (s : State) (i : Nat) (x : Launch) : (s.setLaunch i x).psns = s.psns := rfl
@[simp] theorem State.setLaunch_frames (s : State) (i : Nat) (x : Launch) : (s.setLaunch i x).frames = s.frames := rfl
@[simp] theorem State.setLaunch_waybillsDropped (s : State) (i : Nat) (x : Launch) : (s.setLaunch i x).waybillsDropped = s.waybillsDropped := rfl
@[simp] theorem State.setLaunch_links (s : State) (i : Nat) (x : Launch) : (s.setLaunch i x).links = s.links := rfl
@[simp] theorem State.setLaunch_ports (s : State) (i : Nat) (x : Launch) : (s.setLaunch i x).ports = s.ports := rfl
@[simp] theorem State.setLaunch_power (s : State) (i : Nat) (x : Launch) : (s.setLaunch i x).power = s.power := rfl
@[simp] theorem State.setLaunch_mgmt (s : State) (i : Nat) (x : Launch) : (s.setLaunch i x).mgmt = s.mgmt := rfl

@[simp] theorem State.setSearch_time (s : State) (i : Nat) (x : Search) : (s.setSearch i x).time = s.time := rfl
@[simp] theorem State.setSearch_cycle (s : State) (i : Nat) (x : Search) : (s.setSearch i x).cycle = s.cycle := rfl
@[simp] theorem State.setSearch_sub (s : State) (i : Nat) (x : Search) : (s.setSearch i x).sub = s.sub := rfl
@[simp] theorem State.setSearch_booted (s : State) (i : Nat) (x : Search) : (s.setSearch i x).booted = s.booted := rfl
@[simp] theorem State.setSearch_who (s : State) (i : Nat) (x : Search) : (s.setSearch i x).who = s.who := rfl
@[simp] theorem State.setSearch_turns (s : State) (i : Nat) (x : Search) : (s.setSearch i x).turns = s.turns := rfl
@[simp] theorem State.setSearch_focus (s : State) (i : Nat) (x : Search) : (s.setSearch i x).focus = s.focus := rfl
@[simp] theorem State.setSearch_fresh (s : State) (i : Nat) (x : Search) : (s.setSearch i x).fresh = s.fresh := rfl
@[simp] theorem State.setSearch_ids (s : State) (i : Nat) (x : Search) : (s.setSearch i x).ids = s.ids := rfl
@[simp] theorem State.setSearch_mem (s : State) (i : Nat) (x : Search) : (s.setSearch i x).mem = s.mem := rfl
@[simp] theorem State.setSearch_poison (s : State) (i : Nat) (x : Search) : (s.setSearch i x).poison = s.poison := rfl
@[simp] theorem State.setSearch_ecc (s : State) (i : Nat) (x : Search) : (s.setSearch i x).ecc = s.ecc := rfl
@[simp] theorem State.setSearch_slice (s : State) (i : Nat) (x : Search) : (s.setSearch i x).slice = s.slice := rfl
@[simp] theorem State.setSearch_cores (s : State) (i : Nat) (x : Search) : (s.setSearch i x).cores = s.cores := rfl
@[simp] theorem State.setSearch_slots (s : State) (i : Nat) (x : Search) : (s.setSearch i x).slots = s.slots := rfl
@[simp] theorem State.setSearch_clusters (s : State) (i : Nat) (x : Search) : (s.setSearch i x).clusters = s.clusters := rfl
@[simp] theorem State.setSearch_groups (s : State) (i : Nat) (x : Search) : (s.setSearch i x).groups = s.groups := rfl
@[simp] theorem State.setSearch_wgs (s : State) (i : Nat) (x : Search) : (s.setSearch i x).wgs = s.wgs := rfl
@[simp] theorem State.setSearch_ctxs (s : State) (i : Nat) (x : Search) : (s.setSearch i x).ctxs = s.ctxs := rfl
@[simp] theorem State.setSearch_launches (s : State) (i : Nat) (x : Search) : (s.setSearch i x).launches = s.launches := rfl
@[simp] theorem State.setSearch_saved (s : State) (i : Nat) (x : Search) : (s.setSearch i x).saved = s.saved := rfl
@[simp] theorem State.setSearch_served (s : State) (i : Nat) (x : Search) : (s.setSearch i x).served = s.served := rfl
@[simp] theorem State.setSearch_waiters (s : State) (i : Nat) (x : Search) : (s.setSearch i x).waiters = s.waiters := rfl
@[simp] theorem State.setSearch_enqs (s : State) (i : Nat) (x : Search) : (s.setSearch i x).enqs = s.enqs := rfl
@[simp] theorem State.setSearch_arrivals (s : State) (i : Nat) (x : Search) : (s.setSearch i x).arrivals = s.arrivals := rfl
@[simp] theorem State.setSearch_xchgs (s : State) (i : Nat) (x : Search) : (s.setSearch i x).xchgs = s.xchgs := rfl
@[simp] theorem State.setSearch_searches (s : State) (i : Nat) (x : Search) : (s.setSearch i x).searches = s.searches.put i x := rfl
@[simp] theorem State.setSearch_walkers (s : State) (i : Nat) (x : Search) : (s.setSearch i x).walkers = s.walkers := rfl
@[simp] theorem State.setSearch_msgs (s : State) (i : Nat) (x : Search) : (s.setSearch i x).msgs = s.msgs := rfl
@[simp] theorem State.setSearch_stops (s : State) (i : Nat) (x : Search) : (s.setSearch i x).stops = s.stops := rfl
@[simp] theorem State.setSearch_cacheWait (s : State) (i : Nat) (x : Search) : (s.setSearch i x).cacheWait = s.cacheWait := rfl
@[simp] theorem State.setSearch_inEffect (s : State) (i : Nat) (x : Search) : (s.setSearch i x).inEffect = s.inEffect := rfl
@[simp] theorem State.setSearch_handles (s : State) (i : Nat) (x : Search) : (s.setSearch i x).handles = s.handles := rfl
@[simp] theorem State.setSearch_admissions (s : State) (i : Nat) (x : Search) : (s.setSearch i x).admissions = s.admissions := rfl
@[simp] theorem State.setSearch_lastWalker (s : State) (i : Nat) (x : Search) : (s.setSearch i x).lastWalker = s.lastWalker := rfl
@[simp] theorem State.setSearch_walkedAt (s : State) (i : Nat) (x : Search) : (s.setSearch i x).walkedAt = s.walkedAt := rfl
@[simp] theorem State.setSearch_bankErr (s : State) (i : Nat) (x : Search) : (s.setSearch i x).bankErr = s.bankErr := rfl
@[simp] theorem State.setSearch_baseDie (s : State) (i : Nat) (x : Search) : (s.setSearch i x).baseDie = s.baseDie := rfl
@[simp] theorem State.setSearch_repaired (s : State) (i : Nat) (x : Search) : (s.setSearch i x).repaired = s.repaired := rfl
@[simp] theorem State.setSearch_retire (s : State) (i : Nat) (x : Search) : (s.setSearch i x).retire = s.retire := rfl
@[simp] theorem State.setSearch_retired (s : State) (i : Nat) (x : Search) : (s.setSearch i x).retired = s.retired := rfl
@[simp] theorem State.setSearch_populated (s : State) (i : Nat) (x : Search) : (s.setSearch i x).populated = s.populated := rfl
@[simp] theorem State.setSearch_device (s : State) (i : Nat) (x : Search) : (s.setSearch i x).device = s.device := rfl
@[simp] theorem State.setSearch_owner (s : State) (i : Nat) (x : Search) : (s.setSearch i x).owner = s.owner := rfl
@[simp] theorem State.setSearch_mgmtList (s : State) (i : Nat) (x : Search) : (s.setSearch i x).mgmtList = s.mgmtList := rfl
@[simp] theorem State.setSearch_mac0 (s : State) (i : Nat) (x : Search) : (s.setSearch i x).mac0 = s.mac0 := rfl
@[simp] theorem State.setSearch_mac1 (s : State) (i : Nat) (x : Search) : (s.setSearch i x).mac1 = s.mac1 := rfl
@[simp] theorem State.setSearch_ip0 (s : State) (i : Nat) (x : Search) : (s.setSearch i x).ip0 = s.ip0 := rfl
@[simp] theorem State.setSearch_ip1 (s : State) (i : Nat) (x : Search) : (s.setSearch i x).ip1 = s.ip1 := rfl
@[simp] theorem State.setSearch_pageCount (s : State) (i : Nat) (x : Search) : (s.setSearch i x).pageCount = s.pageCount := rfl
@[simp] theorem State.setSearch_pageLeaf (s : State) (i : Nat) (x : Search) : (s.setSearch i x).pageLeaf = s.pageLeaf := rfl
@[simp] theorem State.setSearch_pageShared (s : State) (i : Nat) (x : Search) : (s.setSearch i x).pageShared = s.pageShared := rfl
@[simp] theorem State.setSearch_pageCtx (s : State) (i : Nat) (x : Search) : (s.setSearch i x).pageCtx = s.pageCtx := rfl
@[simp] theorem State.setSearch_promote (s : State) (i : Nat) (x : Search) : (s.setSearch i x).promote = s.promote := rfl
@[simp] theorem State.setSearch_busy (s : State) (i : Nat) (x : Search) : (s.setSearch i x).busy = s.busy := rfl
@[simp] theorem State.setSearch_moves (s : State) (i : Nat) (x : Search) : (s.setSearch i x).moves = s.moves := rfl
@[simp] theorem State.setSearch_net (s : State) (i : Nat) (x : Search) : (s.setSearch i x).net = s.net := rfl
@[simp] theorem State.setSearch_outbox (s : State) (i : Nat) (x : Search) : (s.setSearch i x).outbox = s.outbox := rfl
@[simp] theorem State.setSearch_rdmaOut (s : State) (i : Nat) (x : Search) : (s.setSearch i x).rdmaOut = s.rdmaOut := rfl
@[simp] theorem State.setSearch_qpError (s : State) (i : Nat) (x : Search) : (s.setSearch i x).qpError = s.qpError := rfl
@[simp] theorem State.setSearch_psns (s : State) (i : Nat) (x : Search) : (s.setSearch i x).psns = s.psns := rfl
@[simp] theorem State.setSearch_frames (s : State) (i : Nat) (x : Search) : (s.setSearch i x).frames = s.frames := rfl
@[simp] theorem State.setSearch_waybillsDropped (s : State) (i : Nat) (x : Search) : (s.setSearch i x).waybillsDropped = s.waybillsDropped := rfl
@[simp] theorem State.setSearch_links (s : State) (i : Nat) (x : Search) : (s.setSearch i x).links = s.links := rfl
@[simp] theorem State.setSearch_ports (s : State) (i : Nat) (x : Search) : (s.setSearch i x).ports = s.ports := rfl
@[simp] theorem State.setSearch_power (s : State) (i : Nat) (x : Search) : (s.setSearch i x).power = s.power := rfl
@[simp] theorem State.setSearch_mgmt (s : State) (i : Nat) (x : Search) : (s.setSearch i x).mgmt = s.mgmt := rfl

@[simp] theorem State.setWalker_time (s : State) (i : Nat) (x : Walker) : (s.setWalker i x).time = s.time := rfl
@[simp] theorem State.setWalker_cycle (s : State) (i : Nat) (x : Walker) : (s.setWalker i x).cycle = s.cycle := rfl
@[simp] theorem State.setWalker_sub (s : State) (i : Nat) (x : Walker) : (s.setWalker i x).sub = s.sub := rfl
@[simp] theorem State.setWalker_booted (s : State) (i : Nat) (x : Walker) : (s.setWalker i x).booted = s.booted := rfl
@[simp] theorem State.setWalker_who (s : State) (i : Nat) (x : Walker) : (s.setWalker i x).who = s.who := rfl
@[simp] theorem State.setWalker_turns (s : State) (i : Nat) (x : Walker) : (s.setWalker i x).turns = s.turns := rfl
@[simp] theorem State.setWalker_focus (s : State) (i : Nat) (x : Walker) : (s.setWalker i x).focus = s.focus := rfl
@[simp] theorem State.setWalker_fresh (s : State) (i : Nat) (x : Walker) : (s.setWalker i x).fresh = s.fresh := rfl
@[simp] theorem State.setWalker_ids (s : State) (i : Nat) (x : Walker) : (s.setWalker i x).ids = s.ids := rfl
@[simp] theorem State.setWalker_mem (s : State) (i : Nat) (x : Walker) : (s.setWalker i x).mem = s.mem := rfl
@[simp] theorem State.setWalker_poison (s : State) (i : Nat) (x : Walker) : (s.setWalker i x).poison = s.poison := rfl
@[simp] theorem State.setWalker_ecc (s : State) (i : Nat) (x : Walker) : (s.setWalker i x).ecc = s.ecc := rfl
@[simp] theorem State.setWalker_slice (s : State) (i : Nat) (x : Walker) : (s.setWalker i x).slice = s.slice := rfl
@[simp] theorem State.setWalker_cores (s : State) (i : Nat) (x : Walker) : (s.setWalker i x).cores = s.cores := rfl
@[simp] theorem State.setWalker_slots (s : State) (i : Nat) (x : Walker) : (s.setWalker i x).slots = s.slots := rfl
@[simp] theorem State.setWalker_clusters (s : State) (i : Nat) (x : Walker) : (s.setWalker i x).clusters = s.clusters := rfl
@[simp] theorem State.setWalker_groups (s : State) (i : Nat) (x : Walker) : (s.setWalker i x).groups = s.groups := rfl
@[simp] theorem State.setWalker_wgs (s : State) (i : Nat) (x : Walker) : (s.setWalker i x).wgs = s.wgs := rfl
@[simp] theorem State.setWalker_ctxs (s : State) (i : Nat) (x : Walker) : (s.setWalker i x).ctxs = s.ctxs := rfl
@[simp] theorem State.setWalker_launches (s : State) (i : Nat) (x : Walker) : (s.setWalker i x).launches = s.launches := rfl
@[simp] theorem State.setWalker_saved (s : State) (i : Nat) (x : Walker) : (s.setWalker i x).saved = s.saved := rfl
@[simp] theorem State.setWalker_served (s : State) (i : Nat) (x : Walker) : (s.setWalker i x).served = s.served := rfl
@[simp] theorem State.setWalker_waiters (s : State) (i : Nat) (x : Walker) : (s.setWalker i x).waiters = s.waiters := rfl
@[simp] theorem State.setWalker_enqs (s : State) (i : Nat) (x : Walker) : (s.setWalker i x).enqs = s.enqs := rfl
@[simp] theorem State.setWalker_arrivals (s : State) (i : Nat) (x : Walker) : (s.setWalker i x).arrivals = s.arrivals := rfl
@[simp] theorem State.setWalker_xchgs (s : State) (i : Nat) (x : Walker) : (s.setWalker i x).xchgs = s.xchgs := rfl
@[simp] theorem State.setWalker_searches (s : State) (i : Nat) (x : Walker) : (s.setWalker i x).searches = s.searches := rfl
@[simp] theorem State.setWalker_walkers (s : State) (i : Nat) (x : Walker) : (s.setWalker i x).walkers = s.walkers.put i x := rfl
@[simp] theorem State.setWalker_msgs (s : State) (i : Nat) (x : Walker) : (s.setWalker i x).msgs = s.msgs := rfl
@[simp] theorem State.setWalker_stops (s : State) (i : Nat) (x : Walker) : (s.setWalker i x).stops = s.stops := rfl
@[simp] theorem State.setWalker_cacheWait (s : State) (i : Nat) (x : Walker) : (s.setWalker i x).cacheWait = s.cacheWait := rfl
@[simp] theorem State.setWalker_inEffect (s : State) (i : Nat) (x : Walker) : (s.setWalker i x).inEffect = s.inEffect := rfl
@[simp] theorem State.setWalker_handles (s : State) (i : Nat) (x : Walker) : (s.setWalker i x).handles = s.handles := rfl
@[simp] theorem State.setWalker_admissions (s : State) (i : Nat) (x : Walker) : (s.setWalker i x).admissions = s.admissions := rfl
@[simp] theorem State.setWalker_lastWalker (s : State) (i : Nat) (x : Walker) : (s.setWalker i x).lastWalker = s.lastWalker := rfl
@[simp] theorem State.setWalker_walkedAt (s : State) (i : Nat) (x : Walker) : (s.setWalker i x).walkedAt = s.walkedAt := rfl
@[simp] theorem State.setWalker_bankErr (s : State) (i : Nat) (x : Walker) : (s.setWalker i x).bankErr = s.bankErr := rfl
@[simp] theorem State.setWalker_baseDie (s : State) (i : Nat) (x : Walker) : (s.setWalker i x).baseDie = s.baseDie := rfl
@[simp] theorem State.setWalker_repaired (s : State) (i : Nat) (x : Walker) : (s.setWalker i x).repaired = s.repaired := rfl
@[simp] theorem State.setWalker_retire (s : State) (i : Nat) (x : Walker) : (s.setWalker i x).retire = s.retire := rfl
@[simp] theorem State.setWalker_retired (s : State) (i : Nat) (x : Walker) : (s.setWalker i x).retired = s.retired := rfl
@[simp] theorem State.setWalker_populated (s : State) (i : Nat) (x : Walker) : (s.setWalker i x).populated = s.populated := rfl
@[simp] theorem State.setWalker_device (s : State) (i : Nat) (x : Walker) : (s.setWalker i x).device = s.device := rfl
@[simp] theorem State.setWalker_owner (s : State) (i : Nat) (x : Walker) : (s.setWalker i x).owner = s.owner := rfl
@[simp] theorem State.setWalker_mgmtList (s : State) (i : Nat) (x : Walker) : (s.setWalker i x).mgmtList = s.mgmtList := rfl
@[simp] theorem State.setWalker_mac0 (s : State) (i : Nat) (x : Walker) : (s.setWalker i x).mac0 = s.mac0 := rfl
@[simp] theorem State.setWalker_mac1 (s : State) (i : Nat) (x : Walker) : (s.setWalker i x).mac1 = s.mac1 := rfl
@[simp] theorem State.setWalker_ip0 (s : State) (i : Nat) (x : Walker) : (s.setWalker i x).ip0 = s.ip0 := rfl
@[simp] theorem State.setWalker_ip1 (s : State) (i : Nat) (x : Walker) : (s.setWalker i x).ip1 = s.ip1 := rfl
@[simp] theorem State.setWalker_pageCount (s : State) (i : Nat) (x : Walker) : (s.setWalker i x).pageCount = s.pageCount := rfl
@[simp] theorem State.setWalker_pageLeaf (s : State) (i : Nat) (x : Walker) : (s.setWalker i x).pageLeaf = s.pageLeaf := rfl
@[simp] theorem State.setWalker_pageShared (s : State) (i : Nat) (x : Walker) : (s.setWalker i x).pageShared = s.pageShared := rfl
@[simp] theorem State.setWalker_pageCtx (s : State) (i : Nat) (x : Walker) : (s.setWalker i x).pageCtx = s.pageCtx := rfl
@[simp] theorem State.setWalker_promote (s : State) (i : Nat) (x : Walker) : (s.setWalker i x).promote = s.promote := rfl
@[simp] theorem State.setWalker_busy (s : State) (i : Nat) (x : Walker) : (s.setWalker i x).busy = s.busy := rfl
@[simp] theorem State.setWalker_moves (s : State) (i : Nat) (x : Walker) : (s.setWalker i x).moves = s.moves := rfl
@[simp] theorem State.setWalker_net (s : State) (i : Nat) (x : Walker) : (s.setWalker i x).net = s.net := rfl
@[simp] theorem State.setWalker_outbox (s : State) (i : Nat) (x : Walker) : (s.setWalker i x).outbox = s.outbox := rfl
@[simp] theorem State.setWalker_rdmaOut (s : State) (i : Nat) (x : Walker) : (s.setWalker i x).rdmaOut = s.rdmaOut := rfl
@[simp] theorem State.setWalker_qpError (s : State) (i : Nat) (x : Walker) : (s.setWalker i x).qpError = s.qpError := rfl
@[simp] theorem State.setWalker_psns (s : State) (i : Nat) (x : Walker) : (s.setWalker i x).psns = s.psns := rfl
@[simp] theorem State.setWalker_frames (s : State) (i : Nat) (x : Walker) : (s.setWalker i x).frames = s.frames := rfl
@[simp] theorem State.setWalker_waybillsDropped (s : State) (i : Nat) (x : Walker) : (s.setWalker i x).waybillsDropped = s.waybillsDropped := rfl
@[simp] theorem State.setWalker_links (s : State) (i : Nat) (x : Walker) : (s.setWalker i x).links = s.links := rfl
@[simp] theorem State.setWalker_ports (s : State) (i : Nat) (x : Walker) : (s.setWalker i x).ports = s.ports := rfl
@[simp] theorem State.setWalker_power (s : State) (i : Nat) (x : Walker) : (s.setWalker i x).power = s.power := rfl
@[simp] theorem State.setWalker_mgmt (s : State) (i : Nat) (x : Walker) : (s.setWalker i x).mgmt = s.mgmt := rfl

@[simp] theorem State.setStream_time (s : State) (i : Nat) (x : NetStream) : (s.setStream i x).time = s.time := rfl
@[simp] theorem State.setStream_cycle (s : State) (i : Nat) (x : NetStream) : (s.setStream i x).cycle = s.cycle := rfl
@[simp] theorem State.setStream_sub (s : State) (i : Nat) (x : NetStream) : (s.setStream i x).sub = s.sub := rfl
@[simp] theorem State.setStream_booted (s : State) (i : Nat) (x : NetStream) : (s.setStream i x).booted = s.booted := rfl
@[simp] theorem State.setStream_who (s : State) (i : Nat) (x : NetStream) : (s.setStream i x).who = s.who := rfl
@[simp] theorem State.setStream_turns (s : State) (i : Nat) (x : NetStream) : (s.setStream i x).turns = s.turns := rfl
@[simp] theorem State.setStream_focus (s : State) (i : Nat) (x : NetStream) : (s.setStream i x).focus = s.focus := rfl
@[simp] theorem State.setStream_fresh (s : State) (i : Nat) (x : NetStream) : (s.setStream i x).fresh = s.fresh := rfl
@[simp] theorem State.setStream_ids (s : State) (i : Nat) (x : NetStream) : (s.setStream i x).ids = s.ids := rfl
@[simp] theorem State.setStream_mem (s : State) (i : Nat) (x : NetStream) : (s.setStream i x).mem = s.mem := rfl
@[simp] theorem State.setStream_poison (s : State) (i : Nat) (x : NetStream) : (s.setStream i x).poison = s.poison := rfl
@[simp] theorem State.setStream_ecc (s : State) (i : Nat) (x : NetStream) : (s.setStream i x).ecc = s.ecc := rfl
@[simp] theorem State.setStream_slice (s : State) (i : Nat) (x : NetStream) : (s.setStream i x).slice = s.slice := rfl
@[simp] theorem State.setStream_cores (s : State) (i : Nat) (x : NetStream) : (s.setStream i x).cores = s.cores := rfl
@[simp] theorem State.setStream_slots (s : State) (i : Nat) (x : NetStream) : (s.setStream i x).slots = s.slots := rfl
@[simp] theorem State.setStream_clusters (s : State) (i : Nat) (x : NetStream) : (s.setStream i x).clusters = s.clusters := rfl
@[simp] theorem State.setStream_groups (s : State) (i : Nat) (x : NetStream) : (s.setStream i x).groups = s.groups := rfl
@[simp] theorem State.setStream_wgs (s : State) (i : Nat) (x : NetStream) : (s.setStream i x).wgs = s.wgs := rfl
@[simp] theorem State.setStream_ctxs (s : State) (i : Nat) (x : NetStream) : (s.setStream i x).ctxs = s.ctxs := rfl
@[simp] theorem State.setStream_launches (s : State) (i : Nat) (x : NetStream) : (s.setStream i x).launches = s.launches := rfl
@[simp] theorem State.setStream_saved (s : State) (i : Nat) (x : NetStream) : (s.setStream i x).saved = s.saved := rfl
@[simp] theorem State.setStream_served (s : State) (i : Nat) (x : NetStream) : (s.setStream i x).served = s.served := rfl
@[simp] theorem State.setStream_waiters (s : State) (i : Nat) (x : NetStream) : (s.setStream i x).waiters = s.waiters := rfl
@[simp] theorem State.setStream_enqs (s : State) (i : Nat) (x : NetStream) : (s.setStream i x).enqs = s.enqs := rfl
@[simp] theorem State.setStream_arrivals (s : State) (i : Nat) (x : NetStream) : (s.setStream i x).arrivals = s.arrivals := rfl
@[simp] theorem State.setStream_xchgs (s : State) (i : Nat) (x : NetStream) : (s.setStream i x).xchgs = s.xchgs := rfl
@[simp] theorem State.setStream_searches (s : State) (i : Nat) (x : NetStream) : (s.setStream i x).searches = s.searches := rfl
@[simp] theorem State.setStream_walkers (s : State) (i : Nat) (x : NetStream) : (s.setStream i x).walkers = s.walkers := rfl
@[simp] theorem State.setStream_msgs (s : State) (i : Nat) (x : NetStream) : (s.setStream i x).msgs = s.msgs := rfl
@[simp] theorem State.setStream_stops (s : State) (i : Nat) (x : NetStream) : (s.setStream i x).stops = s.stops := rfl
@[simp] theorem State.setStream_cacheWait (s : State) (i : Nat) (x : NetStream) : (s.setStream i x).cacheWait = s.cacheWait := rfl
@[simp] theorem State.setStream_inEffect (s : State) (i : Nat) (x : NetStream) : (s.setStream i x).inEffect = s.inEffect := rfl
@[simp] theorem State.setStream_handles (s : State) (i : Nat) (x : NetStream) : (s.setStream i x).handles = s.handles := rfl
@[simp] theorem State.setStream_admissions (s : State) (i : Nat) (x : NetStream) : (s.setStream i x).admissions = s.admissions := rfl
@[simp] theorem State.setStream_lastWalker (s : State) (i : Nat) (x : NetStream) : (s.setStream i x).lastWalker = s.lastWalker := rfl
@[simp] theorem State.setStream_walkedAt (s : State) (i : Nat) (x : NetStream) : (s.setStream i x).walkedAt = s.walkedAt := rfl
@[simp] theorem State.setStream_bankErr (s : State) (i : Nat) (x : NetStream) : (s.setStream i x).bankErr = s.bankErr := rfl
@[simp] theorem State.setStream_baseDie (s : State) (i : Nat) (x : NetStream) : (s.setStream i x).baseDie = s.baseDie := rfl
@[simp] theorem State.setStream_repaired (s : State) (i : Nat) (x : NetStream) : (s.setStream i x).repaired = s.repaired := rfl
@[simp] theorem State.setStream_retire (s : State) (i : Nat) (x : NetStream) : (s.setStream i x).retire = s.retire := rfl
@[simp] theorem State.setStream_retired (s : State) (i : Nat) (x : NetStream) : (s.setStream i x).retired = s.retired := rfl
@[simp] theorem State.setStream_populated (s : State) (i : Nat) (x : NetStream) : (s.setStream i x).populated = s.populated := rfl
@[simp] theorem State.setStream_device (s : State) (i : Nat) (x : NetStream) : (s.setStream i x).device = s.device := rfl
@[simp] theorem State.setStream_owner (s : State) (i : Nat) (x : NetStream) : (s.setStream i x).owner = s.owner := rfl
@[simp] theorem State.setStream_mgmtList (s : State) (i : Nat) (x : NetStream) : (s.setStream i x).mgmtList = s.mgmtList := rfl
@[simp] theorem State.setStream_mac0 (s : State) (i : Nat) (x : NetStream) : (s.setStream i x).mac0 = s.mac0 := rfl
@[simp] theorem State.setStream_mac1 (s : State) (i : Nat) (x : NetStream) : (s.setStream i x).mac1 = s.mac1 := rfl
@[simp] theorem State.setStream_ip0 (s : State) (i : Nat) (x : NetStream) : (s.setStream i x).ip0 = s.ip0 := rfl
@[simp] theorem State.setStream_ip1 (s : State) (i : Nat) (x : NetStream) : (s.setStream i x).ip1 = s.ip1 := rfl
@[simp] theorem State.setStream_pageCount (s : State) (i : Nat) (x : NetStream) : (s.setStream i x).pageCount = s.pageCount := rfl
@[simp] theorem State.setStream_pageLeaf (s : State) (i : Nat) (x : NetStream) : (s.setStream i x).pageLeaf = s.pageLeaf := rfl
@[simp] theorem State.setStream_pageShared (s : State) (i : Nat) (x : NetStream) : (s.setStream i x).pageShared = s.pageShared := rfl
@[simp] theorem State.setStream_pageCtx (s : State) (i : Nat) (x : NetStream) : (s.setStream i x).pageCtx = s.pageCtx := rfl
@[simp] theorem State.setStream_promote (s : State) (i : Nat) (x : NetStream) : (s.setStream i x).promote = s.promote := rfl
@[simp] theorem State.setStream_busy (s : State) (i : Nat) (x : NetStream) : (s.setStream i x).busy = s.busy := rfl
@[simp] theorem State.setStream_moves (s : State) (i : Nat) (x : NetStream) : (s.setStream i x).moves = s.moves := rfl
@[simp] theorem State.setStream_net (s : State) (i : Nat) (x : NetStream) : (s.setStream i x).net = s.net.put i x := rfl
@[simp] theorem State.setStream_outbox (s : State) (i : Nat) (x : NetStream) : (s.setStream i x).outbox = s.outbox := rfl
@[simp] theorem State.setStream_rdmaOut (s : State) (i : Nat) (x : NetStream) : (s.setStream i x).rdmaOut = s.rdmaOut := rfl
@[simp] theorem State.setStream_qpError (s : State) (i : Nat) (x : NetStream) : (s.setStream i x).qpError = s.qpError := rfl
@[simp] theorem State.setStream_psns (s : State) (i : Nat) (x : NetStream) : (s.setStream i x).psns = s.psns := rfl
@[simp] theorem State.setStream_frames (s : State) (i : Nat) (x : NetStream) : (s.setStream i x).frames = s.frames := rfl
@[simp] theorem State.setStream_waybillsDropped (s : State) (i : Nat) (x : NetStream) : (s.setStream i x).waybillsDropped = s.waybillsDropped := rfl
@[simp] theorem State.setStream_links (s : State) (i : Nat) (x : NetStream) : (s.setStream i x).links = s.links := rfl
@[simp] theorem State.setStream_ports (s : State) (i : Nat) (x : NetStream) : (s.setStream i x).ports = s.ports := rfl
@[simp] theorem State.setStream_power (s : State) (i : Nat) (x : NetStream) : (s.setStream i x).power = s.power := rfl
@[simp] theorem State.setStream_mgmt (s : State) (i : Nat) (x : NetStream) : (s.setStream i x).mgmt = s.mgmt := rfl

@[simp] theorem State.setFabric_time (s : State) (i : Nat) (x : FabricPort) : (s.setFabric i x).time = s.time := rfl
@[simp] theorem State.setFabric_cycle (s : State) (i : Nat) (x : FabricPort) : (s.setFabric i x).cycle = s.cycle := rfl
@[simp] theorem State.setFabric_sub (s : State) (i : Nat) (x : FabricPort) : (s.setFabric i x).sub = s.sub := rfl
@[simp] theorem State.setFabric_booted (s : State) (i : Nat) (x : FabricPort) : (s.setFabric i x).booted = s.booted := rfl
@[simp] theorem State.setFabric_who (s : State) (i : Nat) (x : FabricPort) : (s.setFabric i x).who = s.who := rfl
@[simp] theorem State.setFabric_turns (s : State) (i : Nat) (x : FabricPort) : (s.setFabric i x).turns = s.turns := rfl
@[simp] theorem State.setFabric_focus (s : State) (i : Nat) (x : FabricPort) : (s.setFabric i x).focus = s.focus := rfl
@[simp] theorem State.setFabric_fresh (s : State) (i : Nat) (x : FabricPort) : (s.setFabric i x).fresh = s.fresh := rfl
@[simp] theorem State.setFabric_ids (s : State) (i : Nat) (x : FabricPort) : (s.setFabric i x).ids = s.ids := rfl
@[simp] theorem State.setFabric_mem (s : State) (i : Nat) (x : FabricPort) : (s.setFabric i x).mem = s.mem := rfl
@[simp] theorem State.setFabric_poison (s : State) (i : Nat) (x : FabricPort) : (s.setFabric i x).poison = s.poison := rfl
@[simp] theorem State.setFabric_ecc (s : State) (i : Nat) (x : FabricPort) : (s.setFabric i x).ecc = s.ecc := rfl
@[simp] theorem State.setFabric_slice (s : State) (i : Nat) (x : FabricPort) : (s.setFabric i x).slice = s.slice := rfl
@[simp] theorem State.setFabric_cores (s : State) (i : Nat) (x : FabricPort) : (s.setFabric i x).cores = s.cores := rfl
@[simp] theorem State.setFabric_slots (s : State) (i : Nat) (x : FabricPort) : (s.setFabric i x).slots = s.slots := rfl
@[simp] theorem State.setFabric_clusters (s : State) (i : Nat) (x : FabricPort) : (s.setFabric i x).clusters = s.clusters := rfl
@[simp] theorem State.setFabric_groups (s : State) (i : Nat) (x : FabricPort) : (s.setFabric i x).groups = s.groups := rfl
@[simp] theorem State.setFabric_wgs (s : State) (i : Nat) (x : FabricPort) : (s.setFabric i x).wgs = s.wgs := rfl
@[simp] theorem State.setFabric_ctxs (s : State) (i : Nat) (x : FabricPort) : (s.setFabric i x).ctxs = s.ctxs := rfl
@[simp] theorem State.setFabric_launches (s : State) (i : Nat) (x : FabricPort) : (s.setFabric i x).launches = s.launches := rfl
@[simp] theorem State.setFabric_saved (s : State) (i : Nat) (x : FabricPort) : (s.setFabric i x).saved = s.saved := rfl
@[simp] theorem State.setFabric_served (s : State) (i : Nat) (x : FabricPort) : (s.setFabric i x).served = s.served := rfl
@[simp] theorem State.setFabric_waiters (s : State) (i : Nat) (x : FabricPort) : (s.setFabric i x).waiters = s.waiters := rfl
@[simp] theorem State.setFabric_enqs (s : State) (i : Nat) (x : FabricPort) : (s.setFabric i x).enqs = s.enqs := rfl
@[simp] theorem State.setFabric_arrivals (s : State) (i : Nat) (x : FabricPort) : (s.setFabric i x).arrivals = s.arrivals := rfl
@[simp] theorem State.setFabric_xchgs (s : State) (i : Nat) (x : FabricPort) : (s.setFabric i x).xchgs = s.xchgs := rfl
@[simp] theorem State.setFabric_searches (s : State) (i : Nat) (x : FabricPort) : (s.setFabric i x).searches = s.searches := rfl
@[simp] theorem State.setFabric_walkers (s : State) (i : Nat) (x : FabricPort) : (s.setFabric i x).walkers = s.walkers := rfl
@[simp] theorem State.setFabric_msgs (s : State) (i : Nat) (x : FabricPort) : (s.setFabric i x).msgs = s.msgs := rfl
@[simp] theorem State.setFabric_stops (s : State) (i : Nat) (x : FabricPort) : (s.setFabric i x).stops = s.stops := rfl
@[simp] theorem State.setFabric_cacheWait (s : State) (i : Nat) (x : FabricPort) : (s.setFabric i x).cacheWait = s.cacheWait := rfl
@[simp] theorem State.setFabric_inEffect (s : State) (i : Nat) (x : FabricPort) : (s.setFabric i x).inEffect = s.inEffect := rfl
@[simp] theorem State.setFabric_handles (s : State) (i : Nat) (x : FabricPort) : (s.setFabric i x).handles = s.handles := rfl
@[simp] theorem State.setFabric_admissions (s : State) (i : Nat) (x : FabricPort) : (s.setFabric i x).admissions = s.admissions := rfl
@[simp] theorem State.setFabric_lastWalker (s : State) (i : Nat) (x : FabricPort) : (s.setFabric i x).lastWalker = s.lastWalker := rfl
@[simp] theorem State.setFabric_walkedAt (s : State) (i : Nat) (x : FabricPort) : (s.setFabric i x).walkedAt = s.walkedAt := rfl
@[simp] theorem State.setFabric_bankErr (s : State) (i : Nat) (x : FabricPort) : (s.setFabric i x).bankErr = s.bankErr := rfl
@[simp] theorem State.setFabric_baseDie (s : State) (i : Nat) (x : FabricPort) : (s.setFabric i x).baseDie = s.baseDie := rfl
@[simp] theorem State.setFabric_repaired (s : State) (i : Nat) (x : FabricPort) : (s.setFabric i x).repaired = s.repaired := rfl
@[simp] theorem State.setFabric_retire (s : State) (i : Nat) (x : FabricPort) : (s.setFabric i x).retire = s.retire := rfl
@[simp] theorem State.setFabric_retired (s : State) (i : Nat) (x : FabricPort) : (s.setFabric i x).retired = s.retired := rfl
@[simp] theorem State.setFabric_populated (s : State) (i : Nat) (x : FabricPort) : (s.setFabric i x).populated = s.populated := rfl
@[simp] theorem State.setFabric_device (s : State) (i : Nat) (x : FabricPort) : (s.setFabric i x).device = s.device := rfl
@[simp] theorem State.setFabric_owner (s : State) (i : Nat) (x : FabricPort) : (s.setFabric i x).owner = s.owner := rfl
@[simp] theorem State.setFabric_mgmtList (s : State) (i : Nat) (x : FabricPort) : (s.setFabric i x).mgmtList = s.mgmtList := rfl
@[simp] theorem State.setFabric_mac0 (s : State) (i : Nat) (x : FabricPort) : (s.setFabric i x).mac0 = s.mac0 := rfl
@[simp] theorem State.setFabric_mac1 (s : State) (i : Nat) (x : FabricPort) : (s.setFabric i x).mac1 = s.mac1 := rfl
@[simp] theorem State.setFabric_ip0 (s : State) (i : Nat) (x : FabricPort) : (s.setFabric i x).ip0 = s.ip0 := rfl
@[simp] theorem State.setFabric_ip1 (s : State) (i : Nat) (x : FabricPort) : (s.setFabric i x).ip1 = s.ip1 := rfl
@[simp] theorem State.setFabric_pageCount (s : State) (i : Nat) (x : FabricPort) : (s.setFabric i x).pageCount = s.pageCount := rfl
@[simp] theorem State.setFabric_pageLeaf (s : State) (i : Nat) (x : FabricPort) : (s.setFabric i x).pageLeaf = s.pageLeaf := rfl
@[simp] theorem State.setFabric_pageShared (s : State) (i : Nat) (x : FabricPort) : (s.setFabric i x).pageShared = s.pageShared := rfl
@[simp] theorem State.setFabric_pageCtx (s : State) (i : Nat) (x : FabricPort) : (s.setFabric i x).pageCtx = s.pageCtx := rfl
@[simp] theorem State.setFabric_promote (s : State) (i : Nat) (x : FabricPort) : (s.setFabric i x).promote = s.promote := rfl
@[simp] theorem State.setFabric_busy (s : State) (i : Nat) (x : FabricPort) : (s.setFabric i x).busy = s.busy := rfl
@[simp] theorem State.setFabric_moves (s : State) (i : Nat) (x : FabricPort) : (s.setFabric i x).moves = s.moves := rfl
@[simp] theorem State.setFabric_net (s : State) (i : Nat) (x : FabricPort) : (s.setFabric i x).net = s.net := rfl
@[simp] theorem State.setFabric_outbox (s : State) (i : Nat) (x : FabricPort) : (s.setFabric i x).outbox = s.outbox := rfl
@[simp] theorem State.setFabric_rdmaOut (s : State) (i : Nat) (x : FabricPort) : (s.setFabric i x).rdmaOut = s.rdmaOut := rfl
@[simp] theorem State.setFabric_qpError (s : State) (i : Nat) (x : FabricPort) : (s.setFabric i x).qpError = s.qpError := rfl
@[simp] theorem State.setFabric_psns (s : State) (i : Nat) (x : FabricPort) : (s.setFabric i x).psns = s.psns := rfl
@[simp] theorem State.setFabric_frames (s : State) (i : Nat) (x : FabricPort) : (s.setFabric i x).frames = s.frames := rfl
@[simp] theorem State.setFabric_waybillsDropped (s : State) (i : Nat) (x : FabricPort) : (s.setFabric i x).waybillsDropped = s.waybillsDropped := rfl
@[simp] theorem State.setFabric_links (s : State) (i : Nat) (x : FabricPort) : (s.setFabric i x).links = s.links := rfl
@[simp] theorem State.setFabric_ports (s : State) (i : Nat) (x : FabricPort) : (s.setFabric i x).ports = s.ports.put i x := rfl
@[simp] theorem State.setFabric_power (s : State) (i : Nat) (x : FabricPort) : (s.setFabric i x).power = s.power := rfl
@[simp] theorem State.setFabric_mgmt (s : State) (i : Nat) (x : FabricPort) : (s.setFabric i x).mgmt = s.mgmt := rfl

end Sys2Proof.Machine
end

