-- ==== Sys2Proof/Laws/Issue.lean ====
section
/-! SUPPORT. What the numbered parts read as after an update, and what the issue of one instruction can do: under `Quiet`
and `Ready` it is the instruction's effect and nothing before it. -/

namespace Sys2Proof.Machine

/-! ### Numbered parts -/

@[simp] theorem State.group_setGroup_same (s : State) (i : Nat) (g : Group) : (s.setGroup i g).group i = g :=
  Tab.get_put_same _ _ _ _
theorem State.group_setGroup_ne (s : State) {i j : Nat} (g : Group) (h : j ≠ i) :
    (s.setGroup i g).group j = s.group j := Tab.get_put_ne _ _ _ h
@[simp] theorem State.slot_setSlot_same (s : State) (i : Nat) (x : Slot) : (s.setSlot i x).slot i = x :=
  Tab.get_put_same _ _ _ _
theorem State.slot_setSlot_ne (s : State) {i j : Nat} (x : Slot) (h : j ≠ i) :
    (s.setSlot i x).slot j = s.slot j := Tab.get_put_ne _ _ _ h
@[simp] theorem State.wg_setWg_same (s : State) (i : Nat) (x : Workgroup) : (s.setWg i x).wg i = x :=
  Tab.get_put_same _ _ _ _
theorem State.wg_setWg_ne (s : State) {i j : Nat} (x : Workgroup) (h : j ≠ i) :
    (s.setWg i x).wg j = s.wg j := Tab.get_put_ne _ _ _ h

@[simp] theorem State.slot_setGroup (s : State) (i : Nat) (g : Group) (k : Nat) : (s.setGroup i g).slot k = s.slot k := rfl
@[simp] theorem State.wg_setGroup (s : State) (i : Nat) (g : Group) (k : Nat) : (s.setGroup i g).wg k = s.wg k := rfl
@[simp] theorem State.ctx_setGroup (s : State) (i : Nat) (g : Group) (k : Nat) : (s.setGroup i g).ctx k = s.ctx k := rfl
@[simp] theorem State.group_setSlot (s : State) (i : Nat) (x : Slot) (k : Nat) : (s.setSlot i x).group k = s.group k := rfl
@[simp] theorem State.wg_setSlot (s : State) (i : Nat) (x : Slot) (k : Nat) : (s.setSlot i x).wg k = s.wg k := rfl
@[simp] theorem State.ctx_setSlot (s : State) (i : Nat) (x : Slot) (k : Nat) : (s.setSlot i x).ctx k = s.ctx k := rfl
@[simp] theorem State.group_setWg (s : State) (i : Nat) (x : Workgroup) (k : Nat) : (s.setWg i x).group k = s.group k := rfl
@[simp] theorem State.slot_setWg (s : State) (i : Nat) (x : Workgroup) (k : Nat) : (s.setWg i x).slot k = s.slot k := rfl
@[simp] theorem State.ctx_setWg (s : State) (i : Nat) (x : Workgroup) (k : Nat) : (s.setWg i x).ctx k = s.ctx k := rfl

@[simp] theorem Group.split_setSplit_same (g : Group) (i : Nat) (x : Split) : (g.setSplit i x).split i = x :=
  Tab.get_put_same _ _ _ _
theorem Group.split_setSplit_ne (g : Group) {i j : Nat} (x : Split) (h : j ≠ i) :
    (g.setSplit i x).split j = g.split j := Tab.get_put_ne _ _ _ h

/-! ### Before the effect -/

/-- Settling changes the flags and the list of results not yet readable, nothing else. -/
theorem Group.settle_eq (g : Group) (now : Nat) :
    g.settle now = { g with fpflags := (g.settle now).fpflags, fresh := (g.settle now).fresh } := by
  simp [Group.settle, Group.orFlags]

/-- With nothing left to become readable, a group sees its registers as they are. -/
theorem Group.view_nil (g : Group) (now sid free : Nat) (h : g.fresh = []) : g.view now sid free = g := by
  simp [Group.view, h]

theorem lowestSub_zero (l : List Nat) (h : ∀ c ∈ l, c = 0) : lowestSub l = 0 := by
  induction l with
  | nil => rfl
  | cons c l ih =>
    have hc := h c (List.mem_cons_self ..)
    simp [lowestSub, hc, ih (fun d hd => h d (List.mem_cons_of_mem _ hd))]

/-- The running instruction of a split under `Quiet`. -/
def State.runOf (s : State) (op : Op) (gid sid : Nat) : Run :=
  let x := (s.group gid).split sid
  let pm := (s.calm gid).pred op.gp
  ⟨gid, sid, x.pc, op.size, op.lit, x.mask &&& (if op.gn then ~~~pm else pm), x.mask, s.calm gid, op.stall, fun g _ => g, op.own⟩

/-- Everything the issue of an operation needs, by its own tests: none intervenes. -/
structure Clear (s : State) (op : Op) (gid sid : Nat) : Prop where
  sub : (s.calmed gid).subOf op gid sid = 0
  priv : op.priv = false
  score : op.score ≤ 64
  memory : op.memory = true → s.permitted gid = true
  lanes : (s.runOf op gid sid).eff ≠ 0
  check : op.check (s.calmed gid) (s.runOf op gid sid) = .ok
  deferred : op.deferred (s.calmed gid) (s.runOf op gid sid) = none
  full : ∀ i ∈ op.portsIn, s.portFull gid i = true
  empty : ∀ i ∈ op.portsOut, s.portEmpty gid i = true
  order : (s.calmed gid).portsOrdered gid sid (op.portsIn ++ op.portsOut) = true
  held : op.held (s.calmed gid) (s.runOf op gid sid) = none

theorem State.calm_split (s : State) (gid sid : Nat) : (s.calm gid).split sid = (s.group gid).split sid := rfl
theorem State.calm_port (s : State) (gid i : Nat) : (s.calm gid).port i = (s.group gid).port i := rfl

/-- With nothing left to become readable, every lane sees the registers as they are. -/
theorem State.seen_nil (s : State) (gid : Nat) (h : (s.group gid).fresh = []) : s.seen gid = fun g _ => g := by
  unfold State.seen
  split
  · simp [h]
  · rfl

theorem State.portFull_calmed (s : State) (gid i : Nat) : (s.calmed gid).portFull gid i = s.portFull gid i := by
  simp [State.portFull, State.calmed, State.calm_port, State.wgOf]
  rfl

theorem State.portEmpty_calmed (s : State) (gid i : Nat) : (s.calmed gid).portEmpty gid i = s.portEmpty gid i := by
  simp [State.portEmpty, State.calmed, State.calm_port, State.wgOf]
  rfl

theorem State.permitted_calmed (s : State) (gid : Nat) : (s.calmed gid).permitted gid = s.permitted gid := rfl

/-- WHAT AN ISSUE IS when nothing intervenes: the effect. -/
theorem State.issueSplit_clear (s : State) (op : Op) (gid sid : Nat) (q : Quiet s gid sid) (c : Clear s op gid sid) :
    s.issueSplit op gid sid = (s.calmed gid).effect op (s.runOf op gid sid)
      (fun s r => (op.act s r).popPorts r.gid op.portsIn) := by
  have hf : (s.calm gid).fresh = [] := q.fresh
  have hp : (s.calm gid).pending = [] := q.pending
  have hd : (s.calm gid).deferred = [] := q.deferred
  have hsc : ∀ k, (s.calm gid).scored k = false := by intro k; simp [Group.scored, hp]
  have hun : ∀ k, (s.calm gid).unreadable s.cycle k = false := by intro k; simp [Group.unreadable, hf]
  have hsh : ∀ k, (s.calm gid).shortRead s.cycle sid k = false := by intro k; simp [Group.shortRead, hf]
  have hcount : (s.calm gid).scoreCount = 0 := by simp [Group.scoreCount, hp]
  have hb : (if (((s.calm gid).split sid).skips.contains ((s.calm gid).split sid).pc ||
        (s.ctx (s.calm gid).ctx).stepReq.isSome) = true then none
      else (s.ctx (s.calm gid).ctx).matchBp ((s.calm gid).split sid).pc) = none := by
    rcases q.noBreak with h | h
    · exact if_pos (by rw [State.calm_split, h]; rfl)
    · split
      · rfl
      · exact h
  have hq : ¬ 4 < (s.calm gid).traps.length := Nat.not_lt.mpr q.queue
  have hview := fun n => Group.view_nil (s.calm gid) s.cycle sid n hf
  have hl := c.lanes
  have hmem : (op.memory && !(s.calmed gid).permitted gid) = false := by
    rw [State.permitted_calmed]
    cases hm : op.memory with
    | false => rfl
    | true => simp [c.memory hm]
  have hscore : ¬ 64 < op.score := Nat.not_lt.mpr c.score
  have hfull : op.portsIn.all (fun i => (s.calmed gid).portFull gid i) = true := by
    simp only [List.all_eq_true]
    intro i hi
    rw [State.portFull_calmed]
    exact c.full i hi
  have hempty : op.portsOut.all (fun i => (s.calmed gid).portEmpty gid i) = true := by
    simp only [List.all_eq_true]
    intro i hi
    rw [State.portEmpty_calmed]
    exact c.empty i hi
  have hord : (s.calmed gid).portsOrdered gid sid (op.portsIn ++ op.portsOut) = true := c.order
  have hgrp : (s.calmed gid).group gid = s.calm gid := by simp [State.calmed]
  have hcyc : (s.calmed gid).cycle = s.cycle := rfl
  have hctx : (s.calmed gid).ctx = s.ctx := rfl
  have hseen : (s.calmed gid).seen gid = fun g _ => g := State.seen_nil _ _ (by rw [hgrp]; exact hf)
  unfold State.issueSplit
  simp only [show s.setGroup gid ((s.group gid).settle s.cycle) = s.calmed gid from rfl, hgrp, hcyc, hctx]
  rw [hb]
  simp only [c.sub, c.priv, hmem, hview, hseen, hsc, hun, hcount, ne_eq, not_true_eq_false, if_false, Bool.false_eq_true,
    List.any_eq_true, Bool.or_eq_true, exists_const, and_false, false_or, Nat.zero_add, decide_eq_true_eq, hscore]
  refine (if_neg hl).trans ?_
  have hck : op.check (s.calmed gid) (s.runOf op gid sid) = .ok := c.check
  have hr : (⟨gid, sid, ((s.calm gid).split sid).pc, op.size, op.lit, ((s.calm gid).split sid).mask &&&
      (if op.gn = true then ~~~(s.calm gid).pred op.gp else (s.calm gid).pred op.gp),
      ((s.calm gid).split sid).mask, s.calm gid, op.stall, fun g _ => g, op.own⟩ : Run) = s.runOf op gid sid := rfl
  rw [hr, hck]
  simp only
  unfold State.issueTail
  have h1 : (s.runOf op gid sid).gid = gid := rfl
  have h2 : (s.runOf op gid sid).sid = sid := rfl
  have h3 : (s.runOf op gid sid).g = s.calm gid := rfl
  have hany : ∀ l : List Nat, l.any ((s.calm gid).shortRead s.cycle sid) = false := by
    intro l; simp [hsh]
  have hred : ∀ p, (s.calm gid).redTrap p = none := by
    intro p; rw [Group.redTrap, hd]; rfl
  have hpush : (if op.portsOut.any (2 ≤ ·) then (s.calm gid).redTrap (· = 0) else none) = none := by
    rw [hred]; exact ite_self none
  simp only [hany, Bool.false_and, Bool.false_eq_true, if_false, h1, h2, h3, hgrp, hd, List.find?_nil, c.deferred,
    hpush, hfull, hempty, hord, Bool.not_true, Bool.or_self, c.held, ite_self]
  refine (ite_self (State.proceed op (s.runOf op gid sid) (s.calmed gid))).trans ?_
  unfold State.proceed
  rw [c.held]

end Sys2Proof.Machine
end

