-- ==== Sys2Proof/Laws/Registers.lean ====
section
/-! SUPPORT. What a result written in some lanes does to every register (R45, R47), and what a push and a pop do to the
ports and the scratchpad (R169). -/

namespace Sys2Proof.Machine

theorem mem_lanesOf {m : Mask} {i : Nat} : i ∈ lanesOf m ↔ i < 32 ∧ Mask.has m i = true := by
  simp [lanesOf]

theorem nodup_lanesOf (m : Mask) : (lanesOf m).Nodup := List.Nodup.sublist (List.filter_sublist ..) List.nodup_range

/-- A table written lane by lane. -/
theorem get_foldl_set {β : Type} [DecidableEq β] (d : β) (l : List (Nat × DWord)) (n : Nat) (f : DWord → β) (t : Tab β)
    (m lane : Nat) (hl : ∀ e ∈ l, e.1 < 32) (hlane : lane < 32) :
    (l.foldl (fun t e => t.set d (n * 32 + e.1) (f e.2)) t).get d (m * 32 + lane) =
      match l.reverse.find? (fun e => decide (m = n) && decide (e.1 = lane)) with
      | some e => f e.2
      | none => t.get d (m * 32 + lane) := by
  induction l generalizing t with
  | nil => rfl
  | cons e l ih =>
    rw [List.foldl_cons, ih _ (fun x hx => hl x (List.mem_cons_of_mem _ hx))]
    have he := hl e (List.mem_cons_self ..)
    simp only [List.reverse_cons, List.find?_append]
    cases hfind : l.reverse.find? (fun e => decide (m = n) && decide (e.1 = lane)) with
    | some x => simp
    | none =>
      simp only [Option.none_or]
      by_cases h : m = n ∧ e.1 = lane
      · obtain ⟨rfl, rfl⟩ := h
        simp
      · have hne : m * 32 + lane ≠ n * 32 + e.1 := by
          intro hc
          apply h
          constructor <;> omega
        have hb : (decide (m = n) && decide (e.1 = lane)) = false := by
          simp only [Bool.and_eq_false_iff, decide_eq_false_iff_not]
          by_cases hm : m = n
          · exact Or.inr (fun hc => h ⟨hm, hc⟩)
          · exact Or.inl hm
        simp [hb, Tab.get_set_ne d t (f e.2) hne]

/-- The values of a result by lane. -/
def laneList (eff : Mask) (v : Nat → DWord) : List (Nat × DWord) := (lanesOf eff).map (fun i => (i, v i))

theorem laneList_lt (eff : Mask) (v : Nat → DWord) : ∀ e ∈ laneList eff v, e.1 < 32 := by
  intro e he
  simp only [laneList, List.mem_map] at he
  obtain ⟨i, hi, rfl⟩ := he
  exact (mem_lanesOf.mp hi).1

theorem find_laneList (eff : Mask) (v : Nat → DWord) (c : Bool) (lane : Nat) (hlane : lane < 32) :
    (laneList eff v).reverse.find? (fun e => c && decide (e.1 = lane)) =
      if c = true ∧ Mask.has eff lane = true then some (lane, v lane) else none := by
  cases hf : (laneList eff v).reverse.find? (fun e => c && decide (e.1 = lane)) with
  | none =>
    rw [if_neg]
    rintro ⟨rfl, hm⟩
    have := List.find?_eq_none.mp hf (lane, v lane) (by
      simp only [laneList, List.mem_reverse, List.mem_map]
      exact ⟨lane, mem_lanesOf.mpr ⟨hlane, hm⟩, rfl⟩)
    simp at this
  | some e =>
    have h1 := List.find?_some hf
    have h2 := List.mem_of_find?_eq_some hf
    simp only [Bool.and_eq_true, decide_eq_true_eq] at h1
    simp only [laneList, List.mem_reverse, List.mem_map] at h2
    obtain ⟨i, hi, rfl⟩ := h2
    obtain ⟨hc, rfl⟩ := h1
    rw [if_pos ⟨hc, (mem_lanesOf.mp hi).2⟩]

/-- One row, or one o register, written in the effective lanes. -/
theorem get_write_lanes {β : Type} [DecidableEq β] (d : β) (eff : Mask) (v : Nat → DWord) (n : Nat) (f : DWord → β)
    (t : Tab β) (m lane : Nat) (hlane : lane < 32) :
    ((laneList eff v).foldl (fun t e => t.set d (n * 32 + e.1) (f e.2)) t).get d (m * 32 + lane) =
      if m = n ∧ Mask.has eff lane = true then f (v lane) else t.get d (m * 32 + lane) := by
  rw [get_foldl_set d _ n f t m lane (laneList_lt eff v) hlane, find_laneList eff v (decide (m = n)) lane hlane]
  by_cases h : m = n ∧ Mask.has eff lane = true
  · rw [if_pos ⟨by simpa using h.1, h.2⟩, if_pos h]
  · rw [if_neg (fun hc => h ⟨by simpa using hc.1, hc.2⟩), if_neg h]

/-- Two registers written in the effective lanes, the second after the first in each lane. -/
theorem get_write_pair {β : Type} [DecidableEq β] (d : β) (eff : Mask) (v : Nat → DWord) (n k : Nat) (f h : DWord → β)
    (t : Tab β) (m lane : Nat) (hlane : lane < 32) :
    ((laneList eff v).foldl (fun t e => (t.set d (n * 32 + e.1) (f e.2)).set d (k * 32 + e.1) (h e.2)) t).get d
        (m * 32 + lane) =
      if m = k ∧ Mask.has eff lane = true then h (v lane)
      else if m = n ∧ Mask.has eff lane = true then f (v lane) else t.get d (m * 32 + lane) := by
  suffices H : ∀ (l : List Nat) (t : Tab β), (∀ i ∈ l, i < 32) →
      ((l.map (fun i => (i, v i))).foldl
        (fun t e => (t.set d (n * 32 + e.1) (f e.2)).set d (k * 32 + e.1) (h e.2)) t).get d (m * 32 + lane) =
      if m = k ∧ lane ∈ l then h (v lane) else if m = n ∧ lane ∈ l then f (v lane) else t.get d (m * 32 + lane) by
    have := H (lanesOf eff) t (fun i hi => (mem_lanesOf.mp hi).1)
    simpa [laneList, mem_lanesOf, hlane] using this
  intro l
  induction l with
  | nil => intro t _; simp
  | cons i l ih =>
    intro t hl
    rw [List.map_cons, List.foldl_cons, ih _ (fun x hx => hl x (List.mem_cons_of_mem _ hx))]
    have hi := hl i (List.mem_cons_self ..)
    rw [Tab.get_set, Tab.get_set]
    by_cases hli : lane = i
    · subst hli
      have hk : (m * 32 + lane = k * 32 + lane) = (m = k) := by simp only [eq_iff_iff]; omega
      have hn : (m * 32 + lane = n * 32 + lane) = (m = n) := by simp only [eq_iff_iff]; omega
      simp only [hk, hn]
      clear hk hn ih
      by_cases hm : lane ∈ l <;> by_cases h1 : m = k <;> by_cases h2 : m = n <;>
        simp only [hm, h1, h2, List.mem_cons, true_or, and_self, and_true, and_false, if_true, if_false]
    · have h2 : ¬ m * 32 + lane = k * 32 + i := by omega
      have h4 : ¬ m * 32 + lane = n * 32 + i := by omega
      simp [h2, h4, hli]

/-! ### The group after a result -/

theorem foldl_rows (r : Nat) (p n : Nat) (l : List (Nat × DWord)) (g : Group) :
    l.foldl (fun g e => writeTarget g (.v r p n) e.1 e.2) g =
      { g with rows := l.foldl (fun t e => t.set 0 (r * 32 + e.1) (half e.2 0)) g.rows } := by
  induction l generalizing g with
  | nil => rfl
  | cons e l ih => simp only [List.foldl_cons, ih]; rfl

theorem foldl_rows2 (r r2 p p2 n n2 : Nat) (l : List (Nat × DWord)) (g : Group) :
    l.foldl (fun g e => writeTarget g (.vPair r r2 p p2 n n2) e.1 e.2) g =
      { g with rows := l.foldl (fun t e =>
          (t.set 0 (r * 32 + e.1) (half e.2 0)).set 0 (r2 * 32 + e.1) (half e.2 1)) g.rows } := by
  induction l generalizing g with
  | nil => rfl
  | cons e l ih => simp only [List.foldl_cons, ih]; rfl

theorem foldl_o (i : Nat) (l : List (Nat × DWord)) (g : Group) :
    l.foldl (fun g e => writeTarget g (.o i false) e.1 e.2) g =
      { g with o := l.foldl (fun t e => t.set 0 (i * 32 + e.1) (half e.2 0)) g.o } := by
  induction l generalizing g with
  | nil => rfl
  | cons e l ih => simp only [List.foldl_cons, ih]; rfl

theorem foldl_o2 (i : Nat) (l : List (Nat × DWord)) (g : Group) :
    l.foldl (fun g e => writeTarget g (.o i true) e.1 e.2) g =
      { g with o := l.foldl (fun t e =>
          (t.set 0 (i * 32 + e.1) (half e.2 0)).set 0 ((i + 1) * 32 + e.1) (half e.2 1)) g.o } := by
  induction l generalizing g with
  | nil => rfl
  | cons e l ih => simp only [List.foldl_cons, ih]; rfl

theorem foldl_none (t : Target) (ht : t = .none ∨ ∃ i, t = .port i) (l : List (Nat × DWord)) (g : Group) :
    l.foldl (fun g e => writeTarget g t e.1 e.2) g = g := by
  induction l generalizing g with
  | nil => rfl
  | cons e l ih =>
    rw [List.foldl_cons, ih]
    rcases ht with rfl | ⟨i, rfl⟩ <;> rfl

theorem has_bit (lane k : Nat) (h : k < 32) : ((1#32 <<< lane : Mask)).getLsbD k = decide (k = lane) := by
  rw [BitVec.getLsbD_shiftLeft]
  by_cases hk : k = lane
  · subst hk; simp [h]
  · simp [h, hk, BitVec.getLsbD_one]
    omega

theorem has_set_bit (m : Mask) (a k : Nat) (h : k < 32) :
    Mask.has (m ||| 1#32 <<< a) k = (Mask.has m k || decide (k = a)) := by
  rw [Mask.has, BitVec.getLsbD_or, has_bit a k h]

theorem has_clear_bit (m : Mask) (a k : Nat) (h : k < 32) :
    Mask.has (m &&& ~~~(1#32 <<< a)) k = (Mask.has m k && !decide (k = a)) := by
  rw [Mask.has, BitVec.getLsbD_and, BitVec.getLsbD_not, has_bit a k h]
  simp [h]

/-- A predicate written in the effective lanes. -/
theorem foldl_p (i : Nat) (hi : i ≠ 0) (l : List Nat) (v : Nat → DWord) (g : Group) :
    ∃ p, (l.map (fun k => (k, v k))).foldl (fun g e => writeTarget g (.p i) e.1 e.2) g = { g with p := p } ∧
      (∀ n, n ≠ i → p.get 0 n = g.p.get 0 n) ∧
      ∀ k, k < 32 → Mask.has (p.get 0 i) k = if k ∈ l then decide (v k ≠ 0) else Mask.has (g.p.get 0 i) k := by
  induction l generalizing g with
  | nil => exact ⟨g.p, rfl, fun _ _ => rfl, fun k _ => by simp⟩
  | cons a l ih =>
    rw [List.map_cons, List.foldl_cons]
    obtain ⟨p, hp, hne, hk⟩ := ih (writeTarget g (.p i) a (v a))
    refine ⟨p, ?_, ?_, ?_⟩
    · rw [hp]; simp [writeTarget, hi]
    · intro n hn
      rw [hne n hn]
      simp [writeTarget, hi, Tab.get_set_ne _ _ _ hn]
    · intro k hk32
      rw [hk k hk32]
      by_cases hkl : k ∈ l
      · simp [hkl]
      · simp only [hkl, if_false, List.mem_cons, or_false, writeTarget, hi, Tab.get_set_same]
        by_cases hv : v a = 0
        · rw [if_pos hv, has_clear_bit _ _ _ hk32]
          by_cases hka : k = a
          · subst hka; simp [hv]
          · simp [hka]
        · rw [if_neg hv, has_set_bit _ _ _ hk32]
          by_cases hka : k = a
          · subst hka; simpa using hv
          · simp [hka]

/-- The latches after a result. -/
theorem shiftLatches_get (g : Group) (eff : Mask) (v : Nat → DWord) (lane : Nat) (h : lane < 32) :
    (shiftLatches g (laneList eff v)).l.get 0 lane =
        (if Mask.has eff lane = true then half (v lane) 0 else g.l.get 0 lane) ∧
      (shiftLatches g (laneList eff v)).l.get 0 (32 + lane) =
        (if Mask.has eff lane = true then g.l.get 0 lane else g.l.get 0 (32 + lane)) := by
  suffices H : ∀ (l : List Nat) (t : Tab Word), l.Nodup → (∀ i ∈ l, i < 32) →
      let u := (l.map (fun i => (i, v i))).foldl
        (fun (t : Tab Word) (e : Nat × DWord) => (t.set 0 (32 + e.1) (t.get 0 e.1)).set 0 e.1 (e.2.extractLsb 31 0)) t
      u.get 0 lane = (if lane ∈ l then half (v lane) 0 else t.get 0 lane) ∧
      u.get 0 (32 + lane) = (if lane ∈ l then t.get 0 lane else t.get 0 (32 + lane)) by
    have := H (lanesOf eff) g.l (nodup_lanesOf eff) (fun i hi => (mem_lanesOf.mp hi).1)
    simpa [laneList, mem_lanesOf, h, shiftLatches] using this
  intro l
  induction l with
  | nil => intro t _ _; simp
  | cons i l ih =>
    intro t hn hl
    have hi := hl i (List.mem_cons_self ..)
    obtain ⟨hnot, hn⟩ := List.nodup_cons.mp hn
    have := ih ((t.set 0 (32 + i) (t.get 0 i)).set 0 i ((v i).extractLsb 31 0)) hn
      (fun x hx => hl x (List.mem_cons_of_mem _ hx))
    simp only [List.map_cons, List.foldl_cons]
    refine ⟨this.1.trans ?_, this.2.trans ?_⟩
    · by_cases hli : lane = i
      · subst hli; simp [hnot, half]
      · have h1 : ¬ lane = 32 + i := by omega
        simp [hli, Tab.get_set, h1]
    · by_cases hli : lane = i
      · subst hli
        simp [hnot, Tab.get_set]
      · have h1 : ¬ 32 + lane = i := by omega
        have h3 : ¬ lane = 32 + i := by omega
        simp [hli, Tab.get_set, h1, h3]

end Sys2Proof.Machine
end

