-- ==== Sys2Proof/Laws/Fixed.lean ====
section
/-! SUPPORT. An instruction of fixed latency: under `Quiet`, `Ready` and its own conditions its issue leaves exactly what
`Done` says. -/

namespace Sys2Proof.Machine

/-- The registers of a group after a result. -/
structure RegVals (g h : Group) (d : Dst) (wide : Bool) (eff : Mask) (v : Nat → DWord) : Prop where
  rest : h = { g with rows := h.rows, o := h.o, l := h.l, p := h.p, g := h.g }
  rows : ∀ n lane, lane < 32 → n ∉ rowsNamed g d wide → h.rows.get 0 (n * 32 + lane) = g.rows.get 0 (n * 32 + lane)
  rowTop : d.cls = .v → ∀ lane, lane < 32 →
    h.rows.get 0 (g.row (d.idx.toNat + (if wide then 1 else 0)) * 32 + lane) =
      if Mask.has eff lane then half (v lane) (if wide then 1 else 0)
      else g.rows.get 0 (g.row (d.idx.toNat + (if wide then 1 else 0)) * 32 + lane)
  rowLow : d.cls = .v → wide = true → g.row d.idx.toNat ≠ g.row (d.idx.toNat + 1) →
    ∀ lane, lane < 32 → h.rows.get 0 (g.row d.idx.toNat * 32 + lane) =
      if Mask.has eff lane then half (v lane) 0 else g.rows.get 0 (g.row d.idx.toNat * 32 + lane)
  o : ∀ n lane, lane < 32 → h.o.get 0 (n * 32 + lane) =
    if n ∈ oNamed d wide ∧ Mask.has eff lane then half (v lane) (n - d.idx.toNat) else g.o.get 0 (n * 32 + lane)
  uni : ∀ n, h.gReg n = if d.cls = .g ∧ n = d.idx.toNat then v (lowLane eff) else g.gReg n
  pr : ∀ n lane, lane < 32 → Mask.has (h.pred n) lane =
    if d.cls = .p ∧ n = d.idx.toNat ∧ n ≠ 0 ∧ Mask.has eff lane then decide (v lane ≠ 0) else Mask.has (g.pred n) lane
  l0 : ∀ lane, lane < 32 → h.l.get 0 lane =
    if Mask.has eff lane then half (v (if d.cls = .g then lowLane eff else lane)) 0 else g.l.get 0 lane
  l1 : ∀ lane, lane < 32 → h.l.get 0 (32 + lane) =
    if Mask.has eff lane then g.l.get 0 lane else g.l.get 0 (32 + lane)

theorem RegVals.of_keep (g h : Group) (d : Dst) (wide : Bool) (eff : Mask) (v : Nat → DWord)
    (hc : d.cls ≠ .v) (hg : d.cls ≠ .g)
    (rest : h = { g with o := h.o, p := h.p })
    (o : ∀ n lane, lane < 32 → h.o.get 0 (n * 32 + lane) =
      if n ∈ oNamed d wide ∧ Mask.has eff lane then half (v lane) (n - d.idx.toNat) else g.o.get 0 (n * 32 + lane))
    (p : ∀ n lane, lane < 32 → Mask.has (h.pred n) lane =
      if d.cls = .p ∧ n = d.idx.toNat ∧ n ≠ 0 ∧ Mask.has eff lane then decide (v lane ≠ 0)
      else Mask.has (g.pred n) lane) :
    RegVals g (shiftLatches h (laneList eff v)) d wide eff v := by
  have hrows : h.rows = g.rows := by rw [rest]
  have hl : h.l = g.l := by rw [rest]
  have hgg : h.g = g.g := by rw [rest]
  refine ⟨?_, ?_, fun h => absurd h hc, fun h => absurd h hc, o, ?_, p, ?_, ?_⟩
  · simp only [shiftLatches]; rw [rest]
  · intro n lane _ _; simp only [shiftLatches]; rw [hrows]
  · intro n; simp only [shiftLatches, Group.gReg, hg, false_and, if_false]; rw [hgg]
  · intro lane hlane; rw [(shiftLatches_get h eff v lane hlane).1, if_neg hg, hl]
  · intro lane hlane; rw [(shiftLatches_get h eff v lane hlane).2, hl]

/-- The values a destination takes: a g register, and the latches beside it, the lowest lane's. -/
def taken (t : Target) (vals : List (Nat × DWord)) : List (Nat × DWord) :=
  match t, vals with
  | .g _, (_, v) :: _ => vals.map (fun e => (e.1, v))
  | _, _ => vals

theorem lanesOf_ne_nil (eff : Mask) (h : eff ≠ 0) : lanesOf eff ≠ [] := by
  intro hn
  apply h
  apply BitVec.eq_of_getLsbD_eq
  intro i hi
  cases hb : eff.getLsbD i with
  | false => simp
  | true =>
    have : i ∈ lanesOf eff := mem_lanesOf.mpr ⟨hi, hb⟩
    rw [hn] at this
    cases this

theorem RegVals.write (g : Group) (gens : Tab Nat) (d : Dst) (wide : Bool) (eff : Mask) (v : Nat → DWord)
    (he : eff ≠ 0) (hc : d.cls = .v ∨ d.cls = .o ∨ d.cls = .g ∨ d.cls = .p ∨ d.cls = .port) :
    RegVals g (shiftLatches (writeLanes g (targetOf g gens d wide) (taken (targetOf g gens d wide) (laneList eff v)))
      (taken (targetOf g gens d wide) (laneList eff v))) d wide eff v := by
  have hpred : ∀ n, (g.pred n) = g.pred n := fun _ => rfl
  rcases hc with hc | hc | hc | hc | hc
  · -- v
    cases wide with
    | false =>
      have ht : targetOf g gens d false = .v (g.row d.idx.toNat) (g.phys.getD (g.row d.idx.toNat) 0)
          (gens.get 0 (g.phys.getD (g.row d.idx.toNat) 0)) := by simp [targetOf, hc]
      rw [ht]
      simp only [taken, writeLanes, foldl_rows]
      refine ⟨rfl, ?_, ?_, (fun _ h => by cases h), ?_, ?_, ?_, ?_, ?_⟩
      · intro n lane hlane hn
        simp only [shiftLatches]
        rw [get_write_lanes 0 eff v _ (fun x => half x 0) g.rows n lane hlane, if_neg]
        rintro ⟨rfl, _⟩
        exact hn (by simp [rowsNamed, hc])
      · intro _ lane hlane
        simp only [shiftLatches, if_false, Nat.add_zero, Bool.false_eq_true]
        rw [get_write_lanes 0 eff v _ (fun x => half x 0) g.rows _ lane hlane]
        simp
      · intro n lane _; simp [shiftLatches, oNamed, hc]
      · intro n; simp [shiftLatches, Group.gReg, hc]
      · intro n lane _; simp [shiftLatches, Group.pred, hc]
      · intro lane hlane; rw [(shiftLatches_get _ eff v lane hlane).1]; simp [hc]
      · intro lane hlane; rw [(shiftLatches_get _ eff v lane hlane).2]
    | true =>
      have ht : targetOf g gens d true = .vPair (g.row d.idx.toNat) (g.row (d.idx.toNat + 1))
          (g.phys.getD (g.row d.idx.toNat) 0) (g.phys.getD (g.row (d.idx.toNat + 1)) 0)
          (gens.get 0 (g.phys.getD (g.row d.idx.toNat) 0))
          (gens.get 0 (g.phys.getD (g.row (d.idx.toNat + 1)) 0)) := by simp [targetOf, hc]
      rw [ht]
      simp only [taken, writeLanes, foldl_rows2]
      have hpair := fun m lane hlane => get_write_pair 0 eff v (g.row d.idx.toNat) (g.row (d.idx.toNat + 1))
        (fun x => half x 0) (fun x => half x 1) g.rows m lane hlane
      refine ⟨rfl, ?_, ?_, ?_, ?_, ?_, ?_, ?_, ?_⟩
      · intro n lane hlane hn
        simp only [rowsNamed, hc, if_true, List.mem_cons, List.not_mem_nil, or_false, not_or] at hn
        simp only [shiftLatches]
        rw [hpair n lane hlane, if_neg (fun h => hn.2 h.1), if_neg (fun h => hn.1 h.1)]
      · intro _ lane hlane
        simp only [shiftLatches, if_true]
        rw [hpair _ lane hlane]
        by_cases hm : Mask.has eff lane = true <;> simp [hm]
      · intro _ _ hne lane hlane
        simp only [shiftLatches]
        rw [hpair _ lane hlane]
        by_cases hm : Mask.has eff lane = true <;> simp [hm, hne]
      · intro n lane _; simp [shiftLatches, oNamed, hc]
      · intro n; simp [shiftLatches, Group.gReg, hc]
      · intro n lane _; simp [shiftLatches, Group.pred, hc]
      · intro lane hlane; rw [(shiftLatches_get _ eff v lane hlane).1]; simp [hc]
      · intro lane hlane; rw [(shiftLatches_get _ eff v lane hlane).2]
  · -- o
    have ht : targetOf g gens d wide = .o d.idx.toNat wide := by simp [targetOf, hc]
    rw [ht]
    cases wide with
    | false =>
      simp only [taken, writeLanes, foldl_o]
      refine RegVals.of_keep g _ d false eff v (by simp [hc]) (by simp [hc]) rfl ?_ ?_
      · intro n lane hlane
        simp only
        rw [get_write_lanes 0 eff v _ (fun x => half x 0) g.o n lane hlane]
        by_cases hn : n = d.idx.toNat <;> simp [oNamed, hc, hn]
      · intro n lane _; simp [Group.pred, hc]
    | true =>
      simp only [taken, writeLanes, foldl_o2]
      refine RegVals.of_keep g _ d true eff v (by simp [hc]) (by simp [hc]) rfl ?_ ?_
      · intro n lane hlane
        simp only
        rw [get_write_pair 0 eff v _ _ (fun x => half x 0) (fun x => half x 1) g.o n lane hlane]
        by_cases hn : n = d.idx.toNat
        · subst hn; simp [oNamed, hc]
        · by_cases hn1 : n = d.idx.toNat + 1
          · subst hn1; simp [oNamed, hc]
          · simp [oNamed, hc, hn, hn1]
      · intro n lane _; simp [Group.pred, hc]
  · -- g
    have ht : targetOf g gens d wide = .g d.idx.toNat := by simp [targetOf, hc]
    rw [ht]
    have hne := lanesOf_ne_nil eff he
    have htk : taken (.g d.idx.toNat) (laneList eff v) = laneList eff (fun _ => v (lowLane eff)) := by
      unfold laneList lowLane
      cases hl : lanesOf eff with
      | nil => exact absurd hl hne
      | cons i l => simp [taken]
    rw [htk]
    have hw : writeLanes g (.g d.idx.toNat) (laneList eff (fun _ => v (lowLane eff))) =
        { g with g := g.g.set 0 d.idx.toNat (v (lowLane eff)) } := by
      simp only [writeLanes, laneList]
      cases hl : lanesOf eff with
      | nil => exact absurd hl hne
      | cons i l => simp
    rw [hw]
    refine ⟨rfl, fun _ _ _ _ => rfl, fun h => by simp [hc] at h, fun h => by simp [hc] at h, ?_, ?_, ?_, ?_, ?_⟩
    · intro n lane _; simp [shiftLatches, oNamed, hc]
    · intro n
      simp only [shiftLatches, Group.gReg, hc, true_and]
      rw [Tab.get_set]
    · intro n lane _; simp [shiftLatches, Group.pred, hc]
    · intro lane hlane; rw [(shiftLatches_get _ eff _ lane hlane).1]; simp [hc]
    · intro lane hlane; rw [(shiftLatches_get _ eff _ lane hlane).2]
  · -- p
    have ht : targetOf g gens d wide = .p d.idx.toNat := by simp [targetOf, hc]
    rw [ht]
    simp only [taken, writeLanes]
    by_cases hi : d.idx.toNat = 0
    · have hw : ∀ (l : List (Nat × DWord)) (g : Group), l.foldl (fun g e => writeTarget g (.p d.idx.toNat) e.1 e.2) g = g := by
        intro l
        induction l with
        | nil => intro g; rfl
        | cons e l ih => intro g; rw [List.foldl_cons, ih]; simp [writeTarget, hi]
      rw [hw]
      refine RegVals.of_keep g g d wide eff v (by simp [hc]) (by simp [hc]) rfl ?_ ?_
      · intro n lane _; simp [oNamed, hc]
      · intro n lane _
        rw [if_neg]
        rintro ⟨_, h1, h2, _⟩
        exact h2 (h1.trans hi)
    · obtain ⟨p, hp, hne, hk⟩ := foldl_p d.idx.toNat hi (lanesOf eff) v g
      have hp' : (laneList eff v).foldl (fun g e => writeTarget g (.p d.idx.toNat) e.1 e.2) g = { g with p := p } := hp
      rw [hp']
      refine RegVals.of_keep g _ d wide eff v (by simp [hc]) (by simp [hc]) rfl ?_ ?_
      · intro n lane _; simp [oNamed, hc]
      · intro n lane hlane
        by_cases hn : n = d.idx.toNat
        · subst hn
          simp only [Group.pred, hi, if_false, hc, true_and, ne_eq, not_false_eq_true]
          rw [hk lane hlane]
          simp [mem_lanesOf, hlane]
        · by_cases h0 : n = 0
          · simp [Group.pred, h0, hc]
          · simp only [Group.pred, h0, if_false]
            rw [hne n hn, if_neg (fun h => hn h.2.1)]
  · -- port
    have ht : targetOf g gens d wide = .port d.idx.toNat := by simp [targetOf, hc]
    rw [ht]
    simp only [taken, writeLanes]
    rw [foldl_none _ (Or.inr ⟨_, rfl⟩)]
    refine RegVals.of_keep g g d wide eff v (by simp [hc]) (by simp [hc]) rfl ?_ ?_
    · intro n lane _; simp [oNamed, hc]
    · intro n lane _; simp [hc]

end Sys2Proof.Machine
end

