-- ==== Sys2Proof/Laws/Done.lean ====
section
/-! SUPPORT. Ports pushed and popped (R169), the notes of an issue, and `Done` of every instruction of fixed latency. -/

namespace Sys2Proof.Machine

/-! ### Ports -/

@[simp] theorem Workgroup.isFull_setEmpty (w : Workgroup) (a b : Nat) :
    (w.setEmpty a).isFull b = if b = a then false else w.isFull b := by
  simp [Workgroup.isFull, Workgroup.setEmpty, Tab.get_set]

@[simp] theorem Workgroup.isFull_spPut (w : Workgroup) (a b : Nat) (x : Word) :
    (w.spPut a x).isFull b = if b = a then true else w.isFull b := by
  simp [Workgroup.isFull, Workgroup.spPut, Tab.get_set]

theorem Workgroup.sp_spPut (w : Workgroup) (a b : Nat) (x : Word) :
    (w.spPut a x).sp.get 0 b = if b = a then x else w.sp.get 0 b := Tab.get_set ..

/-- A scratchpad word of the element at a port's position. -/
def Group.inElem (g : Group) (i a : Nat) : Bool := decide (g.elem i 0 ≤ a) && decide (a < g.elem i 0 + 32)

theorem Group.elem_eq (g : Group) (i k : Nat) : g.elem i k = g.elem i 0 + k := rfl

theorem Group.inElem_true (g : Group) (i a : Nat) : g.inElem i a = true ↔ g.elem i 0 ≤ a ∧ a < g.elem i 0 + 32 := by
  simp [Group.inElem]

theorem Group.inElem_iff (g : Group) (i a : Nat) : g.inElem i a = true ↔ ∃ k, k < 32 ∧ a = g.elem i k := by
  rw [Group.inElem_true]
  constructor
  · intro h
    exact ⟨a - g.elem i 0, by omega, by rw [Group.elem_eq]; omega⟩
  · rintro ⟨k, hk, rfl⟩
    rw [Group.elem_eq g i k]
    exact ⟨Nat.le_add_right _ _, Nat.add_lt_add_left hk _⟩

/-- Words set empty, one after another at rising places. -/
theorem foldl_setEmpty (b n : Nat) (w : Workgroup) :
    let t := (List.range n).foldl (fun w k => w.setEmpty (b + k)) w
    (∀ a, t.isFull a = if b ≤ a ∧ a < b + n then false else w.isFull a) ∧ t = { w with full := t.full } := by
  induction n with
  | zero => exact ⟨fun a => by rw [if_neg (by omega)]; rfl, rfl⟩
  | succ n ih =>
    obtain ⟨h1, h2⟩ := ih
    simp only [List.range_succ, List.foldl_append, List.foldl_cons, List.foldl_nil]
    refine ⟨?_, ?_⟩
    · intro a
      rw [Workgroup.isFull_setEmpty, h1 a]
      by_cases ha : a = b + n
      · subst ha; simp
      · by_cases hb : b ≤ a ∧ a < b + n
        · rw [if_neg ha, if_pos hb, if_pos ⟨hb.1, by omega⟩]
        · rw [if_neg ha, if_neg hb, if_neg (fun h => hb ⟨h.1, by omega⟩)]
    · rw [h2]; rfl

/-- Words written and set full, one after another at rising places. -/
theorem foldl_spPut (b : Nat) (x : Nat → Word) (n : Nat) (w : Workgroup) :
    let t := (List.range n).foldl (fun w k => w.spPut (b + k) (x k)) w
    (∀ a, t.isFull a = if b ≤ a ∧ a < b + n then true else w.isFull a) ∧
    (∀ a, t.sp.get 0 a = if b ≤ a ∧ a < b + n then x (a - b) else w.sp.get 0 a) ∧
    t = { w with sp := t.sp, full := t.full } := by
  induction n with
  | zero => exact ⟨fun a => by rw [if_neg (by omega)]; rfl, fun a => by rw [if_neg (by omega)]; rfl, rfl⟩
  | succ n ih =>
    obtain ⟨h1, h2, h3⟩ := ih
    simp only [List.range_succ, List.foldl_append, List.foldl_cons, List.foldl_nil]
    refine ⟨?_, ?_, ?_⟩
    · intro a
      rw [Workgroup.isFull_spPut, h1 a]
      by_cases ha : a = b + n
      · subst ha; simp
      · by_cases hb : b ≤ a ∧ a < b + n
        · rw [if_neg ha, if_pos hb, if_pos ⟨hb.1, by omega⟩]
        · rw [if_neg ha, if_neg hb, if_neg (fun h => hb ⟨h.1, by omega⟩)]
    · intro a
      rw [Workgroup.sp_spPut, h2 a]
      by_cases ha : a = b + n
      · subst ha; simp
      · by_cases hb : b ≤ a ∧ a < b + n
        · rw [if_neg ha, if_pos hb, if_pos ⟨hb.1, by omega⟩]
        · rw [if_neg ha, if_neg hb, if_neg (fun h => hb ⟨h.1, by omega⟩)]
    · rw [h3]; rfl

theorem Group.port_advancePort (g : Group) (i j : Nat) :
    (g.advancePort i).port j =
      if j = i then { g.port i with pos := ((g.port i).pos + 1) % (max 1 (g.port i).count) } else g.port j := by
  simp [Group.advancePort, Group.port, Tab.get_put]

theorem any_congr {α : Type} (l : List α) (p q : α → Bool) (h : ∀ x ∈ l, p x = q x) : l.any p = l.any q := by
  induction l with
  | nil => rfl
  | cons x l ih =>
    rw [List.any_cons, List.any_cons, h x (List.mem_cons_self ..), ih (fun y hy => h y (List.mem_cons_of_mem _ hy))]

/-- One element popped. -/
theorem popPort_spec (s : State) (gid i : Nat) :
    (s.popPort gid i).group gid = (s.group gid).advancePort i ∧
    (∀ k, k ≠ gid → (s.popPort gid i).group k = s.group k) ∧
    (∀ k, k ≠ (s.group gid).wg → (s.popPort gid i).wg k = s.wg k) ∧
    (∀ a, ((s.popPort gid i).wgOf gid).isFull a =
      if (s.group gid).inElem i a then false else (s.wgOf gid).isFull a) ∧
    (s.popPort gid i).wgOf gid = { s.wgOf gid with full := ((s.popPort gid i).wgOf gid).full } ∧
    s.popPort gid i = { s with groups := (s.popPort gid i).groups, wgs := (s.popPort gid i).wgs } := by
  have hwg : (s.popPort gid i).wgOf gid = (List.range 32).foldl
      (fun w k => w.setEmpty ((((s.group gid).port i).base + 128 * ((s.group gid).port i).pos) / 4 + k)) (s.wgOf gid) := by
    simp [State.popPort, State.wgOf, Group.advancePort]
  have hf := foldl_setEmpty ((((s.group gid).port i).base + 128 * ((s.group gid).port i).pos) / 4) 32 (s.wgOf gid)
  refine ⟨by simp [State.popPort], fun k hk => ?_, fun k hk => ?_, ?_, ?_, rfl⟩
  · simp only [State.popPort]
    rw [State.group_setGroup_ne _ _ hk]; rfl
  · simp only [State.popPort, State.wg_setGroup]
    rw [State.wg_setWg_ne _ _ hk]
  · intro a
    rw [hwg, hf.1 a]
    exact ite_congr (propext (Group.inElem_true ..).symm) (fun _ => rfl) (fun _ => rfl)
  · rw [hwg]; exact hf.2

/-- Elements popped from distinct ports. -/
theorem popPorts_spec (gid : Nat) (l : List Nat) (hn : l.Nodup) (s : State) :
    let t := l.foldl (fun s i => s.popPort gid i) s
    (∀ i, (t.group gid).port i = if i ∈ l then
        { (s.group gid).port i with pos := (((s.group gid).port i).pos + 1) % (max 1 ((s.group gid).port i).count) }
      else (s.group gid).port i) ∧
    t.group gid = { s.group gid with ports := (t.group gid).ports } ∧
    (∀ k, k ≠ gid → t.group k = s.group k) ∧
    (∀ k, k ≠ (s.group gid).wg → t.wg k = s.wg k) ∧
    (∀ a, (t.wgOf gid).isFull a =
      if l.any (fun i => (s.group gid).inElem i a) then false else (s.wgOf gid).isFull a) ∧
    t.wgOf gid = { s.wgOf gid with full := (t.wgOf gid).full } ∧
    t = { s with groups := t.groups, wgs := t.wgs } := by
  induction l generalizing s with
  | nil => exact ⟨fun i => by simp, rfl, fun _ _ => rfl, fun _ _ => rfl, fun a => by simp, rfl, rfl⟩
  | cons i l ih =>
    obtain ⟨hnot, hn⟩ := List.nodup_cons.mp hn
    obtain ⟨g1, g2, g3, g4, g5, g6⟩ := popPort_spec s gid i
    obtain ⟨h1, h2, h3, h4, h5, h6, h7⟩ := ih hn (s.popPort gid i)
    have hwgid : ((s.popPort gid i).group gid).wg = (s.group gid).wg := by rw [g1]; rfl
    have hport : ∀ j, j ≠ i → ((s.popPort gid i).group gid).port j = (s.group gid).port j := by
      intro j hj; rw [g1, Group.port_advancePort, if_neg hj]
    have helem : ∀ j, j ≠ i → ∀ k, ((s.popPort gid i).group gid).elem j k = (s.group gid).elem j k := by
      intro j hj k; simp only [Group.elem, hport j hj]
    simp only [List.foldl_cons]
    refine ⟨?_, ?_, ?_, ?_, ?_, ?_, ?_⟩
    · intro j
      rw [h1 j]
      by_cases hj : j = i
      · subst hj
        rw [if_neg hnot, if_pos (List.mem_cons_self ..), g1, Group.port_advancePort, if_pos rfl]
      · rw [hport j hj]
        by_cases hl : j ∈ l
        · rw [if_pos hl, if_pos (List.mem_cons_of_mem _ hl)]
        · rw [if_neg hl, if_neg (fun h => (List.mem_cons.mp h).elim hj hl)]
    · rw [h2, g1]; rfl
    · intro k hk; rw [h3 k hk, g2 k hk]
    · intro k hk; rw [h4 k (by rw [hwgid]; exact hk), g3 k hk]
    · intro a
      rw [h5 a, g4 a]
      have hin : l.any (fun j => ((s.popPort gid i).group gid).inElem j a) = l.any (fun j => (s.group gid).inElem j a) := by
        apply any_congr
        intro j hj
        have hji : j ≠ i := fun h => hnot (h ▸ hj)
        simp only [Group.inElem, helem j hji]
      rw [hin, List.any_cons]
      by_cases h1 : l.any (fun j => (s.group gid).inElem j a) = true
      · simp [h1]
      · by_cases h2 : (s.group gid).inElem i a = true <;> simp [h1, h2]
    · rw [h6, g5]
    · rw [h7, g6]

/-- One element pushed. -/
theorem pushPort_spec (s : State) (gid i : Nat) (eff : Mask) (v : Nat → DWord) :
    (s.pushPort gid i (laneList eff v)).group gid = (s.group gid).advancePort i ∧
    (∀ k, k ≠ gid → (s.pushPort gid i (laneList eff v)).group k = s.group k) ∧
    (∀ k, k ≠ (s.group gid).wg → (s.pushPort gid i (laneList eff v)).wg k = s.wg k) ∧
    (∀ a, ((s.pushPort gid i (laneList eff v)).wgOf gid).isFull a =
      if (s.group gid).inElem i a then true else (s.wgOf gid).isFull a) ∧
    (∀ k, k < 32 → ((s.pushPort gid i (laneList eff v)).wgOf gid).sp.get 0 ((s.group gid).elem i k) =
      if Mask.has eff k then half (v k) 0 else 0) ∧
    (∀ a, (∀ k, k < 32 → a ≠ (s.group gid).elem i k) →
      ((s.pushPort gid i (laneList eff v)).wgOf gid).sp.get 0 a = (s.wgOf gid).sp.get 0 a) ∧
    (s.pushPort gid i (laneList eff v)).wgOf gid = { s.wgOf gid with
      sp := ((s.pushPort gid i (laneList eff v)).wgOf gid).sp,
      full := ((s.pushPort gid i (laneList eff v)).wgOf gid).full } ∧
    s.pushPort gid i (laneList eff v) = { s with
      groups := (s.pushPort gid i (laneList eff v)).groups, wgs := (s.pushPort gid i (laneList eff v)).wgs } := by
  let x : Nat → Word := fun k =>
    match (laneList eff v).find? (fun e => e.1 = k) with
    | some e => e.2.extractLsb 31 0
    | none => 0
  have hwg : (s.pushPort gid i (laneList eff v)).wgOf gid = (List.range 32).foldl
      (fun w k => w.spPut ((((s.group gid).port i).base + 128 * ((s.group gid).port i).pos) / 4 + k) (x k))
      (s.wgOf gid) := by
    simp only [State.pushPort, State.wgOf, State.group_setGroup_same, State.wg_setGroup]
    rw [show ((s.group gid).advancePort i).wg = (s.group gid).wg from rfl, State.wg_setWg_same]
    all_goals congr 1
  obtain ⟨f1, f2, f3⟩ := foldl_spPut ((((s.group gid).port i).base + 128 * ((s.group gid).port i).pos) / 4) x 32 (s.wgOf gid)
  have hx : ∀ k, k < 32 → x k = if Mask.has eff k then half (v k) 0 else 0 := by
    intro k hk
    cases hf : (laneList eff v).find? (fun e => e.1 = k) with
    | none =>
      have hx : x k = 0 := by simp [x, hf]
      rw [hx, if_neg]
      intro hm
      have := List.find?_eq_none.mp hf (k, v k) (by
        simp only [laneList, List.mem_map]
        exact ⟨k, mem_lanesOf.mpr ⟨hk, hm⟩, rfl⟩)
      simp at this
    | some e =>
      have h1 := List.find?_some hf
      have h2 := List.mem_of_find?_eq_some hf
      simp only [decide_eq_true_eq] at h1
      simp only [laneList, List.mem_map] at h2
      obtain ⟨j, hj, rfl⟩ := h2
      simp only at h1
      subst h1
      have hx : x j = half (v j) 0 := by simp [x, hf, half]
      rw [hx, if_pos (mem_lanesOf.mp hj).2]
  refine ⟨by simp [State.pushPort], fun k hk => ?_, fun k hk => ?_, ?_, ?_, ?_, ?_, rfl⟩
  · simp only [State.pushPort]
    rw [State.group_setGroup_ne _ _ hk]; rfl
  · simp only [State.pushPort, State.wg_setGroup]
    rw [State.wg_setWg_ne _ _ hk]
  · intro a
    rw [hwg, f1 a]
    exact ite_congr (propext (Group.inElem_true ..).symm) (fun _ => rfl) (fun _ => rfl)
  · intro k hk
    have h := f2 ((((s.group gid).port i).base + 128 * ((s.group gid).port i).pos) / 4 + k)
    rw [if_pos ⟨Nat.le_add_right _ _, Nat.add_lt_add_left hk _⟩, Nat.add_sub_cancel_left, hx k hk] at h
    rw [hwg]
    exact h
  · intro a ha
    rw [hwg, f2, if_neg]
    rintro ⟨h1, h2⟩
    apply ha (a - (((s.group gid).port i).base + 128 * ((s.group gid).port i).pos) / 4) (by omega)
    simp only [Group.elem]
    omega
  · rw [hwg]; exact f3

end Sys2Proof.Machine
end

