-- ==== Sys2Proof/Laws/Completes.lean ====
section
/-! SUPPORT. The issue of an instruction of fixed latency from `Quiet` and `Ready` to `Done`. -/

namespace Sys2Proof.Machine

/-- The state in which an issued instruction acts: the issue noted, the split advanced. -/
def State.began (s : State) (op : Op) (r : Run) : State :=
  State.advance { s.noteIssue r.gid r.sid op.memory r.pc with fresh := s.fresh + 1 } r

/-- Without a step trap enabled nothing follows an instruction (R381). -/
@[simp] theorem State.stepDue_false (s : State) (r : Run) : s.stepDue r false = s := by
  simp [State.stepDue, State.stepTrap]

theorem State.effect_began (s : State) (op : Op) (r : Run) (act : State → Run → State)
    (h1 : (s.group r.gid).stepping = false) (h2 : op.ends = false) : s.effect op r act = act (s.began op r) r := by
  simp [State.effect, h1, h2, State.began]

theorem KeepsDevice.refl (s : State) : KeepsDevice s s := ⟨s.groups, s.slots, s.wgs, s.fresh, rfl⟩

theorem KeepsDevice.trans {s t u : State} (h : KeepsDevice s t) (k : KeepsDevice t u) : KeepsDevice s u := by
  obtain ⟨a, b, c, n, rfl⟩ := h
  obtain ⟨a', b', c', n', rfl⟩ := k
  exact ⟨a', b', c', n', rfl⟩

theorem KeepsDevice.setGroup (s : State) (i : Nat) (g : Group) : KeepsDevice s (s.setGroup i g) :=
  ⟨s.groups.put i g, s.slots, s.wgs, s.fresh, rfl⟩
theorem KeepsDevice.setSlot (s : State) (i : Nat) (x : Slot) : KeepsDevice s (s.setSlot i x) :=
  ⟨s.groups, s.slots.put i x, s.wgs, s.fresh, rfl⟩
theorem KeepsDevice.setWg (s : State) (i : Nat) (x : Workgroup) : KeepsDevice s (s.setWg i x) :=
  ⟨s.groups, s.slots, s.wgs.put i x, s.fresh, rfl⟩
theorem KeepsDevice.setFresh (s : State) (n : Nat) : KeepsDevice s { s with fresh := n } :=
  ⟨s.groups, s.slots, s.wgs, n, rfl⟩

/-- Everything else is equal. -/
theorem KeepsDevice.eq {s t : State} (h : KeepsDevice s t) :
    t = { s with groups := t.groups, slots := t.slots, wgs := t.wgs, fresh := t.fresh } := by
  obtain ⟨a, b, c, n, rfl⟩ := h
  rfl

theorem KeepsDevice.noteIssue (s : State) (gid sid : Nat) (m : Bool) (pc : DWord) : KeepsDevice s (s.noteIssue gid sid m pc) :=
  (KeepsDevice.setGroup s _ _).trans (KeepsDevice.setSlot _ _ _)
theorem KeepsDevice.advance (s : State) (r : Run) : KeepsDevice s (s.advance r) := KeepsDevice.setGroup s _ _
theorem KeepsDevice.calmed (s : State) (gid : Nat) : KeepsDevice s (s.calmed gid) := KeepsDevice.setGroup s _ _
theorem KeepsDevice.began (s : State) (op : Op) (r : Run) : KeepsDevice s (s.began op r) :=
  ((KeepsDevice.noteIssue s _ _ _ _).trans (KeepsDevice.setFresh _ _)).trans (KeepsDevice.advance _ _)

theorem State.began_spec (s : State) (op : Op) (gid sid : Nat) :
    Began s ((s.calmed gid).began op (s.runOf op gid sid)) gid sid op.size op.stall := by
  have hg : (s.calmed gid).group gid = s.calm gid := by simp [State.calmed]
  have hb : ((s.calmed gid).began op (s.runOf op gid sid)).group gid =
      ({ s.calm gid with
          issued := (s.calm gid).issued + 1, recent := (op.memory :: (s.calm gid).recent).take 64,
          lastSplit := sid } : Group).setSplit sid
        { (s.group gid).split sid with
          pc := ((s.group gid).split sid).pc + BitVec.ofNat 64 op.size, readyAt := s.cycle + op.stall + 1,
          last := s.cycle, wait := .none, pend := none,
          skips := ((s.group gid).split sid).skips.erase ((s.group gid).split sid).pc, atBreak := false } := by
    unfold State.began State.advance State.noteIssue State.runOf
    simp only [hg]
    rw [State.group_setGroup_same]
    have h1 : ∀ (t : State) (n : Nat), ({ t with fresh := n } : State).group = t.group := fun _ _ => rfl
    simp only [h1, State.group_setSlot, State.group_setGroup_same]
    rfl
  refine ⟨?_, ?_, ?_, ?_, ?_, ?_, (KeepsDevice.calmed s gid).trans (KeepsDevice.began _ _ _), rfl, rfl⟩
  · rw [hb]; rfl
  · rw [hb, Group.split_setSplit_same]
  · intro k hk; rw [hb, Group.split_setSplit_ne _ _ hk]; rfl
  · intro k hk
    unfold State.began State.advance State.noteIssue State.runOf
    simp only
    rw [State.group_setGroup_ne _ _ hk]
    have h1 : ∀ (t : State) (n : Nat), ({ t with fresh := n } : State).group = t.group := fun _ _ => rfl
    rw [h1, State.group_setSlot, State.group_setGroup_ne _ _ hk, State.calmed, State.group_setGroup_ne _ _ hk]
  · intro k hk
    unfold State.began State.advance State.noteIssue State.runOf
    simp only
    rw [State.slot_setGroup]
    have h1 : ∀ (t : State) (n : Nat), ({ t with fresh := n } : State).slot = t.slot := fun _ _ => rfl
    rw [h1, State.slot_setSlot_ne _ _ hk]
    rfl
  · have hs : ((s.calmed gid).began op (s.runOf op gid sid)).slot (slotOf gid) = { s.slot (slotOf gid) with
        lastPc := (((s.calmed gid).began op (s.runOf op gid sid)).slot (slotOf gid)).lastPc,
        rotation := (((s.calmed gid).began op (s.runOf op gid sid)).slot (slotOf gid)).rotation,
        issuedAt := (((s.calmed gid).began op (s.runOf op gid sid)).slot (slotOf gid)).issuedAt } := by
      unfold State.began State.advance State.noteIssue State.runOf
      simp only
      rw [State.slot_setGroup]
      have h1 : ∀ (t : State) (n : Nat), ({ t with fresh := n } : State).slot = t.slot := fun _ _ => rfl
      rw [h1, State.slot_setSlot_same]
      rfl
    exact hs

theorem mem_inPorts_le {l : List (Src × Bool)} {i : Nat} (h : i ∈ inPorts l) : i ≤ 1 := by
  simp only [inPorts, List.mem_eraseDups, List.mem_map, List.mem_filter, Bool.and_eq_true, decide_eq_true_eq] at h
  obtain ⟨e, he, rfl⟩ := h
  exact he.2.2

theorem mem_outPorts {d : Dst} {i : Nat} (h : i ∈ outPorts d) :
    d.cls = .port ∧ i = d.idx.toNat ∧ (i = 2 ∨ i = 3) := by
  unfold outPorts at h
  split at h
  · rename_i hc
    simp only [Bool.and_eq_true, Bool.or_eq_true, decide_eq_true_eq] at hc
    rw [List.mem_singleton] at h
    refine ⟨hc.1, h, ?_⟩
    rcases hc.2 with h2 | h2 <;> rw [h2] at h
    · left; exact h
    · right; exact h
  · cases h

/-- The note of a result not yet readable (R55, R58). -/
def State.noteOf (b : State) (gid sid : Nat) (d : Dst) (wide : Bool) (latency : Nat) (vals : List (Nat × DWord))
    (flags : Flags) : Fresh :=
  let g := b.group gid
  let t := targetOf g (b.gens gid) d wide
  let vals := taken t vals
  let old (i : Nat) : List (Nat × Word) := vals.map (fun e => (e.1, g.l.get 0 (32 * i + e.1)))
  { split := sid, cycle := b.cycle + latency,
    target := match t with | .port _ => .none | _ => t, old := vals.map (fun e => (e.1, readTarget g t e.1)), latch := true,
    oldL0 := old 0, oldL1 := old 1, feed0 := maskOf (fun i => vals.any (fun e => e.1 = i)), openTo := g.otherSplits sid,
    flags := flags }

/-- The group's registers and latches after a result. -/
def State.regsOf (b : State) (gid : Nat) (d : Dst) (wide : Bool) (vals : List (Nat × DWord)) : Group :=
  let g := b.group gid
  let t := targetOf g (b.gens gid) d wide
  shiftLatches (writeLanes g t (taken t vals)) (taken t vals)

/-- A result of fixed latency written: the state before its push. -/
def State.wrote (b : State) (gid sid : Nat) (d : Dst) (wide : Bool) (latency : Nat) (vals : List (Nat × DWord))
    (flags : Flags) : State :=
  let h := b.regsOf gid d wide vals
  let n := b.noteOf gid sid d wide latency vals flags
  b.setGroup gid { h with fresh := n :: h.fresh.map (Fresh.shifted n.feed0) }

theorem State.writeFixed_eq (b : State) (gid sid : Nat) (d : Dst) (wide : Bool) (latency : Nat)
    (eff : Mask) (v : Nat → DWord) (flags : Flags) :
    b.writeFixed gid sid d wide latency (laneList eff v) flags =
      (outPorts d).foldl (fun s i => s.pushPort gid i (laneList eff v))
        (b.wrote gid sid d wide latency (laneList eff v) flags) := by
  have hw : ∀ vals, b.writeFixed gid sid d wide latency vals flags =
      match targetOf (b.group gid) (b.gens gid) d wide with
      | .port i => if i = 2 || i = 3 then
          (b.wrote gid sid d wide latency vals flags).pushPort gid i
            (taken (targetOf (b.group gid) (b.gens gid) d wide) vals)
        else b.wrote gid sid d wide latency vals flags
      | _ => b.wrote gid sid d wide latency vals flags := fun _ => rfl
  rw [hw]
  unfold outPorts
  cases hc : d.cls <;> cases wide <;> simp [targetOf, hc, taken]
  all_goals
    by_cases h2 : d.idx = 2#8
    · simp [h2]
    · by_cases h3 : d.idx = 3#8
      · simp [h3]
      · have h2' : ¬ d.idx.toNat = 2 := fun h => h2 (BitVec.eq_of_toNat_eq h)
        have h3' : ¬ d.idx.toNat = 3 := fun h => h3 (BitVec.eq_of_toNat_eq h)
        simp [h2, h3, h2', h3']

theorem nodup_eraseDups (l : List Nat) : l.eraseDups.Nodup := by
  suffices H : ∀ (n : Nat) (l : List Nat), l.length ≤ n → l.eraseDups.Nodup from H l.length l (Nat.le_refl _)
  intro n
  induction n with
  | zero =>
    intro l hl
    have : l = [] := List.length_eq_zero_iff.mp (Nat.le_zero.mp hl)
    subst this
    simp
  | succ n ih =>
    intro l hl
    cases l with
    | nil => simp
    | cons a l =>
      rw [List.eraseDups_cons, List.nodup_cons]
      refine ⟨?_, ih _ ?_⟩
      · rw [List.mem_eraseDups]
        simp
      · have := List.length_filter_le (fun b => !b == a) l
        simp only [List.length_cons] at hl
        omega

/-- The same groups and workgroups but for one group's ports and its workgroup's scratchpad. -/
structure PortsOnly (a t : State) (gid : Nat) : Prop where
  group : t.group gid = { a.group gid with ports := (t.group gid).ports }
  groups : ∀ k, k ≠ gid → t.group k = a.group k
  slots : t.slots = a.slots
  device : KeepsDevice a t

/-- A push and pops, after a result. -/
theorem pushPop_spec (a : State) (gid : Nat) (srcs : List (Src × Bool)) (d : Dst) (eff : Mask) (v : Nat → DWord)
    (hfull : ∀ i ∈ inPorts srcs, a.portFull gid i = true) (hempty : ∀ i ∈ outPorts d, a.portEmpty gid i = true) :
    let t := ((outPorts d).foldl (fun s i => s.pushPort gid i (laneList eff v)) a).popPorts gid (inPorts srcs)
    PortsOnly a t gid ∧ PortsMoved a t gid (inPorts srcs) (outPorts d) eff v := by
  intro t
  have hmem : ∀ i, i ∈ (inPorts srcs).eraseDups ↔ i ∈ inPorts srcs := fun i => List.mem_eraseDups
  have hfull' : ∀ i ∈ inPorts srcs, ∀ k, k < 32 → (a.wgOf gid).isFull ((a.group gid).elem i k) = true := by
    intro i hi k hk
    have := hfull i hi
    simp only [State.portFull, List.all_eq_true, List.mem_range] at this
    exact this k hk
  have hempty' : ∀ i ∈ outPorts d, ∀ k, k < 32 → (a.wgOf gid).isFull ((a.group gid).elem i k) = false := by
    intro i hi k hk
    have := hempty i hi
    simp only [State.portEmpty, List.all_eq_true, List.mem_range, Bool.not_eq_true'] at this
    exact this k hk
  -- the push
  have hp : ∃ p, p = (outPorts d).foldl (fun s i => s.pushPort gid i (laneList eff v)) a ∧
      p.group gid = { a.group gid with ports := (p.group gid).ports } ∧
      (∀ k, k ≠ gid → p.group k = a.group k) ∧ p.slots = a.slots ∧ KeepsDevice a p ∧
      (∀ k, k ≠ (a.group gid).wg → p.wg k = a.wg k) ∧
      (∀ i, (p.group gid).port i = if i ∈ outPorts d then
          { (a.group gid).port i with pos := (((a.group gid).port i).pos + 1) % (max 1 ((a.group gid).port i).count) }
        else (a.group gid).port i) ∧
      (∀ x, (p.wgOf gid).isFull x =
        if (outPorts d).any (fun i => (a.group gid).inElem i x) then true else (a.wgOf gid).isFull x) ∧
      (∀ i ∈ outPorts d, ∀ k, k < 32 → (p.wgOf gid).sp.get 0 ((a.group gid).elem i k) =
        if Mask.has eff k then half (v k) 0 else 0) ∧
      (∀ x, (∀ i ∈ outPorts d, ∀ k, k < 32 → x ≠ (a.group gid).elem i k) →
        (p.wgOf gid).sp.get 0 x = (a.wgOf gid).sp.get 0 x) ∧
      p.wgOf gid = { a.wgOf gid with sp := (p.wgOf gid).sp, full := (p.wgOf gid).full } := by
    by_cases ho : outPorts d = []
    · rw [ho]
      exact ⟨a, rfl, rfl, fun _ _ => rfl, rfl, KeepsDevice.refl a, fun _ _ => rfl, fun i => by simp, fun x => by simp,
        fun i h => by simp at h, fun x _ => rfl, rfl⟩
    · have ho' : outPorts d = [d.idx.toNat] := by
        unfold outPorts at ho ⊢
        split
        · rfl
        · rename_i h; rw [if_neg h] at ho; exact absurd rfl ho
      rw [ho']
      obtain ⟨g1, g2, g3, g4, g5, g6, g7, g8⟩ := pushPort_spec a gid d.idx.toNat eff v
      refine ⟨_, rfl, ?_, g2, ?_, ?_, g3, ?_, ?_, ?_, ?_, ?_⟩
      · simp only [List.foldl_cons, List.foldl_nil]; rw [g1]; rfl
      · simp only [List.foldl_cons, List.foldl_nil]; rw [g8]
      · simp only [List.foldl_cons, List.foldl_nil]; exact ⟨_, _, _, _, g8⟩
      · intro i
        simp only [List.foldl_cons, List.foldl_nil, List.mem_singleton]
        rw [g1, Group.port_advancePort]
        by_cases hi : i = d.idx.toNat
        · subst hi; rfl
        · rw [if_neg hi, if_neg hi]
      · intro x
        simp only [List.foldl_cons, List.foldl_nil, List.any_cons, List.any_nil, Bool.or_false]
        exact g4 x
      · intro i hi k hk
        rw [List.mem_singleton] at hi
        subst hi
        exact g5 k hk
      · intro x hx
        exact g6 x (fun k hk => hx _ (List.mem_singleton.mpr rfl) k hk)
      · exact g7
  obtain ⟨p, hpe, p1, p2, p3, p4, p5, p6, p7, p8, p9, p10⟩ := hp
  have ht : t = (inPorts srcs).eraseDups.foldl (fun s i => s.popPort gid i) p := by rw [hpe]; rfl
  obtain ⟨q1, q2, q3, q4, q5, q6, q7⟩ := popPorts_spec gid _ (nodup_eraseDups (inPorts srcs)) p
  rw [← ht] at q1 q2 q3 q4 q5 q6 q7
  have hpwg : (p.group gid).wg = (a.group gid).wg := by rw [p1]
  have hport : ∀ i ∈ inPorts srcs, (p.group gid).port i = (a.group gid).port i := by
    intro i hi
    rw [p6 i, if_neg]
    intro ho
    have h1 := mem_inPorts_le hi
    have h2 := (mem_outPorts ho).2.2
    omega
  have helem : ∀ i ∈ inPorts srcs, ∀ k, (p.group gid).elem i k = (a.group gid).elem i k := by
    intro i hi k; simp only [Group.elem, hport i hi]
  have hany : ∀ x, (inPorts srcs).eraseDups.any (fun i => (p.group gid).inElem i x) =
      (inPorts srcs).any (fun i => (a.group gid).inElem i x) := by
    intro x
    rw [Bool.eq_iff_iff]
    simp only [List.any_eq_true, hmem]
    constructor
    · rintro ⟨i, hi, h⟩
      exact ⟨i, hi, by simpa only [Group.inElem, helem i hi] using h⟩
    · rintro ⟨i, hi, h⟩
      exact ⟨i, hi, by simpa only [Group.inElem, helem i hi] using h⟩
  have hsp : (t.wgOf gid).sp = (p.wgOf gid).sp := by rw [q6]
  have hbits : ∀ x, (t.wgOf gid).isFull x =
      if (inPorts srcs).any (fun i => (a.group gid).inElem i x) then false
      else if (outPorts d).any (fun i => (a.group gid).inElem i x) then true else (a.wgOf gid).isFull x := by
    intro x; rw [q5 x, hany x, p7 x]
  refine ⟨⟨?_, ?_, ?_, ?_⟩, ⟨?_, ?_, ?_, ?_, ?_, ?_, ?_, ?_⟩⟩
  · rw [q2, p1]
  · intro k hk; rw [q3 k hk, p2 k hk]
  · rw [← p3, q7]
  · exact p4.trans ⟨_, _, _, _, q7⟩
  · intro i hi k hk; rw [hsp]; exact p8 i hi k hk
  · intro x hx; rw [hsp]; exact p9 x hx
  · intro i hi k hk
    rw [hbits, if_neg, if_pos]
    · exact List.any_eq_true.mpr ⟨i, hi, (Group.inElem_iff ..).mpr ⟨k, hk, rfl⟩⟩
    · intro hc
      obtain ⟨j, hj, h⟩ := List.any_eq_true.mp hc
      obtain ⟨m, hm, hx⟩ := (Group.inElem_iff ..).mp h
      have h1 := hfull' j hj m hm
      rw [← hx, hempty' i hi k hk] at h1
      cases h1
  · intro i hi k hk
    rw [hbits, if_pos]
    exact List.any_eq_true.mpr ⟨i, hi, (Group.inElem_iff ..).mpr ⟨k, hk, rfl⟩⟩
  · intro x hx
    rw [hbits, if_neg, if_neg]
    · intro hc
      obtain ⟨j, hj, h⟩ := List.any_eq_true.mp hc
      obtain ⟨m, hm, he⟩ := (Group.inElem_iff ..).mp h
      exact hx j (List.mem_append_right _ hj) m hm he
    · intro hc
      obtain ⟨j, hj, h⟩ := List.any_eq_true.mp hc
      obtain ⟨m, hm, he⟩ := (Group.inElem_iff ..).mp h
      exact hx j (List.mem_append_left _ hj) m hm he
  · intro i
    rw [q1 i]
    by_cases hi : i ∈ inPorts srcs
    · rw [if_pos ((hmem i).mpr hi), hport i hi, if_pos (List.mem_append_left _ hi)]
    · rw [if_neg (fun h => hi ((hmem i).mp h)), p6 i]
      by_cases ho : i ∈ outPorts d
      · rw [if_pos ho, if_pos (List.mem_append_right _ ho)]
      · rw [if_neg ho, if_neg (fun h => (List.mem_append.mp h).elim hi ho)]
  · rw [q6, p10]
  · intro k hk; rw [q4 k (by rw [hpwg]; exact hk), p5 k hk]

/-- An issue with nothing before its effect: what has changed when the instruction acts, and the action. -/
theorem State.issueSplit_began (s : State) (op : Op) (gid sid : Nat) (q : Quiet s gid sid) (c : Clear s op gid sid)
    (hends : op.ends = false) :
    ∃ b, Began s b gid sid op.size op.stall ∧
      s.issueSplit op gid sid = (op.act b (s.runOf op gid sid)).popPorts gid op.portsIn := by
  have hcalm : (s.calmed gid).group gid = s.calm gid := State.group_setGroup_same ..
  have hstep : ((s.calmed gid).group gid).stepping = false := by
    rw [hcalm]
    exact q.noStep
  exact ⟨_, State.began_spec s op gid sid,
    (State.issueSplit_clear s op gid sid q c).trans (State.effect_began _ _ _ _ hstep hends)⟩

/-- A LEGAL INSTRUCTION OF FIXED LATENCY, ISSUED: `Done`. The result may be computed from the state in which the
instruction acts. -/
theorem State.issueSplit_done (s : State) (op : Op) (gid sid : Nat) (e : Enc) (wide : Bool) (latency : Nat)
    (v : Nat → DWord) (flags : Flags) (q : Quiet s gid sid) (c : Clear s op gid sid)
    (hsize : op.size = e.size) (hstall : op.stall = e.x.stall.toNat) (hgp : op.gp = e.x.gp.toNat) (hgn : op.gn = e.x.gn)
    (hends : op.ends = false) (hin : op.portsIn = inPorts e.sources) (hout : op.portsOut = outPorts e.x.d)
    (hd : e.x.d.cls = .v ∨ e.x.d.cls = .o ∨ e.x.d.cls = .g ∨ e.x.d.cls = .p ∨ e.x.d.cls = .port)
    (hact : ∀ b, KeepsDevice s b → b.fresh = s.fresh + 1 → b.wgs = s.wgs → (b.group gid).fresh = [] →
      (b.group gid).wg = (s.group gid).wg → (b.group gid).ports = (s.group gid).ports →
      op.act b (s.runOf op gid sid) =
        b.writeFixed gid sid e.x.d wide latency (laneList (s.lanes gid sid e) v) flags) :
    Done s (s.issueSplit op gid sid) gid sid e wide latency v flags := by
  have heff : (s.runOf op gid sid).eff = s.lanes gid sid e := by
    simp only [State.runOf, State.lanes, hgp, hgn]
  have hne : s.lanes gid sid e ≠ 0 := heff ▸ c.lanes
  obtain ⟨b, hb, hiss⟩ := State.issueSplit_began s op gid sid q c hends
  have hports : (b.group gid).ports = (s.group gid).ports := by rw [hb.group]; rfl
  have hwgid : (b.group gid).wg = (s.group gid).wg := by rw [hb.group]; rfl
  have hrows : (b.group gid).row = (s.calm gid).row := by rw [hb.group]; rfl
  have hemptyFresh : (b.group gid).fresh = [] := by rw [hb.group]; exact q.fresh
  rw [hact b hb.device hb.fresh hb.wgs hemptyFresh hwgid hports, State.writeFixed_eq] at hiss
  have hregs := RegVals.write (b.group gid) (b.gens gid) e.x.d wide (s.lanes gid sid e) v hne hd
  generalize ha : b.wrote gid sid e.x.d wide latency (laneList (s.lanes gid sid e) v) flags = a at hiss
  -- the group after the result
  obtain ⟨h, note, hh, hag, hcy, hfl⟩ : ∃ (h : Group) (note : Fresh),
      RegVals (b.group gid) h e.x.d wide (s.lanes gid sid e) v ∧
      a.group gid = { h with fresh := [note] } ∧ note.cycle = s.cycle + latency ∧ note.flags = flags := by
    refine ⟨b.regsOf gid e.x.d wide (laneList (s.lanes gid sid e) v),
      b.noteOf gid sid e.x.d wide latency (laneList (s.lanes gid sid e) v) flags, hregs, ?_, ?_, rfl⟩
    · rw [← ha]
      unfold State.wrote
      rw [State.group_setGroup_same]
      have hf : (b.regsOf gid e.x.d wide (laneList (s.lanes gid sid e) v)).fresh = [] := by
        rw [show b.regsOf gid e.x.d wide (laneList (s.lanes gid sid e) v) = _ from hregs.rest]
        exact hemptyFresh
      simp only [hf, List.map_nil]
    · have : b.cycle = s.cycle := by rw [hb.device.eq]
      rw [← this]
      rfl
  have hag' : ∀ k, k ≠ gid → a.group k = b.group k := by
    intro k hk; rw [← ha]; exact State.group_setGroup_ne _ _ hk
  have hadev : KeepsDevice b a := by rw [← ha]; exact KeepsDevice.setGroup _ _ _
  have hawg : a.wgs = b.wgs := by rw [← ha]; rfl
  have haslots : a.slots = b.slots := by rw [← ha]; rfl
  have hhb : h = { b.group gid with rows := h.rows, o := h.o, l := h.l, p := h.p, g := h.g } := hh.rest
  have hgw : (a.group gid).wg = (s.group gid).wg := by rw [hag, hhb]; exact hwgid
  have hgp' : (a.group gid).ports = (s.group gid).ports := by rw [hag, hhb]; exact hports
  have hwga : a.wg = s.wg := by funext k; simp only [State.wg, hawg, hb.wgs]
  have hwgOf : a.wgOf gid = s.wgOf gid := by simp only [State.wgOf, hgw, hwga]
  have hport : (a.group gid).port = (s.group gid).port := by funext k; simp only [Group.port, hgp']
  have helem : (a.group gid).elem = (s.group gid).elem := by funext i k; simp only [Group.elem, hport]
  have hfull : ∀ i ∈ inPorts e.sources, a.portFull gid i = true := by
    intro i hi
    have := c.full i (hin ▸ hi)
    simpa only [State.portFull, hwgOf, hport] using this
  have hempty : ∀ i ∈ outPorts e.x.d, a.portEmpty gid i = true := by
    intro i hi
    have := c.empty i (hout ▸ hi)
    simpa only [State.portEmpty, hwgOf, hport] using this
  obtain ⟨po, pm⟩ := pushPop_spec a gid e.sources e.x.d (s.lanes gid sid e) v hfull hempty
  rw [hin] at hiss
  rw [← hiss] at po pm
  generalize s.issueSplit op gid sid = t at po pm
  have htg : t.group gid = { h with fresh := [note], ports := (t.group gid).ports } := by rw [po.group, hag]
  have htdev : KeepsDevice s t := (hb.device.trans hadev).trans po.device
  have hsplits : (t.group gid).splits = (b.group gid).splits := by rw [htg, hhb]
  have hspl : ∀ k, (t.group gid).split k = (b.group gid).split k := by intro k; simp only [Group.split, hsplits]
  have hrow : (b.group gid).row = (s.calm gid).row := hrows
  have hT : (t.group gid).rows = h.rows ∧ (t.group gid).o = h.o ∧ (t.group gid).g = h.g ∧ (t.group gid).p = h.p ∧
      (t.group gid).l = h.l := by rw [htg]; exact ⟨rfl, rfl, rfl, rfl, rfl⟩
  have hS : (b.group gid).rows = (s.group gid).rows ∧ (b.group gid).o = (s.group gid).o ∧
      (b.group gid).g = (s.group gid).g ∧ (b.group gid).p = (s.group gid).p ∧ (b.group gid).l = (s.group gid).l := by
    rw [hb.group]; exact ⟨rfl, rfl, rfl, rfl, rfl⟩
  have hnamed : rowsNamed (b.group gid) e.x.d wide = rowsNamed (s.calm gid) e.x.d wide := by
    simp only [rowsNamed, hrow]
  have hTg : ∀ n, (t.group gid).gReg n = h.gReg n := by intro n; simp only [Group.gReg, hT.2.2.1]
  have hSg : ∀ n, (b.group gid).gReg n = (s.group gid).gReg n := by intro n; simp only [Group.gReg, hS.2.2.1]
  have hTp : ∀ n, (t.group gid).pred n = h.pred n := by intro n; simp only [Group.pred, hT.2.2.2.1]
  have hSp : ∀ n, (b.group gid).pred n = (s.group gid).pred n := by intro n; simp only [Group.pred, hS.2.2.2.1]
  constructor <;> constructor
  · rw [hspl, hb.split, hsize]
  · rw [hspl, hb.split, hstall]
  · rw [hspl, hb.split]
  · rw [hspl, hb.split]
  · rw [hspl, hb.split]
  · rw [hspl, hb.split]
  · intro k hk; rw [hspl, hb.splits k hk]
  · exact htdev.eq
  · intro x; rw [htdev.eq]
  · intro k hk; rw [po.groups k hk, hag' k hk, hb.groups k hk]
  · intro k hk
    have : t.slot k = b.slot k := by simp only [State.slot, po.slots, haslots]
    rw [this, hb.slots k hk]
  · have : t.slot (slotOf gid) = b.slot (slotOf gid) := by simp only [State.slot, po.slots, haslots]
    rw [this]; exact hb.slot
  · rw [htg, hhb, hb.group]
  · intro n lane hl hn
    rw [hT.1, hh.rows n lane hl (by rw [hnamed]; exact hn), hS.1]
  · intro hv lane hl
    rw [hT.1, ← hrow, hh.rowTop hv lane hl, hS.1]
  · intro hv hw hne' lane hl
    rw [← hrow] at hne'
    rw [hT.1, ← hrow, hh.rowLow hv hw hne' lane hl, hS.1]
  · intro n lane hl
    rw [hT.2.1, hh.o n lane hl, hS.2.1]
  · intro n
    rw [hTg, hh.uni n, hSg]
  · intro n lane hl
    rw [hTp, hh.pr n lane hl, hSp]
  · intro lane hl
    rw [hT.2.2.2.2, hh.l0 lane hl, hS.2.2.2.2]
  · intro lane hl
    rw [hT.2.2.2.2, hh.l1 lane hl, hS.2.2.2.2]
  · intro i hi k hk; rw [← helem]; exact pm.word i hi k hk
  · intro x hx; rw [← hwgOf]; exact pm.words x (by rw [helem]; exact hx)
  · intro i hi k hk; rw [← helem]; exact pm.full i hi k hk
  · intro i hi k hk; rw [← helem]; exact pm.empty i hi k hk
  · intro x hx; rw [← hwgOf]; exact pm.bits x (by rw [helem]; exact hx)
  · intro i; rw [pm.position i, hport]
  · rw [pm.rest, hwgOf]
  · intro k hk; rw [pm.wgs k (by rw [hgw]; exact hk), hwga]
  · rw [htg]; rfl
  · intro f hf
    rw [htg] at hf
    simp only [List.mem_singleton] at hf
    rw [hf, hcy]
  · intro f hf
    rw [htg] at hf
    simp only [List.mem_singleton] at hf
    rw [hf, hfl]

/-- `Ready` gives every test of the issue of an operation made of the instruction's own fields. -/
theorem Ready.clear {s : State} {gid sid : Nat} {e : Enc} (r : Ready s gid sid e) (wd : Bool) (srcs : List (Src × Bool))
    (act : State → Run → State) (hs : inPorts srcs = inPorts e.sources) : Clear s (e.laneOp wd srcs act) gid sid where
  sub := by
    apply lowestSub_zero
    intro c hc
    have hg : (s.calmed gid).group gid = s.calm gid := State.group_setGroup_same ..
    simp only [hg, List.mem_cons, List.not_mem_nil, or_false] at hc
    rcases hc with rfl | rfl | rfl | rfl
    · exact r.legal
    · exact if_neg (Nat.not_lt.mpr r.window)
    · rw [if_pos]
      rw [List.all_eq_true]
      intro i hi
      exact r.bound i (by rw [← hs]; exact hi)
    · rfl
  priv := rfl
  score := Nat.zero_le _
  memory := fun h => by cases h
  lanes := r.lanes
  check := rfl
  deferred := rfl
  full := fun i hi => r.full i (by rw [← hs]; exact hi)
  empty := fun i hi => r.empty i hi
  order := by
    have := r.order
    rw [← hs] at this
    exact this
  held := rfl

/-- What an instruction reads from a source field does not depend on what its issue has noted. -/
theorem State.portView_of (s b : State) (gid : Nat) (hf : b.fresh = s.fresh + 1) (hw : b.wgs = s.wgs)
    (h0 : (b.group gid).fresh = [])
    (h1 : (b.group gid).wg = (s.group gid).wg) (h2 : (b.group gid).ports = (s.group gid).ports) :
    b.portView gid =
      { State.portView { s with fresh := s.fresh + 1 } gid with seen := fun g _ => g } := by
  have h3 : (b.group gid).port = (s.group gid).port := by funext k; simp only [Group.port, h2]
  have h4 : b.wg = s.wg := by funext k; simp only [State.wg, hw]
  simp only [State.portView, State.wgOf, h1, h3, h4, hf, State.seen_nil b gid h0]
  rfl

/-- The lane values of a per-lane integer instruction. -/
def Alu.value (u : Alu) (s : State) (gid : Nat) (e : Enc) (lane : Nat) : DWord :=
  u.result (isSignedTy e.x.ty) (u.f (s.operand gid e u.how u.wa e.x.a lane)
    (if 2 ≤ u.n then s.operand gid e u.howB u.wb e.x.b lane else 0)
    (if 3 ≤ u.n then s.operand gid e u.how u.wc e.x.cSrc lane else 0))

/-- The same from the group and the ports it reads. -/
def Alu.valueIn (u : Alu) (x : Ext) (g : Group) (pv : PortView) (lit : Option DWord) (lane : Nat) : DWord :=
  u.result (isSignedTy x.ty) (u.f (readSrc g pv lit u.how u.wa x.a lane)
    (if 2 ≤ u.n then readSrc g pv lit u.howB u.wb x.b lane else 0)
    (if 3 ≤ u.n then readSrc g pv lit u.how u.wc x.cSrc lane else 0))

theorem Alu.core_eq (u : Alu) (x : Ext) (b : State) (r : Run) :
    u.core x b r = b.writeFixed r.gid r.sid x.d u.wd u.latency
      (laneList r.eff (u.valueIn x r.g (b.portView r.gid) r.lit)) 0 := rfl

/-- EVERY PER-LANE INTEGER INSTRUCTION completes under `Quiet` and `Ready` with its lanes' values. -/
theorem Enc.alu_done (e : Enc) (u : Alu) (s : State) (gid sid : Nat) (q : Quiet s gid sid) (r : Ready s gid sid e)
    (hs : inPorts (u.srcs e.x) = inPorts e.sources)
    (hd : e.x.d.cls = .v ∨ e.x.d.cls = .o ∨ e.x.d.cls = .g ∨ e.x.d.cls = .p ∨ e.x.d.cls = .port) :
    ∃ t, e.alu u s = .next t ∧ Done s t gid sid e u.wd u.latency (u.value s gid e) 0 := by
  refine ⟨s.issueSplit (e.laneOp u.wd (u.srcs e.x) (u.core e.x)) gid sid, ?_, ?_⟩
  · simp only [Enc.alu, State.run, State.issue, q.who]
  · refine State.issueSplit_done s _ gid sid e u.wd u.latency _ 0 q (r.clear u.wd (u.srcs e.x) _ hs) rfl rfl rfl rfl rfl
      hs rfl hd ?_
    intro b hk hf hw h0 h1 h2
    have hp := State.portView_of s b gid hf hw h0 h1 h2
    refine (Alu.core_eq u e.x b _).trans ?_
    show b.writeFixed gid sid e.x.d u.wd u.latency (laneList (s.lanes gid sid e) (u.valueIn e.x
      (s.calm gid) (b.portView gid) e.x.lit)) 0 = _
    rw [hp]
    rfl

end Sys2Proof.Machine
end

