-- ==== Sys2Proof/Laws/Meaning.lean ====
section
/-! SUPPORT. The meaning of an encoded instruction by its extended opcode, for both of its forms. -/

namespace Sys2Proof.Machine

/-- The meaning of an encoding by its extended opcode. -/
def Enc.exec (e : Enc) (s : State) : Option Res :=
  match e.xop with
  | 0x000 => some (e.iadd s)
  | 0x001 => some (execIadd3 e.x s)
  | 0x002 => some (e.isub s)
  | 0x003 => some (e.imul s)
  | 0x004 => some (e.imulh s)
  | 0x005 => some (e.imad s)
  | 0x006 => some (execIdiv e.x s)
  | 0x007 => some (execIrem e.x s)
  | 0x008 => some (e.imin s)
  | 0x009 => some (e.imax s)
  | 0x00A => some (e.iabs s)
  | 0x00B => some (e.ineg s)
  | 0x00C => some (execIdot4 e.x s)
  | 0x00D => some (execLea e.x s)
  | 0x040 => some (e.and s)
  | 0x041 => some (e.or s)
  | 0x042 => some (e.xor s)
  | 0x043 => some (e.andn s)
  | 0x044 => some (e.not s)
  | 0x045 => some (e.shl s)
  | 0x046 => some (e.shr s)
  | 0x047 => some (e.sar s)
  | 0x048 => some (e.rotl s)
  | 0x049 => some (e.popc s)
  | 0x04A => some (execClz e.x s)
  | 0x04B => some (execCtz e.x s)
  | 0x04C => some (execBrev e.x s)
  | 0x04D => some (execBfx e.x s)
  | 0x04E => some (execBfi e.x s)
  | 0x080 => some (execIcmp e.x s)
  | 0x081 => some (execIsel e.x s)
  | 0x082 => some (e.mov s)
  | 0x083 => some (execMovl e.x s)
  | 0x084 => some (execPand e.x s)
  | 0x085 => some (execPor e.x s)
  | 0x086 => some (execPxor e.x s)
  | 0x087 => some (execPnot e.x s)
  | 0x088 => some (execPmov e.x s)
  | 0x0C0 => some (execVote e.x s)
  | 0x0C1 => some (execShfl e.x s)
  | 0x0C2 => some (execRedux e.x s)
  | 0x0C3 => some (execScan e.x s)
  | 0x0C4 => some (execXchg e.x s)
  | 0x100 => some (execBra e.x s)
  | 0x101 => some (execBrd e.x s)
  | 0x102 => some (execJoin e.x s)
  | 0x103 => some (execLoop e.x s)
  | 0x104 => some (execBrk e.x s)
  | 0x105 => some (execCall e.x s)
  | 0x106 => some (execRet e.x s)
  | 0x107 => some (execJmpi e.x s)
  | 0x108 => some (e.exit s)
  | 0x109 => some (e.nop s)
  | 0x10A => some (execYield e.x s)
  | 0x140 => some (e.fadd s)
  | 0x141 => some (e.fsub s)
  | 0x142 => some (e.fmul s)
  | 0x143 => some (e.ffma s)
  | 0x144 => some (e.fmin s)
  | 0x145 => some (e.fmax s)
  | 0x146 => some (execFcmp e.x s)
  | 0x147 => some (execFclass e.x s)
  | 0x148 => some (execFdiv e.x s)
  | 0x180 => some (execFrcp e.x s)
  | 0x181 => some (execFrsq e.x s)
  | 0x182 => some (execFsqrt e.x s)
  | 0x183 => some (execFex2 e.x s)
  | 0x184 => some (execFlg2 e.x s)
  | 0x185 => some (execFsin e.x s)
  | 0x186 => some (execFcos e.x s)
  | 0x187 => some (execFrnd e.x s)
  | 0x188 => some (execCvt e.x s)
  | 0x189 => some (execCvtsc e.x s)
  | 0x1C0 => some (e.hadd2 s)
  | 0x1C1 => some (e.hmul2 s)
  | 0x1C2 => some (e.hfma2 s)
  | 0x1C3 => some (execHdot2 e.x s)
  | 0x1C4 => some (execQdot4 e.x s)
  | 0x200 => some (e.ld s)
  | 0x201 => some (e.st s)
  | 0x202 => some (execLdfe e.x s)
  | 0x203 => some (execStfe e.x s)
  | 0x204 => some (execSbind e.x s)
  | 0x205 => some (execSclose e.x s)
  | 0x240 => some (execAtom e.x s)
  | 0x241 => some (execRed e.x s)
  | 0x242 => some (execFence e.x s)
  | 0x243 => some (execFencex e.x s)
  | 0x244 => some (execFencea e.x s)
  | 0x280 => some (execCpy e.x s)
  | 0x281 => some (execCpyt e.x s)
  | 0x282 => some (execCpyg e.x s)
  | 0x283 => some (execCpyr e.x s)
  | 0x2C0 => some (execTld e.x s)
  | 0x2C1 => some (execTst e.x s)
  | 0x2C2 => some (execTmov e.x s)
  | 0x2C3 => some (execMzero e.x s)
  | 0x2C4 => some (execMma e.x s)
  | 0x2C5 => some (execMloop e.x s)
  | 0x2C6 => some (execMlda e.x s)
  | 0x2C7 => some (execMsta e.x s)
  | 0x2C8 => some (execMcvt e.x s)
  | 0x300 => some (execBfence e.x s)
  | 0x301 => some (execBwait e.x s)
  | 0x302 => some (execBpoll e.x s)
  | 0x303 => some (execQinit e.x s)
  | 0x304 => some (execQenq e.x s)
  | 0x305 => some (execQdeq e.x s)
  | 0x306 => some (execQstat e.x s)
  | 0x307 => some (execMusterInit e.x s)
  | 0x308 => some (execMusterArrive e.x s)
  | 0x309 => some (execMusterWait e.x s)
  | 0x30A => some (execMusterPoll e.x s)
  | 0x30B => some (execClaim e.x s)
  | 0x30C => some (execGive e.x s)
  | 0x30D => some (execRelay e.x s)
  | 0x30E => some (execCancel e.x s)
  | 0x30F => some (execCntrd e.x s)
  | 0x310 => some (execBar e.x s)
  | 0x340 => some (execNmdot e.x s)
  | 0x341 => some (execNmdist e.x s)
  | 0x342 => some (execNmlut e.x s)
  | 0x343 => some (execNmred e.x s)
  | 0x344 => some (execNmfill e.x s)
  | 0x345 => some (execSearch e.x s)
  | 0x346 => some (execScancel e.x s)
  | 0x380 => some (execWnode e.x s)
  | 0x381 => some (execWnbr e.x s)
  | 0x382 => some (execWdist e.x s)
  | 0x383 => some (execWheap e.x s)
  | 0x384 => some (execWkth e.x s)
  | 0x385 => some (execWvisit e.x s)
  | 0x386 => some (execWhop e.x s)
  | 0x387 => some (execWspawn e.x s)
  | 0x388 => some (execWend e.x s)
  | 0x3C0 => some (execTrap e.x s)
  | 0x3C1 => some (execRtt e.x s)
  | 0x3C2 => some (execTmask e.x s)
  | 0x3C3 => some (execTunmask e.x s)
  | 0x3C4 => some (execSrd e.x s)
  | 0x3C5 => some (execSwr e.x s)
  | 0x3C6 => some (execBkpt e.x s)
  | 0x3C7 => some (execPfrd e.x s)
  | 0x3C8 => some (execTime e.x s)
  | 0x3C9 => some (execSleep e.x s)
  | _ => none

/-- EXECUTING A CORE INSTRUCTION is the meaning of its extended opcode. -/
theorem exec_of_enc {i : Instr} {e : Enc} (s : State) (h : encOf i = some e) : e.exec s = some (exec i s) := by
  cases i <;> first | (cases h; rfl) | cases h

/-- The extended opcodes that base instructions have too (R82). -/
def hasBase (xop : Nat) : Bool :=
  [0x0, 0x2, 0x3, 0x4, 0x5, 0x8, 0x9, 0xa, 0xb, 0x40, 0x41, 0x42, 0x43, 0x44, 0x45, 0x46, 0x47, 0x48, 0x49, 0x82, 0x108, 0x109, 0x140, 0x141, 0x142, 0x143, 0x144, 0x145, 0x1c0, 0x1c1, 0x1c2, 0x200, 0x201].contains xop

/-- Every other encoding is the extended one. -/
theorem ofExt_of_enc {i : Instr} {e : Enc} (h : encOf i = some e) (hb : hasBase e.xop = false) :
    e = Enc.ofExt e.xop e.x := by
  cases i <;> first | (cases h; rfl) | (cases h; exact absurd hb (by simp [Enc.ofBase, hasBase])) | cases h

end Sys2Proof.Machine
end

