-- ==== Sys2Proof/Laws/Takes.lean ====
section
/-! SUPPORT. From `Quiet` and `Legal` to `Takes`: what is left to show of an instruction without ports is its own tests and
what its action does to the state in which it acts. -/

namespace Sys2Proof.Machine

/-- The issue tests of an operation that names no port, from `Legal` and the operation's own tests. -/
theorem Legal.clearOp {s : State} {gid sid : Nat} {e : Enc} (r : Legal s gid sid e) (op : Op)
    (hsub : op.sub = e.sub) (htop : op.vTop = vTopOf e.xop e.x) (hin : op.portsIn = []) (hout : op.portsOut = [])
    (hdyn : op.dyn (s.calmed gid) gid sid = 0) (hpriv : op.priv = false) (hscore : op.score ≤ 64)
    (hmem : op.memory = true → s.permitted gid = true) (hgp : op.gp = e.x.gp.toNat) (hgn : op.gn = e.x.gn)
    (hcheck : op.check (s.calmed gid) (s.runOf op gid sid) = .ok)
    (hdef : op.deferred (s.calmed gid) (s.runOf op gid sid) = none)
    (hheld : op.held (s.calmed gid) (s.runOf op gid sid) = none) : Clear s op gid sid where
  sub := by
    apply lowestSub_zero
    intro c hc
    have hg : (s.calmed gid).group gid = s.calm gid := State.group_setGroup_same ..
    simp only [hg, List.mem_cons, List.not_mem_nil, or_false] at hc
    rcases hc with rfl | rfl | rfl | rfl
    · rw [hsub]; exact r.legal
    · rw [htop]; exact if_neg (Nat.not_lt.mpr r.window)
    · rw [hin, hout]; rfl
    · exact hdyn
  priv := hpriv
  score := hscore
  memory := hmem
  lanes := by
    have := r.lanes
    simpa only [State.runOf, State.lanes, hgp, hgn] using this
  check := hcheck
  deferred := hdef
  full := by rw [hin]; intro i hi; cases hi
  empty := by rw [hout]; intro i hi; cases hi
  order := by rw [hin, hout]; rfl
  held := hheld

@[simp] theorem State.runOf_gid (s : State) (op : Op) (gid sid : Nat) : (s.runOf op gid sid).gid = gid := rfl
@[simp] theorem State.runOf_sid (s : State) (op : Op) (gid sid : Nat) : (s.runOf op gid sid).sid = sid := rfl
@[simp] theorem State.runOf_pc (s : State) (op : Op) (gid sid : Nat) :
    (s.runOf op gid sid).pc = ((s.group gid).split sid).pc := rfl
@[simp] theorem State.runOf_g (s : State) (op : Op) (gid sid : Nat) : (s.runOf op gid sid).g = s.calm gid := rfl
@[simp] theorem State.runOf_active (s : State) (op : Op) (gid sid : Nat) :
    (s.runOf op gid sid).active = ((s.group gid).split sid).mask := rfl
@[simp] theorem State.runOf_lit (s : State) (op : Op) (gid sid : Nat) : (s.runOf op gid sid).lit = op.lit := rfl

/-- The lanes of the running instruction. -/
theorem State.runOf_eff (s : State) (op : Op) (gid sid : Nat) (e : Enc) (hgp : op.gp = e.x.gp.toNat) (hgn : op.gn = e.x.gn) :
    (s.runOf op gid sid).eff = s.lanes gid sid e := by
  simp only [State.runOf, State.lanes, hgp, hgn]

/-- AN OPERATION WITHOUT PORTS IS EXECUTED: what its action does to the state in which it acts. -/
theorem Takes.of {i : Instr} {s : State} {gid sid : Nat} {e : Enc} {op : Op} {w : WalkOp} {post : State → State → Prop}
    (hexec : exec i s = s.run op w) (q : Quiet s gid sid) (c : Clear s op gid sid) (hsize : op.size = e.size)
    (hstall : op.stall = e.x.stall.toNat) (hends : op.ends = false) (hin : op.portsIn = [])
    (h : ∀ b, Began s b gid sid e.size e.x.stall.toNat → post b (op.act b (s.runOf op gid sid))) :
    Takes i s gid sid e post := by
  obtain ⟨b, hb, hi⟩ := State.issueSplit_began s op gid sid q c hends
  rw [hsize, hstall] at hb
  refine ⟨b, s.issueSplit op gid sid, ?_, hb, ?_⟩
  · rw [hexec]; simp only [State.run, State.issue, q.who]
  · rw [hi, hin]; exact h b hb

theorem State.advance_spent (n : State) (r : Run) :
    (n.setWg (n.group r.gid).wg { n.wgOf r.gid with restartable := false }).advance r = (n.advance r).spent r.gid := by
  have h : ((n.advance r).group r.gid).wg = (n.group r.gid).wg := by
    unfold State.advance
    simp only [State.group_setGroup_same]
    rfl
  unfold State.spent State.wgOf
  rw [h]
  rfl

theorem State.effect_spent (s : State) (op : Op) (r : Run) (act : State → Run → State)
    (h1 : (s.group r.gid).stepping = false) (h2 : op.ends = true) :
    s.effect op r act = act ((s.began op r).spent r.gid) r := by
  unfold State.effect
  simp only [h1, h2, Bool.false_and, State.stepDue_false, State.began, if_true]
  rw [← State.advance_spent]

/-- The same for an operation that ends restartability (R328). -/
theorem Takes.ofSpent {i : Instr} {s : State} {gid sid : Nat} {e : Enc} {op : Op} {w : WalkOp} {post : State → State → Prop}
    (hexec : exec i s = s.run op w) (q : Quiet s gid sid) (c : Clear s op gid sid) (hsize : op.size = e.size)
    (hstall : op.stall = e.x.stall.toNat) (hends : op.ends = true) (hin : op.portsIn = [])
    (h : ∀ b, Began s b gid sid e.size e.x.stall.toNat → post b (op.act (b.spent gid) (s.runOf op gid sid))) :
    Takes i s gid sid e post := by
  have hstep : ((s.calmed gid).group gid).stepping = false := by
    rw [show (s.calmed gid).group gid = s.calm gid from State.group_setGroup_same ..]
    exact q.noStep
  have hb := State.began_spec s op gid sid
  rw [hsize, hstall] at hb
  refine ⟨_, s.issueSplit op gid sid, ?_, hb, ?_⟩
  · rw [hexec]; simp only [State.run, State.issue, q.who]
  · have he : s.issueSplit op gid sid =
        op.act (((s.calmed gid).began op (s.runOf op gid sid)).spent gid) (s.runOf op gid sid) := by
      rw [State.issueSplit_clear s op gid sid q c, hin]
      exact State.effect_spent _ _ _ _ hstep hends
    rw [he]; exact h _ hb

/-- What an action that stores one group leaves. -/
theorem OnlyGroup.setGroup (b : State) (gid : Nat) (g : Group) : OnlyGroup b (b.setGroup gid g) gid :=
  ⟨rfl, fun _ hk => State.group_setGroup_ne _ _ hk⟩

/-- What an action that stores one split leaves. -/
theorem OnlySplit.setSplit (b : State) (gid sid : Nat) (x : Split) :
    OnlySplit b (b.setGroup gid ((b.group gid).setSplit sid x)) gid sid where
  only := OnlyGroup.setGroup _ _ _
  group := by rw [State.group_setGroup_same]; rfl
  splits := by intro k hk; rw [State.group_setGroup_same, Group.split_setSplit_ne _ _ hk]

end Sys2Proof.Machine
end

