-- ==== Sys2Proof/Tests/Slice0.lean ====
section
/-! SUPPORT. Tests: words written out from the spec's encoding tables, ill-formed terms that the checks refuse, single steps
on small states, and for every statement with premises a state and operands that meet them. -/

namespace Sys2Proof.Tests

set_option Elab.async false

open Sys2Proof Sys2Proof.Machine Sys2Proof.Machine.Rules

/-! ### Small states and operands -/

/-- One group on core 0, about to issue. -/
def st (f : Group → Group := id) : State := { State.reset with
  booted := true, who := .split 0 0, groups := [(0, f placeGroup)], wgs := [(1, placeWorkgroup)],
  ctxs := [(0, placeContext)], launches := [(1, placeLaunch)] }

/-- Register operands: v, o, g, p, a port, an immediate. -/
def v (n : Nat) : Src := { cls := .v, idx := BitVec.ofNat 8 n, pat := .ident, param := 0, neg := false }
def g (n : Nat) : Src := { v n with cls := .g }
def p (n : Nat) : Src := { v n with cls := .p }
def im (n : Nat) : Src := { v n with cls := .imm }
def lt : Src := { v 0 with cls := .lit }
def dv (n : Nat) : Dst := { cls := .v, idx := BitVec.ofNat 8 n, sat := false }
def dg (n : Nat) : Dst := { dv n with cls := .g }
def dp (n : Nat) : Dst := { dv n with cls := .p }

/-- An extended instruction's fields. -/
def ext (mod : Nat) (d : Dst := Dst.zero) (a b : Src := Src.zero) (c : BitVec 12 := 0) (lit : Option (BitVec 64) := none) : Ext :=
  { stall := 3, gp := 0, gn := false, mod := BitVec.ofNat 10 mod, a := a, d := d, b := b, c := c, lit := lit }

/-- MOD of a type and op bits. -/
def ty (t : Nat) (op : Nat := 0) : Nat := t * 32 + op

theorem quiet {s : State} {gid sid : Nat}
    (h : s.who = .split gid sid ∧ (s.calm gid).fresh = [] ∧ (s.group gid).pending = [] ∧ (s.group gid).deferred = [] ∧
      (s.group gid).traps.length ≤ 4 ∧ (s.group gid).stepping = false ∧
      (s.ctx (s.group gid).ctx).matchBp ((s.group gid).split sid).pc = none) : Quiet s gid sid :=
  ⟨h.1, h.2.1, h.2.2.1, h.2.2.2.1, h.2.2.2.2.1, h.2.2.2.2.2.1, .inr h.2.2.2.2.2.2⟩

theorem legal {s : State} {gid sid : Nat} {e : Enc}
    (h : e.sub = 0 ∧ vTopOf e.xop e.x ≤ (s.group gid).winSize ∧ s.lanes gid sid e ≠ 0) : Legal s gid sid e :=
  ⟨h.1, h.2.1, h.2.2⟩

theorem ready {s : State} {gid sid : Nat} {e : Enc} (h : Legal s gid sid e)
    (k : (∀ i ∈ inPorts e.sources ++ outPorts e.x.d, ((s.group gid).port i).bound = true) ∧
      (∀ i ∈ inPorts e.sources, s.portFull gid i = true) ∧ (∀ i ∈ outPorts e.x.d, s.portEmpty gid i = true) ∧
      (s.calmed gid).portsOrdered gid sid (inPorts e.sources ++ outPorts e.x.d) = true) : Ready s gid sid e :=
  ⟨h, k.1, k.2.1, k.2.2.1, k.2.2.2⟩

/-- The state an instruction or event leaves. -/
def after (i : Instr) (s : State) : State :=
  match exec i s with
  | .next t => t
  | _ => s

/-- A register of the window in a lane, after an instruction of the group. -/
def vOf (s : State) (n lane : Nat) : Word := (s.group 0).rows.get 0 ((s.group 0).row n * 32 + lane)

/-- The instruction of these fields is legal where `s` stands, and issues at once. -/
def Meets (i : Instr) (s : State) (e : Enc) : Prop := encOf i = some e ∧ Quiet s 0 0 ∧ Legal s 0 0 e

theorem meets {i : Instr} {s : State} {e : Enc} (h : encOf i = some e)
    (q : s.who = .split 0 0 ∧ (s.calm 0).fresh = [] ∧ (s.group 0).pending = [] ∧ (s.group 0).deferred = [] ∧
      (s.group 0).traps.length ≤ 4 ∧ (s.group 0).stepping = false ∧
      (s.ctx (s.group 0).ctx).matchBp ((s.group 0).split 0).pc = none)
    (l : e.sub = 0 ∧ vTopOf e.xop e.x ≤ (s.group 0).winSize ∧ s.lanes 0 0 e ≠ 0) : Meets i s e :=
  ⟨h, quiet q, legal l⟩

theorem eraseDups_length_le : ∀ (n : Nat) (l : List Nat), l.length ≤ n → l.eraseDups.length ≤ l.length
  | _, [], _ => Nat.le_refl 0
  | n + 1, a :: l, h => by
    rw [List.eraseDups_cons, List.length_cons, List.length_cons]
    have f := List.length_filter_le (fun b => !b == a) l
    have k := eraseDups_length_le n (l.filter (fun b => !b == a)) (Nat.le_trans f (Nat.le_of_succ_le_succ h))
    exact Nat.succ_le_succ (Nat.le_trans k f)

/-- Fifteen cached sectors fill no set of a slice, whichever lines share it: a state with so few meets `roomAt`. -/
theorem room {s : State} (pa : Nat) (h : s.slice.length < 16) : roomAt s pa := by
  have f := List.length_filter_le (fun k => decide (k ≠ pa / 128 ∧ s.sliceSetOf k = s.sliceSetOf (pa / 128)))
    (s.slice.keys.map (· / 4))
  rw [List.length_map, Tab.keys, List.length_map] at f
  unfold roomAt Tab.keys
  simp only [decide_not, Bool.decide_and] at *
  exact Nat.lt_of_le_of_lt (Nat.le_trans (eraseDups_length_le _ _ (Nat.le_refl _)) f) h

/-- The two rows of lanes 0 and 1 in v4 and v5. -/
def rows (a b : Word) : Tab Word := [(4 * 32, a), (5 * 32, b)]

/-! ### Arithmetic (R113 to R159) -/

def addX : Ext := ext (ty 2) (dv 6) (v 4) (v 5)

/-- Premises of IntegerArithmetic, LogicAndBits, CompareSelectMove, AcrossLanes and FloatingPoint. -/
theorem test_integer_premises :
    Meets (.iadd addX) st (Enc.ofExt 0x000 addX) ∧ Ready st 0 0 (Enc.ofExt 0x000 addX) :=
  ⟨meets rfl (by decide) (by decide), ready (legal (by decide)) (by decide)⟩

theorem test_logic_premises :
    Meets (.and addX) st (Enc.ofExt 0x040 addX) ∧ Ready st 0 0 (Enc.ofExt 0x040 addX) :=
  ⟨meets rfl (by decide) (by decide), ready (legal (by decide)) (by decide)⟩

def selX : Ext := ext (ty 2) (dv 6) (v 4) (v 5) 0x80E

theorem test_move_premises :
    Meets (.isel selX) st (Enc.ofExt 0x081 selX) ∧ Ready st 0 0 (Enc.ofExt 0x081 selX) :=
  ⟨meets rfl (by decide) (by decide), ready (legal (by decide)) (by decide)⟩

theorem test_lanes_premises :
    Meets (.shfl addX) st (Enc.ofExt 0x0C1 addX) ∧ Ready st 0 0 (Enc.ofExt 0x0C1 addX) :=
  ⟨meets rfl (by decide) (by decide), ready (legal (by decide)) (by decide)⟩

def fmaX : Ext := ext (ty 8) (dv 7) (v 4) (v 5) 0x00C

theorem test_float_premises :
    Meets (.ffma fmaX) st (Enc.ofExt 0x143 fmaX) ∧ Ready st 0 0 (Enc.ofExt 0x143 fmaX) :=
  ⟨meets rfl (by decide) (by decide), ready (legal (by decide)) (by decide)⟩

/-- With an in port and an out port, bound, full and empty. -/
def portX : Ext := ext (ty 2) { dv 2 with cls := .port } { v 0 with cls := .port } (im 1)
def portSt : State := { st (fun g => { g with
    ports := [(0, { bound := true, count := 1 }), (2, { bound := true, base := 128, count := 1 })] }) with
  wgs := [(1, { placeWorkgroup with full := (List.range 32).map (fun k => (k, true)) })] }

theorem test_port_premises :
    Meets (.iadd portX) portSt (Enc.ofExt 0x000 portX) ∧ Ready portSt 0 0 (Enc.ofExt 0x000 portX) :=
  ⟨meets rfl (by decide) (by decide), ready (legal (by decide)) (by decide)⟩

/-- R117: IADD.n32.sat of 0xFFFF_FFF0 and 0x20 gives 0xFFFF_FFFF. -/
theorem test_iadd_sat : vOf (after (.iadd (ext (ty 6) { dv 6 with sat := true } (v 4) (v 5)))
    (st (fun g => { g with rows := rows 0xFFFF_FFF0 0x20 }))) 6 0 = 0xFFFF_FFFF := by decide +kernel

/-- R117: IABS.i32 of −2^31 gives −2^31 without .sat. -/
theorem test_iabs_min : vOf (after (.iabs (ext (ty 2) (dv 6) (v 4)))
    (st (fun g => { g with rows := rows 0x8000_0000 0 }))) 6 0 = 0x8000_0000 := by decide +kernel

/-- R118: a division by zero of an i type gives −1. -/
theorem test_idiv_zero : vOf (after (.idiv (ext (ty 2) (dv 6) (v 4) (v 5)))
    (st (fun g => { g with rows := rows 7 0 }))) 6 0 = 0xFFFF_FFFF := by decide +kernel

/-- R120: position 4, length 40 of an i32: the length is 28, extended from the field's top bit. -/
theorem test_bfx_clips : vOf (after (.bfx (ext (ty 2) (dv 6) (v 4) (v 5)))
    (st (fun g => { g with rows := rows 0x8000_0010 0x2804 }))) 6 0 = 0xF800_0001 := by decide +kernel

/-- The premises of the statements on floating-point values: finite, NaN, poison, infinite and zero operands of binary32, and
binary16 halves; a conversion from binary32 to i32, to binary16 and back, from i32, and to i32 from n32. -/
theorem test_value_premises : (∀ x ∈ [0x3F80_0000, 1, 0x7F7F_FFFF, 0x8000_0000], expOf 8 x ≠ 2 ^ ebOf 8 - 1 ∧ x < 2 ^ 32) ∧
    (∀ x ∈ [0x3C00, 0x8001], ∀ j, j < 2 → expOf 9 (halfOf j (x * 65537)) ≠ 2 ^ ebOf 9 - 1) ∧
    (nan32 0x7FC0_0000 ∧ nan32 0x7F80_0001 ∧ signalling32 0x7F80_0001 ∧ ¬ signalling32 0x7FC0_0000 ∧ ¬ poison32 0x7FC0_0000 ∧
      poison32 0xFFC0_0BAD ∧ expOf 8 0x7F80_0000 = 255 ∧ manOf 8 0x7F80_0000 = 0) ∧
    valOf 8 0x3F80_0000 ≠ 0 ∧ valOf 8 0xBF80_0000 < 0 := by decide +kernel

def cvtX (src dst : Nat) : Ext := ext (ty dst) (dv 6) (v 4) (im 1) (BitVec.ofNat 12 (128 * src))
theorem test_conversion_premises : ∀ e ∈ [(8, 2), (8, 7), (8, 9), (9, 8), (11, 8), (2, 8), (6, 2)], let x := cvtX e.1 e.2
    x.srcTy = e.1 ∧ x.ty = e.2 ∧ x.m10 = 0 ∧ x.m43 = 0 ∧ x.d.sat = false := by decide +kernel

/-- R118, R120 and R122: a zero divisor and signed overflow; bit fields of every kind; the premises of BFX, BFI and IDIV. -/
theorem test_stated_premises : (Meets (.idiv addX) st (Enc.ofExt 0x006 addX) ∧ Ready st 0 0 (Enc.ofExt 0x006 addX)) ∧
    (Meets (.bfx addX) st (Enc.ofExt 0x04D addX) ∧ Ready st 0 0 (Enc.ofExt 0x04D addX)) ∧
    (Meets (.bfi selX) st (Enc.ofExt 0x04E selX) ∧ Ready st 0 0 (Enc.ofExt 0x04E selX)) ∧
    (Mask.has (st.lanes 0 0 (Enc.ofExt 0x006 addX)) 0 = true ∧ typed st 0 (Enc.ofExt 0x006 addX) .int addX.b 0 = 0) ∧
    (let s := st (fun g => { g with rows := rows 0x8000_0000 0xFFFF_FFFF });
      (typed s 0 (Enc.ofExt 0x006 addX) .int addX.a 0).toInt = -2 ^ 31 ∧ (typed s 0 (Enc.ofExt 0x006 addX) .int addX.b 0).toInt = -1) :=
  ⟨⟨meets rfl (by decide) (by decide), ready (legal (by decide)) (by decide)⟩,
    ⟨meets rfl (by decide) (by decide), ready (legal (by decide)) (by decide)⟩,
    ⟨meets rfl (by decide) (by decide), ready (legal (by decide)) (by decide)⟩, by decide +kernel⟩

/-- R84: words of the first and the last unassigned BOP, in core and in walker code. -/
theorem test_unassigned_words : ∀ n ∈ [34, 47, 61, 125], ∀ walker ∈ [false, true], let w : Word := BitVec.ofNat 32 (4 * n)
    decode walker (bytesOfWord w) = .illegal 1 (.unassignedOpcode w) 4 := by decide +kernel

/-! ### Control flow (R130 to R142) -/

def braX : Ext := ext 0 (b := im 4)
def jmpiX : Ext := ext 0 (a := g 2)
def nopX : Ext := ext 0

theorem test_jump_premises :
    Meets (.bra braX) st (Enc.ofExt 0x100 braX) ∧ Meets (.nop nopX) st (Enc.ofExt 0x109 nopX) ∧ filled st 0 ∧
    Meets (.jmpi jmpiX) st (Enc.ofExt 0x107 jmpiX) ∧ st.source 0 (Enc.ofExt 0x107 jmpiX) .int true (g 2) 0 % 4 = 0 :=
  ⟨meets rfl (by decide) (by decide), meets rfl (by decide) (by decide), by decide, meets rfl (by decide) (by decide), by decide⟩

/-- R130: the target is the instruction's address plus 4 times the offset. -/
theorem test_bra_back : (((after (.bra (ext 0 (b := im 255))) st).group 0).split 0).pc = 0x7FFFC := by decide +kernel

/-- BRD on p1, which holds in the lanes of `m`. -/
def brdX : Ext := ext 5 (a := p 1) (b := im 4)
def brdE : Enc := Enc.ofExt 0x101 brdX
def brdSt (m : Mask) (n : Nat := 1) : State := st (fun g => { g with
  p := [(1, m)],
  splits := (List.range n).map (fun k => (k, { live := true, pc := 0x80000, mask := if k = 0 then 0xFF else 0xFF <<< (8 * k) })) })

/-- No true lane; no false one; some of both with a free split; some of both with four splits. -/
theorem test_brd_premises (s : State) (h : s = brdSt 0 ∨ s = brdSt 0xFF ∨ s = brdSt 0xF ∨ s = brdSt 0xF 4) :
    Meets (.brd brdX) s brdE ∧ filled s 0 ∧ (s.group 0).tokens.length < 32 := by
  rcases h with rfl | rfl | rfl | rfl <;> exact ⟨meets rfl (by decide) (by decide), by decide, by decide⟩

theorem test_brd_clauses : brdTrue (brdSt 0) 0 0 brdE = 0 ∧ brdTrue (brdSt 0xFF) 0 0 brdE = 0xFF ∧
    brdTrue (brdSt 0xF) 0 0 brdE = 0xF ∧ ((brdSt 0xF).group 0).freeSplit = some 1 ∧
    ((brdSt 0xF 4).group 0).freeSplit = none := by decide +kernel

/-- R134 and R130: the true lanes go to the target as the lowest free split. -/
theorem test_brd_split : let t := after (.brd brdX) (brdSt 0xF)
    ((t.group 0).split 1).pc = 0x80010 ∧ ((t.group 0).split 1).mask = 0xF ∧ ((t.group 0).split 0).mask = 0xF0 := by
  decide +kernel

/-- JOIN as split 0 with the token on top. -/
def joinX : Ext := ext 0
def joinE : Enc := Enc.ofExt 0x102 joinX
def joinSt (l : List Token) : State := st (fun g => { g with
  splits := [(0, { live := true, pc := 0x80000, mask := 0xF }), (1, { live := true, pc := 0x80000, mask := 0xF0, parked := true })],
  tokens := l })
def joinTok : Token := { kind := .join, pc1 := 0x80000, sp1 := 0, sp2 := 1 }
def joinCases : List (List Token) := [[], [{ joinTok with pc1 := 0 }], [joinTok], [{ joinTok with cpk := true, maskB := 0xF0 }],
  [{ joinTok with kind := .defer, maskA := 0xF00, pc2 := 0x80010 }], [{ joinTok with kind := .defer, phase := true, maskB := 0xF00 }],
  [{ joinTok with kind := .loop, maskB := 0xF00 }]]

/-- No token; another address; a JOIN token, alone and with the partner parked; a DEFER token in both phases; a LOOP token. -/
theorem test_join_premises (l : List Token) (h : l ∈ joinCases) :
    Meets (.join joinX) (joinSt l) joinE ∧ filled (joinSt l) 0 ∧ ((joinSt l).group 0).tokSpill = 0 ∧
    (((joinSt l).group 0).split 0).live = true ∧ (((joinSt l).group 0).split 0).parked = false := by
  simp only [joinCases, List.mem_cons, List.not_mem_nil, or_false] at h
  rcases h with rfl | rfl | rfl | rfl | rfl | rfl | rfl <;>
    exact ⟨meets rfl (by decide) (by decide), by decide +kernel⟩

/-- The premises inside the clauses: two splits with lanes, a DEFER token with lanes. -/
theorem test_join_clauses : joinTok.sp1 ≠ joinTok.sp2 ∧ (0xF : Mask) ||| 0xF0 ≠ 0 ∧ (0xF00 : Mask) ≠ 0 := by decide

def loopX : Ext := ext 0 (b := im 8)
def brkX : Ext := { ext 0 with gp := 1 }
def brkSt : State := st (fun g => { g with p := [(1, 0xF)], tokens := [{ kind := .loop, pc1 := 0x80100 }] })

theorem test_loop_premises : Meets (.loop loopX) st (Enc.ofExt 0x103 loopX) ∧ filled st 0 ∧ (st.group 0).tokSpill = 0 ∧
    (st.group 0).tokens.length < 32 := ⟨meets rfl (by decide) (by decide), by decide, by decide, by decide⟩

theorem test_brk_premises : Meets (.brk brkX) brkSt (Enc.ofExt 0x104 brkX) ∧ filled brkSt 0 ∧ (brkSt.group 0).tokSpill = 0 ∧
    ((brkSt.group 0).tokens[(brkSt.group 0).tokens.findIdx (fun t => t.kind = .loop)]? =
      some { kind := .loop, pc1 := 0x80100 }) ∧
    ((brkSt.group 0).split 0).mask &&& ~~~(brkSt.lanes 0 0 (Enc.ofExt 0x104 brkX)) ≠ 0 :=
  ⟨meets rfl (by decide) (by decide), by decide +kernel⟩

/-- CALL of 8 rows 8 rows up, at the least and the greatest frame that fit; RET of such an entry. -/
def callX (f : Nat) : Ext := ext f (d := dv 8) (b := im 8)
def retSt : State := st (fun g => { g with rets := [⟨0x80010, 0, 256, 256, 0⟩], winBase := 8, winSize := 8 })

theorem test_call_premises (f : Nat) (h : f = 1 ∨ f = 31) : Meets (.call (callX f)) st (Enc.ofExt 0x105 (callX f)) ∧
    filled st 0 ∧ (st.group 0).liveSplits.length ≤ 1 ∧ 8 * f ≤ (st.group 0).alloc ∧ 8 + 8 * f ≤ (st.group 0).alloc ∧
    (st.group 0).rbot ≤ (st.group 0).rtop ∧ (st.group 0).rtop ≤ (st.group 0).rbot + (st.group 0).alloc ∧
    (st.group 0).rets.length < 32 ∧ 8 + 8 * f ≤ st.rowRoom 0 + (st.group 0).alloc := by
  rcases h with rfl | rfl <;>
    exact ⟨meets rfl (by decide) (by decide), by decide +kernel⟩

theorem test_ret_premises : Meets (.ret nopX) retSt (Enc.ofExt 0x106 nopX) ∧ filled retSt 0 ∧
    (retSt.group 0).liveSplits.length ≤ 1 ∧ (retSt.group 0).rets = [⟨0x80010, 0, 256, 256, 0⟩] ∧
    (retSt.group 0).tokens.length + (retSt.group 0).tokSpill ≤ 0 ∧ (retSt.group 0).rbot = 256 - (retSt.group 0).alloc :=
  ⟨meets rfl (by decide) (by decide), by decide +kernel⟩

/-- EXIT of some lanes of the split, and of all. -/
theorem test_exit_premises : Meets (.exit brkX) brkSt (Enc.ofExt 0x108 brkX) ∧ filled brkSt 0 ∧
    ((brkSt.group 0).split 0).mask &&& ~~~(brkSt.lanes 0 0 (Enc.ofExt 0x108 brkX)) ≠ 0 ∧ (brkSt.group 0).splits.length = 1 ∧
    Meets (.exit nopX) st (Enc.ofExt 0x108 nopX) ∧ filled st 0 ∧
    ((st.group 0).split 0).mask &&& ~~~(st.lanes 0 0 (Enc.ofExt 0x108 nopX)) = 0 ∧ (st.group 0).liveSplits = [0] ∧
    (st.group 0).tokens = [] ∧ (st.group 0).tokSpill = 0 ∧ ((st.group 0).split 0).parked = false :=
  ⟨meets rfl (by decide) (by decide), by decide, by decide, by decide, meets rfl (by decide) (by decide), by decide, by decide,
    by decide, by decide, by decide, by decide⟩

/-- YIELD beside a split that was ready; and a slot with two splits that its slot finds ready. -/
def peerSt : State := { (st (fun g => { g with splits :=
    [(0, { live := true, pc := 0x80000, mask := 0xF }), (1, { live := true, pc := 0x80000, mask := 0xF0 })] })).placeMemory [] with
  slots := [(0, { peers := [0, 1] })] }
theorem test_yield_premises : Meets (.yield nopX) peerSt (Enc.ofExt 0x10A nopX) ∧ filled peerSt 0 ∧
    1 ∈ ((peerSt.slot (slotOf 0)).peers).filter (fun k => decide (k ≠ 4 * 0 + 0)) ∧ ((peerSt.group 0).split 1).live = true ∧
    ((peerSt.group 0).split 1).last ≤ peerSt.cycle ∧ peerSt.cycle < peerSt.cycle + 64 :=
  ⟨meets rfl (by decide +kernel) (by decide +kernel), by decide +kernel⟩
theorem test_peers : 0 * 4 + 1 ∈ ((peerSt.noted 0 (.yield nopX)).slot (slotOf 0)).peers := by decide +kernel

/-! ### Memory instructions (R160 to R179, R270, R279) -/

/-- The page tables of R337 with the first 512 MiB mapped onto themselves, under a state. -/
def mapped (s : State) : State := s.placeMemory []
/-- The same with the bank-linear window mapped at 512 MiB. -/
def banked (s : State) : State := (mapped s).homePut (placeTable / 32) (0xF + BitVec.ofNat 256 (blBase + 15) <<< 64) false

/-- LD and ST of 32 bits in the scratchpad, memory control of R53: space sp. -/
def ldX : Ext := ext (ty 6) (dv 6) (v 4) (im 0) 0x004
/-- A release store and an acquire load of memory, 64 bits, one for the group. -/
def stRelX : Ext := ext (ty 7 + 16) (dg 6) (g 4) (im 8) 0x080

theorem test_access_premises : (Meets (.ld ldX) st (Enc.ofExt 0x200 ldX) ∧ Meets (.st ldX) st (Enc.ofExt 0x201 ldX) ∧
    Meets (.st stRelX) st (Enc.ofExt 0x201 stRelX)) ∧ st.permitted 0 = true ∧
    (∀ l ∈ lanesOf (st.lanes 0 0 (Enc.ofExt 0x200 ldX)), address st 0 (Enc.ofExt 0x200 ldX) (offset (Enc.ofExt 0x200 ldX)) l %
      width (Enc.ofExt 0x200 ldX) = 0) ∧
    (∀ l ∈ lanesOf (st.lanes 0 0 (Enc.ofExt 0x201 stRelX)),
      address st 0 (Enc.ofExt 0x201 stRelX) (offset (Enc.ofExt 0x201 stRelX)) l % width (Enc.ofExt 0x201 stRelX) = 0) ∧
    redsDone st 0 0 (fun k => k = 0) :=
  ⟨⟨meets rfl (by decide) (by decide), meets rfl (by decide) (by decide), meets rfl (by decide) (by decide)⟩, by decide +kernel⟩

def casX : Ext := ext (ty 7 + 16 + 7) (dv 6) (v 8) (v 10) 0x080
def redX : Ext := ext (ty 6) Dst.zero (v 8) (v 10) 0x040

theorem test_atomic_premises : (Meets (.atom casX) st (Enc.ofExt 0x240 casX) ∧ Meets (.red redX) st (Enc.ofExt 0x241 redX)) ∧
    st.permitted 0 = true ∧
    (∀ l ∈ lanesOf (st.lanes 0 0 (Enc.ofExt 0x240 casX)), address st 0 (Enc.ofExt 0x240 casX) 0 l % width (Enc.ofExt 0x240 casX) = 0) ∧
    (∀ l ∈ lanesOf (st.lanes 0 0 (Enc.ofExt 0x241 redX)), address st 0 (Enc.ofExt 0x241 redX) 0 l % width (Enc.ofExt 0x241 redX) = 0) ∧
    redsDone st 0 0 (fun k => k = 0) :=
  ⟨⟨meets rfl (by decide) (by decide), meets rfl (by decide) (by decide)⟩, by decide +kernel⟩

/-- FENCE.acq, .rel and .acqrel (R177), FENCEX of streams (R178). -/
def fenceX (o : Nat) : Ext := ext (8 * o) (c := 0x080)
def fencexX (m : Nat) : Ext := ext 0 (b := im m)

theorem test_fence_premises (o : Nat) (h : o = 1 ∨ o = 2 ∨ o = 3) :
    Meets (.fence (fenceX o)) st (Enc.ofExt 0x242 (fenceX o)) ∧ redsDone st 0 0 (fun _ => true) ∧ st.permitted 0 = true := by
  rcases h with rfl | rfl | rfl <;> exact ⟨meets rfl (by decide) (by decide), by decide +kernel⟩

/-- A mask of two streams, and one of one stream. -/
theorem test_fencex_premises (m : Nat) (h : m = 3 ∨ m = 4) :
    Meets (.fencex (fencexX m)) st (Enc.ofExt 0x243 (fencexX m)) ∧
    ((List.range 16).countP (fun k => (BitVec.ofNat 16 (st.source 0 (Enc.ofExt 0x243 (fencexX m)) .int true (im m) 0)).getLsbD k) < 2 ↔
      m = 4) := by
  rcases h with rfl | rfl <;> exact ⟨meets rfl (by decide) (by decide), by decide +kernel⟩

/-- FENCEA of g4 and g6 bytes: none, more than 16 MiB, one page. -/
def fenceaX : Ext := ext 0 (a := g 4) (b := g 6)
def fenceaSt (n : DWord) : State := mapped (st (fun x => { x with g := [(4, 0x90010), (6, n)] }))

theorem test_fencea_premises (n : DWord) (h : n = 0 ∨ n = 0x1000001 ∨ n = 1 ∨ n = 0xFFF0) :
    Meets (.fencea fenceaX) (fenceaSt n) (Enc.ofExt 0x244 fenceaX) ∧ (fenceaSt n).permitted 0 = true := by
  rcases h with rfl | rfl | rfl | rfl <;> exact ⟨meets rfl (by decide +kernel) (by decide +kernel), by decide +kernel⟩

theorem test_fencea_range : let s := fenceaSt 0xFFF0
    s.source 0 (Enc.ofExt 0x244 fenceaX) .int true (g 6) 0 = 0xFFF0 ∧
    (0x90010 / 128 * 128) / 65536 = (0x90010 / 128 * 128 + (16 + 0xFFF0 + 127) / 128 * 128 - 1) / 65536 ∧
    (s.group 0).accs = [] ∧ (s.group 0).ops = [] ∧ s.translate 0 false false 0 0x90000 = .ok 0x90000 0xF 0x40000 ∧
    s.rangeBusy (s.calm 0) [(0x90000, 65536)] = false ∧ s.dram (0x90000 / 32 * 32) / 32 ≠ s.dram ((0x90000 / 32 + 1) * 32) / 32 := by
  decide +kernel

/-- No set of a slice holds more than 16 lines when there are so few; the sectors of one line lie apart in DRAM. -/
theorem test_no_overflow : noSetOverflows (fenceaSt 1) 0x90000 128 := fun n =>
  Nat.le_trans (eraseDups_length_le _ _ (Nat.le_refl _)) (Nat.le_trans (List.length_filter_le _ _)
    (by decide +kernel : (((fenceaSt 1).slice.keys ++ (List.range (128 / 32)).map (0x90000 / 32 + ·)).map (· / 4)).length ≤ 16))
theorem test_places_apart (j k : Nat) (hj : inBytes 0x90000 128 j) (hk : inBytes 0x90000 128 k)
    (h : (fenceaSt 1).dram (j * 32) / 32 = (fenceaSt 1).dram (k * 32) / 32) : j = k := by
  have d : ∀ a, a < 4 → ∀ b, b < 4 →
      (fenceaSt 1).dram ((0x4800 + a) * 32) / 32 = (fenceaSt 1).dram ((0x4800 + b) * 32) / 32 → a = b := by decide +kernel
  unfold inBytes at hj hk
  obtain ⟨a, rfl⟩ : ∃ a, j = 0x4800 + a := ⟨j - 0x4800, by omega⟩
  obtain ⟨b, rfl⟩ : ∃ b, k = 0x4800 + b := ⟨k - 0x4800, by omega⟩
  rw [d a (by omega) b (by omega) h]

/-- LDFE of full words, STFE and STFE.init of empty ones. -/
def ldfeX : Ext := ext 0xC0 (dv 6) (v 4) (im 0) 0x004
def stfeX (m : Nat) : Ext := ext (0xC0 + m) (if m = 2 then Dst.zero else dv 6) (v 4) (im 0) 0x004
def feSt (full : Bool) : State := { st (fun x => { x with rows := (List.range 32).map (fun l => (4 * 32 + l, BitVec.ofNat 32 (4 * l))) }) with
  wgs := [(1, { placeWorkgroup with full := if full then (List.range 32).map (fun k => (k, true)) else [] })] }

theorem test_full_empty_premises :
    (Meets (.ldfe ldfeX) (feSt true) (Enc.ofExt 0x202 ldfeX) ∧ Meets (.stfe (stfeX 0)) (feSt false) (Enc.ofExt 0x203 (stfeX 0)) ∧
      Meets (.stfe (stfeX 1)) (feSt true) (Enc.ofExt 0x203 (stfeX 1)) ∧ Meets (.stfe (stfeX 2)) (feSt true) (Enc.ofExt 0x203 (stfeX 2))) ∧
    ((feSt true).permitted 0 = true ∧ ((feSt true).group 0).accs = [] ∧ ((feSt true).group 0).ops = [] ∧ ((feSt true).core 0).matrix = []) ∧
    (∀ l ∈ lanesOf ((feSt true).lanes 0 0 (Enc.ofExt 0x202 ldfeX)), let a := address (feSt true) 0 (Enc.ofExt 0x202 ldfeX) 0 l
      a % 4 = 0 ∧ a + 4 ≤ ((feSt true).wgOf 0).spBytes ∧ ((feSt true).wgOf 0).isFull (a / 4) = true ∧
      ((feSt false).wgOf 0).isFull (a / 4) = false) :=
  ⟨⟨meets rfl (by decide +kernel) (by decide +kernel), meets rfl (by decide +kernel) (by decide +kernel),
    meets rfl (by decide +kernel) (by decide +kernel), meets rfl (by decide +kernel) (by decide +kernel)⟩, by decide +kernel⟩

def portD : Dst := { dv 1 with cls := .port }
def sbindX : Ext := ext 0 portD (im 0) (g 4)
def sbindSt (n : DWord) : State := st (fun x => { x with g := [(4, n)], ports := [(1, { bound := true, count := 1 })] })

/-- A ring of the least and of the greatest count that the scratchpad of 16 granules holds. -/
theorem test_sbind_premises (n : DWord) (h : n = 1 ∨ n = 2048) :
    (Meets (.sbind sbindX) (sbindSt n) (Enc.ofExt 0x204 sbindX) ∧
      Meets (.sclose (ext 0 portD)) (sbindSt n) (Enc.ofExt 0x205 (ext 0 portD))) ∧ (sbindSt n).permitted 0 = true ∧
    1 ≤ n.toNat ∧ n.toNat ≤ 8192 ∧ 128 * n.toNat ≤ ((sbindSt n).wgOf 0).spBytes ∧ (((sbindSt n).group 0).port 1).bound = true := by
  rcases h with rfl | rfl <;>
    exact ⟨⟨meets rfl (by decide +kernel) (by decide +kernel), meets rfl (by decide +kernel) (by decide +kernel)⟩, by decide +kernel⟩

/-! ### Accesses performed -/

/-- One outstanding access of lane 0 in the scratchpad, of a kind, at the first or the last bytes of it. -/
def accOf (kind : AccKind) (bytes addr : Nat) : Acc :=
  { id := 1, kind := kind, po := 1, stream := 0, scope := 0, policy := 0, space := 1, ord := 0, bytes := bytes, ty := 6,
    lanes := [{ lane := 0, addr := addr }], target := .none }
def accSt (a : Acc) : State := { st (fun x => { x with accs := [a] }) with turns := [.perform 0 1 0] }

/-- Every kind, every width, the first and the last aligned place of 16 granules. -/
theorem test_performed_premises : ∀ k ∈ [AccKind.load, .store, .atomic, .red], ∀ n ∈ [1, 2, 4, 8], ∀ a ∈ [0, 262144 - n],
    let s := accSt (accOf k n a)
    (s.booted = true ∧ s.power.state = .run) ∧ s.turns = [.perform 0 1 0] ∧
    (s.group 0).accs.find? (fun b => b.id = 1) = some (accOf k n a) ∧ s.canPerform 0 (accOf k n a) = true ∧
    s.mayWork 0 0 = true ∧ k.real = true ∧ a % n = 0 ∧ a + n ≤ (s.wgOf 0).spBytes ∧ s.matrixHolds 0 1 a n = false := by
  decide +kernel

/-- Every kind of access of g and bl memory at every scope, its page mapped. -/
def memAcc (kind : AccKind) (space scope : Nat) : Acc :=
  { accOf kind 4 (if space = 2 then 0x20100008 else 0x90008) with space := space, scope := scope }
def memSt (kind : AccKind) (space scope : Nat) : State :=
  { banked (st (fun x => { x with accs := [memAcc kind space scope] })) with turns := [.perform 0 1 0] }
def memTr (kind : AccKind) (space scope : Nat) : State × Tr :=
  (memSt kind space scope).coreTranslate 0 0 false (space = 2) (if kind.writes then 1 else 0) (if space = 2 then 0x20100008 else 0x90008)

theorem test_memory_premises : ∀ k ∈ [AccKind.load, .store, .atomic, .red], ∀ space ∈ [0, 2], ∀ scope ∈ [0, 1],
    let s := memSt k space scope
    (s.booted = true ∧ s.power.state = .run) ∧ s.turns = [.perform 0 1 0] ∧
    (s.group 0).accs.find? (fun b => b.id = 1) = some (memAcc k space scope) ∧ s.canPerform 0 (memAcc k space scope) = true ∧
    s.mayWork 0 0 = true ∧ k.real = true ∧
    (match memTr k space scope with
     | (u, .ok pa ..) => decide (pa = (if space = 2 then blBase + 0x100008 else 0x90008) ∧ u.window pa ≠ some 3 ∧ u.ecc = [] ∧ u.poison = [] ∧
        u.linePresent 0 (pa / 32) = false ∧ (u.core 0).l1 = [] ∧
        ∀ k ∈ u.slice.keys, (u.slice.look k).all (fun x => !x.poison) = true ∧
          (u.dram (k * 32) / 32 = u.dram (pa / 32 * 32) / 32 → k = pa / 32))
     | _ => false) = true := by decide +kernel

/-- So the sector is clean. -/
theorem test_clean (u : State) (sec : Nat) (h : u.ecc = []) (p : u.poison = []) (l : (u.core 0).l1 = [])
    (k : ∀ k ∈ u.slice.keys, (u.slice.look k).all (fun x => !x.poison) = true ∧
      (u.dram (k * 32) / 32 = u.dram (sec * 32) / 32 → k = sec)) : Clean u 0 sec where
  ecc := h
  poison := p
  slice := fun n x hx => by
    have := (k n (Tab.mem_keys_of_look _ hx)).1
    rw [hx] at this
    simpa using this
  l1 := fun n x hx => by simp [State.l1Look, l, Tab.look] at hx
  alone := fun n hn => by
    rw [l] at hn
    exact (k n (by simpa [Tab.keys] using hn)).2

/-- A core that holds nothing of a sector, and one that holds its line, at every policy. -/
theorem test_core_store_premises : let s := { st with cores := [(0, { l1 := [(5, {})] })] }
    s.ecc = [] ∧ s.poison = [] ∧ s.slice.look 5 = none ∧ s.l1Look 0 5 = some {} ∧ ({} : Sector).poison = false ∧
    s.linePresent 0 8 = false := by decide

theorem test_dram_premises : Memory.wf [(3, 1), (40, 255)] = true := by decide

/-- A reply to every kind of register with current and with stale rows. -/
def replySt (t : Target) : State := st (fun x => { x with replies := [{ id := 1, target := t, vals := [(0, 7), (31, 8)] }] })

theorem test_async_premises : ∀ t ∈ [Target.v 4 4 0, .vPair 4 5 4 5 0 0, .o 0 true, .g 3, .p 0, .v 4 4 1, .none],
    let s := replySt t
    (s.group 0).replies[0]? = some { id := 1, target := t, vals := [(0, 7), (31, 8)] } ∧
    t.current (s.gens 0) = decide (t ≠ .v 4 4 1) ∧ (∀ i ∈ List.range 5, t ≠ .port i) := by decide +kernel

/-- R165: a narrow i load is sign-extended to 32 bits as it reaches its register. -/
theorem test_load_sign : let s := { accSt { accOf .load 1 0 with ty := 0, target := .v 6 6 0 } with
      wgs := [(1, { placeWorkgroup with sp := [(0, 0x80)] })] }
    (match step s with
     | .next t => ((t.group 0).replies.map (fun r => r.vals))
     | _ => []) = [[(0, 0xFFFF_FF80)]] := by decide +kernel

/-! ### Copies and batches (R180 to R188, R210, R211) -/

/-- Copies of no byte and of 16 MiB; the length stands in g8. -/
def copySt (n : DWord) : State := st (fun x => { x with g := [(4, 0x100), (6, 0x200), (8, n)] })
/-- CPY of the scratchpad from memory; CPYG from a list; CPYR both ways (C: space sp). -/
def cpyX : Ext := ext 0 (dg 8) (g 4) (g 6) 0x004
def cpygX : Ext := ext 0 (dg 8) (g 4) (g 6) 0x004
def cpyrX (put : Nat) : Ext := ext put (dg 8) (g 4) (g 6) 0x004

theorem test_copy_premises (n : DWord) (h : n = 0 ∨ n = 0x1000000) : let s := copySt n
    (Meets (.cpy cpyX) s (Enc.ofExt 0x280 cpyX) ∧ Meets (.cpyr (cpyrX 0)) s (Enc.ofExt 0x283 (cpyrX 0)) ∧
      Meets (.cpyr (cpyrX 1)) s (Enc.ofExt 0x283 (cpyrX 1))) ∧ s.permitted 0 = true ∧ copyRoom s 0 ∧
    placeA s 0 (Enc.ofExt 0x280 cpyX) 1 % 32 = 0 ∧ placeB s 0 (Enc.ofExt 0x280 cpyX) 0 % 32 = 0 ∧ copyLength n.toNat ∧
    (control s 0 (Enc.ofExt 0x283 (cpyrX 0)) 0).toNat < 2 ^ 32 ∧ (control s 0 (Enc.ofExt 0x283 (cpyrX 0)) 1).toNat < 2 ^ 19 := by
  rcases h with rfl | rfl <;>
    exact ⟨⟨meets rfl (by decide) (by decide), meets rfl (by decide) (by decide), meets rfl (by decide) (by decide)⟩, by decide +kernel⟩

theorem test_list_copy_premises (n : DWord) (h : n = 0 ∨ n = 65536) :
    Meets (.cpyg cpygX) (copySt n) (Enc.ofExt 0x282 cpygX) ∧ (copySt n).permitted 0 = true ∧ copyRoom (copySt n) 0 ∧
    placeB (copySt n) 0 (Enc.ofExt 0x282 cpygX) 0 % 16 = 0 ∧ (control (copySt n) 0 (Enc.ofExt 0x282 cpygX) 0).toNat % 2 ^ 32 ≤ 65536 := by
  rcases h with rfl | rfl <;> exact ⟨meets rfl (by decide) (by decide), by decide +kernel⟩

/-- CPYT of INT8 (R186): 128 rows of 128 columns at a pitch of 128 bytes, and one row of one column. -/
def cpytX : Ext := ext (ty 0) (dg 8) (g 4) (g 6)
def cpytSt (c : DWord) : State := st (fun x => { x with g := [(4, 0x100), (6, 0x200), (8, c)] })

theorem test_cpyt_premises (c : DWord) (h : c = 0x0000_0080_0000_7F7F ∨ c = 0x0000_0010_0000_0000) :
    Meets (.cpyt cpytX) (cpytSt c) (Enc.ofExt 0x281 cpytX) ∧ (cpytSt c).permitted 0 = true ∧ copyRoom (cpytSt c) 0 ∧
    cpytCheck 0 0 0x100 0x200 ((List.range 4).map (control (cpytSt c) 0 (Enc.ofExt 0x281 cpytX))) 0xFFFF_FFFF = .ok := by
  rcases h with rfl | rfl <;> exact ⟨meets rfl (by decide) (by decide), by decide +kernel⟩

/-- A .fe copy of one sector inside the scratchpad, to empty words at its end. -/
def feCopy : Copy := {
  id := 1, gid := 0, wg := 1, ctx := 0, super := false, kind := 0, mod := 0x140, stream := 0, scope := 0, policy := 0,
  dst := ⟨1, 262112⟩, src := ⟨1, 0⟩, ctl := [], units := [.sector ⟨1, 0⟩ ⟨1, 262112⟩] }
def engineSt (c : Copy) : State := { st with cores := [(0, { copies := [c] })] }

theorem test_fe_copy_premises : let s := engineSt feCopy
    (s.core 0).copies[0]? = some feCopy ∧ feCopy.mod.getLsbD 6 = true ∧ feCopy.staged = [] ∧ feCopy.tail = [] ∧ 262112 + 32 ≤ (s.wg 1).spBytes ∧
    (∀ j, j < 8 → (s.wg 1).isFull (262112 / 4 + j) = false) ∧ s.allDone 0 feCopy.after = true ∧ s.mayWork 0 640 = true := by decide +kernel

/-- A copy with no work left, with and without a late condition and poison. -/
theorem test_copy_end_premises : ∀ f ∈ [none, some (3, (0x40 : DWord))], ∀ b ∈ [none, some (64, true)],
    let c : Copy := { feCopy with units := [], fail := f, bad := b }
    let s := engineSt c
    (s.core 0).copies[0]? = some c ∧ c.units = [] ∧ c.staged = [] ∧ c.tail = [] ∧ c.sent = false ∧ s.allDone 0 c.after = true ∧
    s.mayWork 0 640 = true ∧ c.fail = f ∧ c.bad = b := by decide +kernel

/-- BFENCE to g8, BWAIT and BPOLL of the batch numbered by an immediate. -/
def bfenceX : Ext := ext 0 (dg 8)
def bwaitX (n : Nat) : Ext := ext 0 (b := im n)
def bpollX (n : Nat) : Ext := ext 0 (dg 8) (b := im n)
def batchSt (open' : Nat) : State := st (fun x => { x with
  unfenced := [(7, 0)], last := [(0, 9)],
  batches := (List.range open').map (fun k => { engine := 0, num := BitVec.ofNat 16 (9 + k), ops := [5], muster := none }) })

theorem test_bfence_premises (n : Nat) (h : n = 1 ∨ n = 254 ∨ n = 255) :
    Meets (.bfence bfenceX) (batchSt n) (Enc.ofExt 0x300 bfenceX) ∧
    (((batchSt n).group 0).batches.filter (fun b => b.engine = 0 && !b.gone)).length = n ∧
    ((batchSt n).group 0).unfenced.filter (fun u => u.2 = 0) ≠ [] ∧ (∀ b ∈ ((batchSt n).group 0).batches, b.ops ≠ []) := by
  rcases h with rfl | rfl | rfl <;> exact ⟨meets rfl (by decide) (by decide), by decide +kernel⟩

/-- A batch with an arrival at the muster at 0x90000, at .core and at .dev. -/
theorem test_bfence_muster_premises (c : BitVec 12) (h : c = 0 ∨ c = 0x080) :
    let x : Ext := ext 4 (dg 8) (a := g 4) (c := c)
    let s := mapped (st (fun y => { y with g := [(4, 0x90000)], unfenced := [(7, 0)] }))
    Meets (.bfence x) s (Enc.ofExt 0x300 x) ∧ (x.mod.getLsbD 2 = true ∧ (s.group 0).batches = []) ∧
    s.translate 0 false false 1 0x90000 = .ok 0x90000 0xF 0x40000 := by
  rcases h with rfl | rfl <;> exact ⟨meets rfl (by decide +kernel) (by decide +kernel), by decide +kernel⟩

/-- Batch 8 is complete, 9 is open, 10 is not closed yet. -/
theorem test_bwait_premises (n : Nat) (h : n = 8 ∨ n = 9 ∨ n = 10) :
    (Meets (.bwait (bwaitX n)) (batchSt 1) (Enc.ofExt 0x301 (bwaitX n)) ∧
      Meets (.bpoll (bpollX n)) (batchSt 1) (Enc.ofExt 0x302 (bpollX n))) ∧
    ((((batchSt 1).group 0).last.get 0 0 - BitVec.ofNat 16 n).toNat < 32768 ↔ n ≠ 10) ∧
    ((∀ b ∈ ((batchSt 1).group 0).batches, b.engine = 0 → b.gone = false → 32768 ≤ (BitVec.ofNat 16 n - b.num).toNat) ↔ n = 8) := by
  rcases h with rfl | rfl | rfl <;>
    exact ⟨⟨meets rfl (by decide) (by decide), meets rfl (by decide) (by decide)⟩, by decide +kernel⟩

/-! ### Queues, musters, rows and counters (R212 to R228) -/

/-- A queue of four slots at 0x100000 (g4), its elements at 0x200000; the element buffer at scratchpad offset g6. -/
def q4 : QBlock := { esz := 0, scope := 1, blk := false, md := true, logcap := 2, owner := 0, lq := false, head := 0, tail := 0,
                     free := 4, enqw := 0, deqw := 0, penq := 0, pdeq := 0, slots := 0x2000 }
def qSt (q : QBlock) (f : Group → Group := id) : State :=
  (mapped (st (fun x => f { x with g := [(4, 0x100000), (6, 0x1C0), (8, 0x200000)] }))).qWrite 0x100000 q

/-- The block's address is readable and writable memory. -/
theorem test_queue_object (q : QBlock) (h : q = q4 ∨ q = { q4 with tail := 1, free := 3 } ∨ q = { q4 with tail := 4, free := 0 }) :
    Object (qSt q) 0 0x100000 64 0x100000 := by
  rcases h with rfl | rfl | rfl <;>
    exact ⟨by decide, ⟨0xF, 0x40000, by decide +kernel⟩, ⟨0xF, 0x40000, by decide +kernel⟩⟩

/-- QINIT of 2 and of 65,536 slots, where there was no block and on an idle one. -/
def qinitX (cap : Nat) : Ext := ext (8 * cap + 2) Dst.zero (g 4) (g 8) 0x040
def noBlock : State := mapped (st (fun x => { x with g := [(4, 0x100000), (8, 0x200000)] }))

theorem test_qinit_premises (cap : Nat) (h : cap = 1 ∨ cap = 16) :
    Meets (.qinit (qinitX cap)) noBlock (Enc.ofExt 0x303 (qinitX cap)) ∧ Meets (.qinit (qinitX cap)) (qSt q4) (Enc.ofExt 0x303 (qinitX cap)) ∧
    (noBlock.ecc = [] ∧ (qSt q4).ecc = [] ∧ noBlock.permitted 0 = true ∧ (noBlock.group 0).accs = [] ∧ (noBlock.group 0).ops = [] ∧ (noBlock.group 0).ctx < 8 ∧
      noBlock.slice.length < 16 ∧ (qSt q4).slice.length < 16) ∧ noBlock.source 0 (Enc.ofExt 0x303 (qinitX cap)) .int true (g 8) 0 % 256 = 0 ∧
    blockValid (noBlock.peekBytes 0x100000 64) = false ∧ blockValid ((qSt q4).peekBytes 0x100000 64) = true ∧
    (qSt q4).qRead 0x100000 = q4 := by
  rcases h with rfl | rfl <;>
    exact ⟨meets rfl (by decide +kernel) (by decide +kernel), meets rfl (by decide +kernel) (by decide +kernel), by decide +kernel⟩

/-- QENQ and QDEQ of an empty, a part full and a full queue. -/
def qX (try' : Nat) : Ext := ext try' (if try' = 1 then dp 1 else Dst.zero) (g 4) (g 6) 0x044
def qFull : QBlock := { q4 with tail := 4, free := 0 }
def qSome : QBlock := { q4 with tail := 1, free := 3 }

def qSuper : State := { qSt q4 with ctxs := [(0, { placeContext with tables := [(0x210, 0x100000)] })] }
theorem test_supervisor_queue_premises : Meets (.qenq (qX 0)) qSuper (Enc.ofExt 0x304 (qX 0)) ∧ Object qSuper 0 0x100000 64 0x100000 ∧
    qSuper.permitted 0 = true ∧ (qSuper.group 0).super = false ∧ qSuper.supervisorBlock 0 0x100000 = true ∧
    queueFails (qSuper.peekBytes 0x100000 64) 0 (some 1) (qSuper.farDie 0 0x100000) false = none ∧ qSuper.slice.length < 16 :=
  ⟨meets rfl (by decide +kernel) (by decide +kernel),
   ⟨by decide, ⟨0xF, 0x40000, by decide +kernel⟩, ⟨0xF, 0x40000, by decide +kernel⟩⟩, by decide +kernel⟩

theorem test_queue_premises (q : QBlock) (h : q = q4 ∨ q = qSome ∨ q = qFull) :
    (Meets (.qenq (qX 0)) (qSt q) (Enc.ofExt 0x304 (qX 0)) ∧ Meets (.qdeq (qX 0)) (qSt q) (Enc.ofExt 0x305 (qX 0)) ∧
      Meets (.qenq (qX 1)) (qSt q) (Enc.ofExt 0x304 (qX 1)) ∧ Meets (.qdeq (qX 1)) (qSt q) (Enc.ofExt 0x305 (qX 1))) ∧
    ((qSt q).permitted 0 = true ∧ ((qSt q).group 0).accs = [] ∧ ((qSt q).group 0).ops = [] ∧ ((qSt q).group 0).ctx < 8 ∧
      (qSt q).slice.length < 16) ∧ (0x1C0 + 64 : Nat) ≤ ((qSt q).wgOf 0).spBytes ∧
    queueFails ((qSt q).peekBytes 0x100000 64) 0 (some 1) ((qSt q).farDie 0 0x100000) true = none ∧
    (qSt q).qRead 0x100000 = q ∧ (qSt q).parked 0x100000 true = [] ∧ (qSt q).parked 0x100000 false = [] ∧
    (qSt q).supervisorBlock 0 0x100000 = false ∧ q.penq < 255 ∧ q.pdeq < 255 ∧ q.free < 2 ^ 31 ∧
    (qSt q).rangeBusy ((qSt q).calm 0) (pagesOf (q.slot q.head) 64) = false := by
  rcases h with rfl | rfl | rfl <;>
    exact ⟨⟨meets rfl (by decide +kernel) (by decide +kernel), meets rfl (by decide +kernel) (by decide +kernel),
      meets rfl (by decide +kernel) (by decide +kernel), meets rfl (by decide +kernel) (by decide +kernel)⟩, by decide +kernel⟩

/-- What a QDEQ moves can be read. -/
theorem test_qdeq_reads : (match (qSt qSome).getBytes 2 { ((qSt qSome).group 0).who 0 with ctl := true } ⟨0, qSome.slot 0⟩ 64 with
    | (_, .ok bs, _) => bs.length | _ => 0) = 64 := by decide +kernel

/-- QSTAT of a valid block, and of ones that fail each check of R214 that it makes. -/
def qstatX : Ext := ext 0 (dg 10) (g 4)
theorem test_qstat_premises : (qSt qSome).ecc = [] ∧ Meets (.qstat qstatX) (qSt qSome) (Enc.ofExt 0x306 qstatX) ∧
    [qSome, { q4 with esz := 3 }, { q4 with logcap := 0 }, { q4 with free := 3 }, { q4 with owner := 1 }].map
      (fun q => queueFails ((qSt q).peekBytes 0x100000 64) 0 none ((qSt q).farDie 0 0x100000) false) =
      [none, some (0x20, 1), some (0x20, 1), some (0x20, 2), some (0x20, 3)] :=
  ⟨rfl, meets rfl (by decide +kernel) (by decide +kernel), by decide +kernel⟩

/-- An element reserved at index 0 from the scratchpad, to be published where TAIL is `n`. -/
def enqRec : Enq := {
  id := 1, gid := 0, sid := 0, block := 0x100000, index := 0, size := 64, stream := 0, space := 1, src := 0x1C0, target := .none,
  lanes := 0xFFFF_FFFF }
def waitsFor (x : Group) : Group := { x with
  splits := [(0, { live := true, pc := 0x80000, mask := 0xFFFF_FFFF, wait := .publish, why := 6 })] }
def pubSt (n : Nat) : State := { qSt { q4 with tail := n, free := 3, penq := 1 } waitsFor with enqs := [enqRec] }

/-- So few cached sectors meet `roomFor` over bytes of one line. -/
theorem room_for {s : State} {pa n : Nat} (h : s.slice.length < 16) (k : ∀ i, i < n → (pa + i) / 128 = pa / 128) : roomFor s pa n := by
  intro j hj
  have e : (List.range n).map (fun i => (pa + i) / 128) = List.replicate n (pa / 128) := by
    rw [List.eq_replicate_iff, List.length_map, List.length_range]
    refine ⟨rfl, fun x hx => ?_⟩
    obtain ⟨i, hi, rfl⟩ := List.mem_map.mp hx
    exact k i (List.mem_range.mp hi)
  rw [k j hj, e, List.filter_append]
  have z : (List.replicate n (pa / 128)).filter (fun k => k ≠ pa / 128 && s.sliceSetOf k = s.sliceSetOf (pa / 128)) = [] := by
    rw [List.filter_eq_nil_iff]
    intro x hx
    simp [List.eq_of_mem_replicate hx]
  rw [z, List.append_nil]
  exact room pa h

theorem test_publish_room {u : State} (h : u.slice.length < 16) : roomFor u 0x200000 64 :=
  room_for h (fun i hi => by omega)

theorem test_publish_premises (n : Nat) (h : n = 0 ∨ n = 1) :
    let s := pubSt n
    s.enqs = [enqRec] ∧ s.enqReady enqRec = true ∧ s.mayControl 0 = true ∧
    ((s.group 0).ctx < 8 ∧ s.slice.length < 16 ∧ (s.group 0).handler = none ∧ ((s.group 0).split 0).due = none ∧
      ((s.group 0).split 0).wait = .publish) ∧ (s.qRead 0x100000).tail = n ∧ (s.qRead 0x100000).penq = 1 ∧
    (s.qRead 0x100000).esz = 0 ∧ (s.qRead 0x100000).owner = 0 ∧ (s.qRead 0x100000).slot 0 = 0x200000 := by
  rcases h with rfl | rfl <;> decide +kernel

/-- The element can be read and written without touching the block. -/
theorem test_publish_moves (n : Nat) (h : n = 0 ∨ n = 1) : (let pubSt := pubSt n; match pubSt.getBytes 2 ((pubSt.group 0).who 0) ⟨1, 0x1C0⟩ 64 with
    | (u, .ok bs, _) =>
      (match u.putBytes 2 { (pubSt.group 0).who 0 with ctl := true } ⟨0, 0x200000⟩ bs with
       | (v, .ok []) => decide (v.peekBytes 0x100000 64 = pubSt.peekBytes 0x100000 64 ∧ (v.core 0).l1 = [] ∧ v.slice.length < 16 ∧
          pubSt.listBusy (pubSt.group 0) (regionList ((bs.map (·.1)).take 32)) = false ∧
          u.translate 0 false false 1 0x200000 = .ok 0x200000 0xF 0x40000 ∧ u.window 0x200000 ≠ some 3 ∧
          u.slice.length < 16 ∧
          pubSt.listFault (pubSt.group 0) (regionList ((bs.map (·.1)).take 32)) = none)
       | _ => false)
    | _ => false) = true := by
  rcases h with rfl | rfl <;> decide +kernel

/-- A QDEQ whose element is reserved, about to take it. -/
def takeSt : State := { qSt { q4 with head := 1, tail := 1, free := 3, pdeq := 1 } waitsFor with
  enqs := [{ enqRec with deq := true }], turns := [.element 0] }

theorem test_element_premises : (takeSt.booted = true ∧ takeSt.power.state = .run ∧ takeSt.turns = [.element 0] ∧
      takeSt.enqs[0]? = some { enqRec with deq := true } ∧ takeSt.mayControl 0 = true ∧ (takeSt.group 0).accs = [] ∧
      (takeSt.group 0).ops = [] ∧ (takeSt.group 0).handler = none ∧ ((takeSt.group 0).split 0).wait = .publish ∧
      ((takeSt.group 0).split 0).due = none ∧ 0x1C0 + 64 ≤ (takeSt.wgOf 0).spBytes ∧ 1 ≤ (takeSt.qRead 0x100000).pdeq ∧
      (takeSt.core 0).l1 = []) ∧
    (match State.getBytes 2 { takeSt with turns := [] } { (takeSt.group 0).who 0 with ctl := true }
        ⟨0, (takeSt.qRead 0x100000).slot 0⟩ 64 with
    | (u, .ok bs, _) => decide ((∀ y ∈ bs, y.2 = false) ∧ u.peekBytes 0x100000 64 = takeSt.peekBytes 0x100000 64 ∧
        u.slice.length < 16 ∧ takeSt.listBusy (takeSt.group 0) (regionList ((bs.map (·.1)).take 32)) = false ∧
        takeSt.listFault (takeSt.group 0) (regionList ((bs.map (·.1)).take 32)) = none)
    | _ => false) = true := by decide +kernel

/-- A parked QENQ with a slot freed; a parked QDEQ with an element; a polling split. -/
def parkPend : Pend := { size := 12, stall := 0, eff := 1, active := 1, target := .none, addr := 0x1C0, space := 1, scope := 1 }
def parkSt : State := { qSt { q4 with tail := 3, free := 1, enqw := 1 } (fun x => { x with
    splits := [(0, { live := true, pc := 0x80000, mask := 0xFF, wait := .queue 0x100000 true, pend := some parkPend })] }) with
  waiters := [{ gid := 0, sid := 0, block := 0x100000, enq := true }, { gid := 1, sid := 0, block := 0x100000, enq := true }] }

theorem test_waiter_premises : parkSt.parked 0x100000 true =
      [{ gid := 0, sid := 0, block := 0x100000, enq := true }, { gid := 1, sid := 0, block := 0x100000, enq := true }] ∧
    parkSt.mayStart 0 = true ∧ parkSt.stoppedWg (parkSt.group 0) = false ∧ (parkSt.qRead 0x100000).penq < 255 ∧
    ((parkSt.group 0).split 0).pend = some parkPend ∧ (parkSt.group 0).stepping = false ∧ (parkSt.qRead 0x100000).free = 1 ∧
    (parkSt.qRead 0x100000).enqw = 1 ∧ parkSt.slice.length < 16 := by decide +kernel

theorem test_deq_waiter_premises : let w : Waiter := { gid := 0, sid := 0, block := 0x100000, enq := false }
    let w' : Waiter := { w with sid := 1 }
    let s : State := { qSt { q4 with tail := 1, free := 3, deqw := 1 } (fun x => { x with
      splits := [(0, { live := true, pc := 0x80000, mask := 0xFF, wait := .queue 0x100000 false, pend := some parkPend })] }) with
      waiters := [w, w'] }
    s.parked 0x100000 false = [w, w'] ∧ s.mayStart 0 = true ∧ s.stoppedWg (s.group 0) = false ∧ (s.qRead 0x100000).pdeq < 255 ∧ ((s.group 0).split 0).pend = some parkPend ∧ (s.group 0).stepping = false ∧
    (s.qRead 0x100000).deqw = 1 ∧ ((s.qRead 0x100000).tail + 2 ^ 32 - (s.qRead 0x100000).head) % 2 ^ 32 = 1 ∧ parkPend.space = 1 ∧
    s.slice.length < 16 ∧ s.rangeBusy (s.group 0) (pagesOf ((s.qRead 0x100000).slot 0) 64) = false := by decide +kernel

theorem test_poll_premises : let s := st (fun x => { x with splits := [(0, { live := true, pc := 0x80000, mask := 1, wait := .retry 9, why := 6 })] })
    ((s.group 0).split 0).wait = .retry 9 ∧ ((s.group 0).split 0).why = 6 := by decide +kernel

/-- A muster at 0x100000 of EXPECT 5, ARRIVED 2, GEN 3, STATUS 0x0104, in scope .wg. -/
def mustSt (ex ar : Nat) (f : Group → Group := id) : State :=
  (mapped (st (fun x => f { x with g := [(4, 0x100000)] }))).homePut 0x8000
    (BitVec.ofNat 256 (ex + ar * 2 ^ 32 + 3 * 2 ^ 64 + 0x104 * 2 ^ 96 + 7 * 2 ^ 192)) false
def mustX (n : Nat) (d : Dst := Dst.zero) : Ext := ext 0 d (g 4) (im n)

theorem test_muster_object : Object (mustSt 5 2) 0 0x100000 32 0x100000 :=
  ⟨by decide, ⟨0xF, 0x40000, by decide +kernel⟩, ⟨0xF, 0x40000, by decide +kernel⟩⟩

/-- One arrival fewer than EXPECT asks, just enough, and one too many. -/
theorem test_muster_premises (n : Nat) (h : n = 2 ∨ n = 3 ∨ n = 4) :
    (Meets (.musterInit (mustX n)) (mustSt 5 2) (Enc.ofExt 0x307 (mustX n)) ∧
      Meets (.musterArrive (mustX n)) (mustSt 5 2) (Enc.ofExt 0x308 (mustX n))) ∧ (mustSt 5 2).permitted 0 = true ∧ (mustSt 5 2).ecc = [] ∧ (mustSt 5 2).waiters = [] ∧
    ((mustSt 5 2).group 0).accs = [] ∧ ((mustSt 5 2).group 0).ops = [] ∧ (mustSt 5 2).slice.length < 16 ∧
    homeBits (mustSt 5 2) 0x100000 32 225 224 = 0 ∧ homeBits (mustSt 5 2) 0x100000 32 63 32 = 2 := by
  rcases h with rfl | rfl | rfl <;>
    exact ⟨⟨meets rfl (by decide +kernel) (by decide +kernel), meets rfl (by decide +kernel) (by decide +kernel)⟩, by decide +kernel⟩

/-- R220: the arrival that reaches EXPECT moves STATUS to LASTST and clears the generation. -/
theorem test_muster_completes : let t := after (.musterArrive (mustX 3)) (mustSt 5 2)
    homeBits t 0x100000 32 95 64 = 4 ∧ homeBits t 0x100000 32 63 32 = 0 ∧ homeBits t 0x100000 32 223 192 = 0x104 := by
  decide +kernel

theorem test_arrival_premises : ∀ c ∈ [2, 3, 4], ∀ k ∈ [none, some 0],
    let a : Arrival := { addr := 0x100000, ctx := 0, count := c, status := 5, core := k, after := [7] }
    let s := { mustSt 5 2 with arrivals := [a] }
    s.arrivals[0]? = some a ∧ (s.ctx 0).dead = false ∧ s.underWay 7 = false ∧ (s.core 0).l1 = [] ∧ s.slice.length < 16 ∧ s.ecc = [] ∧ s.waiters = [] ∧ s.translate 0 false false 1 0x100000 = .ok 0x100000 0xF 0x40000 := by
  decide +kernel

/-- MUSTER.WAIT for a generation that has passed, with and without D, in two scopes; MUSTER.POLL. -/
theorem test_muster_wait_premises : (Meets (.musterWait (mustX 2 (dg 8))) (mustSt 5 2) (Enc.ofExt 0x309 (mustX 2 (dg 8))) ∧
      Meets (.musterWait (mustX 2)) (mustSt 5 2) (Enc.ofExt 0x309 (mustX 2)) ∧
      Meets (.musterPoll (ext 0 (dg 8) (g 4))) (mustSt 5 2) (Enc.ofExt 0x30A (ext 0 (dg 8) (g 4)))) ∧
    homeBits (mustSt 5 2) 0x100000 32 95 64 = 3 ∧ (mustSt 5 2).ecc = [] ∧
    homeBits ((mustSt 5 2).homePut 0x8000 (BitVec.ofNat 256 (2 ^ 224)) false) 0x100000 32 225 224 = 1 :=
  ⟨⟨meets rfl (by decide +kernel) (by decide +kernel), meets rfl (by decide +kernel) (by decide +kernel),
    meets rfl (by decide +kernel) (by decide +kernel)⟩, by decide +kernel⟩

/-- CLAIM of 8 rows (R222); .try with another claim before it; GIVE down to 8 rows. -/
def claimX (t : Nat) : Ext := ext t (dp 1) (b := g 4)
def giveX : Ext := ext 0 (b := g 4)
def claimSt (n : DWord) : State := st (fun x => { x with g := [(4, n)], phys := List.range 16, winSize := 16, rtop := 16 })

theorem test_claim_premises :
    Meets (.claim (claimX 0)) (claimSt 8) (Enc.ofExt 0x30B (claimX 0)) ∧ ((claimSt 8).group 0).liveSplits.length ≤ 1 ∧
    ((claimSt 8).group 0).rets = [] ∧ ((claimSt 8).group 0).retSpill = 0 ∧
    ((claimSt 8).group 0).alloc + 8 ≤ 1024 ∧ ((claimSt 8).claimNow 0 8).isSome = true :=
  ⟨meets rfl (by decide +kernel) (by decide +kernel), by decide +kernel⟩

theorem test_claim_try_premises : let s := { claimSt 8 with slots := [(0, { claims := [⟨1, 0, 1000⟩] })] }
    Meets (.claim (claimX 1)) s (Enc.ofExt 0x30B (claimX 1)) ∧ (s.claimNow 0 8).isNone = true :=
  ⟨meets rfl (by decide +kernel) (by decide +kernel), by decide +kernel⟩

theorem test_give_premises : Meets (.give giveX) (claimSt 8) (Enc.ofExt 0x30C giveX) ∧ 8 + 8 ≤ ((claimSt 8).group 0).alloc :=
  ⟨meets rfl (by decide +kernel) (by decide +kernel), by decide +kernel⟩

theorem test_claim_served_premises : let s := { st (fun x => { x with
      phys := List.range 16,
      splits := [(0, { live := true, pc := 0x80000, mask := 1, wait := .claim, pend := some parkPend })] }) with
      slots := [(0, { claims := [⟨0, 0, 8⟩, ⟨1, 0, 8⟩] })] }
    (s.slot 0).claims = [⟨0, 0, 8⟩, ⟨1, 0, 8⟩] ∧ slotOf 0 = 0 ∧ s.mayStart 0 = true ∧ (s.grant 0 8).isSome = true ∧
    ((s.group 0).split 0).pend = some parkPend ∧ parkPend.eff ≠ 0 ∧ (s.group 0).stepping = false := by decide +kernel

/-- RELAY; CANCEL and CNTRD of a name that is live and of one that is not. -/
def relayX : Ext := ext 0 (a := g 4) (b := g 6)
def cancelX : Ext := ext 1 (b := im 7)
def cntrdX (n : Nat) : Ext := ext 1 (dg 8) (b := im n)
def ctrSt (m : DWord) : State := { st (fun x => { x with g := [(4, 0x1000), (6, m)] }) with
  ctxs := [(0, { placeContext with counters := [{ level := 1, id := 7, ctx := 0, done := 2, expect := 5 }] })] }

theorem test_relay_premises (m : DWord) (h : m = 0 ∨ m = 0x3F_FFFF_FFFF) :
    Meets (.relay relayX) (ctrSt m) (Enc.ofExt 0x30D relayX) ∧ ((ctrSt m).group 0).liveSplits.length ≤ 1 ∧ m.toNat < 2 ^ 38 ∧
    ((ctrSt m).group 0).accs = [] ∧ (((ctrSt m).group 0).split 0).wait = .none := by
  rcases h with rfl | rfl <;> exact ⟨meets rfl (by decide +kernel) (by decide +kernel), by decide +kernel⟩

theorem test_counter_premises : (Meets (.cancel cancelX) (ctrSt 0) (Enc.ofExt 0x30E cancelX) ∧
      Meets (.cntrd (cntrdX 7)) (ctrSt 0) (Enc.ofExt 0x30F (cntrdX 7)) ∧ Meets (.cntrd (cntrdX 8)) (ctrSt 0) (Enc.ofExt 0x30F (cntrdX 8))) ∧
    (((ctrSt 0).ctx 0).counter 1 7).isSome = true ∧ (((ctrSt 0).ctx 0).counter 1 8).isNone = true :=
  ⟨⟨meets rfl (by decide +kernel) (by decide +kernel), meets rfl (by decide +kernel) (by decide +kernel),
    meets rfl (by decide +kernel) (by decide +kernel)⟩, by decide +kernel⟩

/-- BAR of the only group of its workgroup, and of one with another group still to come. -/
def barSt (l : List Nat) : State := { st with
  groups := [(0, placeGroup), (16, { placeGroup with idx := 1 })],
  wgs := [(1, { placeWorkgroup with groups := l })] }

theorem test_bar_premises (l : List Nat) (h : l = [0] ∨ l = [0, 16]) :
    Meets (.bar nopX) (barSt l) (Enc.ofExt 0x310 nopX) ∧ ((barSt l).group 0).liveSplits.length ≤ 1 ∧
    ((barSt l).group 0).accs = [] ∧ ((barSt l).group 0).ops = [] ∧
    ((barSt l).group 0).live = true ∧ ((barSt l).group 0).retiring = false ∧ 0 ∈ ((barSt l).wgOf 0).groups ∧
    ((barSt l).group 16).live = true ∧ ((barSt l).group 16).wg = ((barSt l).group 0).wg ∧ ((barSt l).group 16).retiring = false := by
  rcases h with rfl | rfl <;> exact ⟨meets rfl (by decide +kernel) (by decide +kernel), by decide +kernel⟩

/-! ### The matrix engine and near-memory commands (R189 to R206, R233 to R244) -/

/-- A run of the group with every lane active: what an entry's checks are given. -/
def run0 : Run := { gid := 0, sid := 0, pc := 0, size := 12, lit := none, eff := 0xFFFF_FFFF, active := 0xFFFF_FFFF, g := st.calm 0, stall := 0 }

/-- TLD, TST, TMOV, MZERO, MLDA, MSTA and MCVT, their addresses in g4, tile and accumulator 1. -/
def tldX : Ext := ext 0 (dv 1) (g 4)
def tmovX : Ext := ext 1 (dv 1) (v 2)
def mzeroX : Ext := ext 0x103
def mcvtX : Ext := ext (ty 8) (dv 1) (g 4) (g 6)
def tileSt : State := st (fun x => { x with g := [(4, 0x100), (6, 0x3F80_0000)] })

theorem test_tile_premises (i : Instr) (xop : Nat) (x : Ext) (h : (i, xop, x) ∈ [(Instr.tld tldX, 0x2C0, tldX), (.tst tldX, 0x2C1, tldX),
      (.tmov tmovX, 0x2C2, tmovX), (.mzero mzeroX, 0x2C3, mzeroX), (.mlda tldX, 0x2C6, tldX), (.msta tldX, 0x2C7, tldX),
      (.mcvt mcvtX, 0x2C8, mcvtX)]) :
    Meets i tileSt (Enc.ofExt xop x) ∧ tilesHeld tileSt 0 (Enc.ofExt xop x) ∧ tileSt.permitted 0 = true ∧
    (tileSt.core 0).matrix.length < 16 ∧ matrixChk (matrixOf tileSt 0 (Enc.ofExt xop x)) tileSt run0 = .ok := by
  simp only [List.mem_cons, Prod.mk.injEq, List.not_mem_nil, or_false] at h
  repeat (obtain ⟨rfl, rfl, rfl⟩ | h := h; · exact ⟨meets rfl (by decide +kernel) (by decide +kernel), by decide +kernel⟩)
  obtain ⟨rfl, rfl, rfl⟩ := h
  exact ⟨meets rfl (by decide +kernel) (by decide +kernel), by decide +kernel⟩

/-- MMA of INT8, 128 × 128 × 128, and of one element; MLOOP of one step. -/
def mmaX : Ext := ext 6 (dv 1) (v 2) (g 4) 0x610
def mloopX : Ext := ext 6 (dv 1) (g 4) (g 6) 0x610
def mmaSt (c : DWord) : State := st (fun x => { x with g := [(4, 0x100), (6, 0x4100), (8, c), (11, 0x0000_0001)] })

theorem test_mma_premises (c : DWord) (h : c = 0x0080_8080 ∨ c = 0x0001_0101) :
    (Meets (.mma mmaX) (mmaSt c) (Enc.ofExt 0x2C4 mmaX) ∧ Meets (.mloop mloopX) (mmaSt c) (Enc.ofExt 0x2C5 mloopX)) ∧
    (tilesHeld (mmaSt c) 0 (Enc.ofExt 0x2C4 mmaX) ∧ tilesHeld (mmaSt c) 0 (Enc.ofExt 0x2C5 mloopX)) ∧
    matrixChk (matrixOf (mmaSt c) 0 (Enc.ofExt 0x2C4 mmaX)) (mmaSt c) run0 = .ok ∧
    matrixChk (matrixOf (mmaSt c) 0 (Enc.ofExt 0x2C5 mloopX)) (mmaSt c) run0 = .ok := by
  rcases h with rfl | rfl <;>
    exact ⟨⟨meets rfl (by decide +kernel) (by decide +kernel), meets rfl (by decide +kernel) (by decide +kernel)⟩, ⟨by decide +kernel, by decide +kernel⟩, by decide +kernel⟩

/-- The checks look at nothing of a run but its group and its active lanes. -/
theorem test_matrix_checks (m : Matrix) (s : State) (r : Run) (h : r.gid = 0) (k : r.active = 0xFFFF_FFFF) :
    matrixChk m s r = matrixChk m s run0 := by
  cases r; cases h; cases k; rfl

/-- The head of engine M's queue, not started and running. -/
def matOf (op : Nat) (mod : BitVec 10) (ctl : List DWord := []) : Matrix :=
  { id := 1, gid := 0, wg := 1, op := op, mod := mod, sat := false, d := 1, a := 0x100, b := 0x4100, ctl := ctl, started := true }
def matSt (m : Matrix) : State := { st with cores := [(0, { matrix := [m] })] }

theorem test_running (m : Matrix) (h : m = matOf 0 0 ∨ m = matOf 1 0 ∨ m = { matOf 2 0 with a := 2 } ∨ m = matOf 3 0x103 ∨ m = matOf 6 0 ∨ m = matOf 7 0 ∨
      m = { matOf 4 6 [0x0080_8080] with a := 2 } ∨ m = { matOf 4 1 [0x0001_0101] with a := 2 } ∨ m = matOf 5 6 [0x0001_0101, 0, 0, 1]) :
    Running (matSt m) 0 m [] ∧ m.snap = [] ∧ m.row = 0 ∧ m.pass = 0 ∧ m.wraps = [] ∧ m.phase ≤ 2 := by
  rcases h with rfl | rfl | rfl | rfl | rfl | rfl | rfl | rfl | rfl <;>
    exact ⟨⟨by decide +kernel, by decide +kernel, by decide +kernel⟩, by decide +kernel⟩

/-- No batch closed, and one, which the operation completes. -/
theorem test_flags_premises : ∀ l ∈ [[], [({ engine := 1, num := 3, ops := [1], muster := none } : Batch)]],
    let s := st (fun x => { x with batches := l })
    (s.group 0).late = [] ∧ (s.group 0).batches = l ∧ ∀ b ∈ l, b.engine = 1 ∧ b.ops = [1] ∧ b.gone = false := by decide +kernel

theorem test_matrix_start : let m := { matOf 0 0 with started := false }
    ((matSt m).core 0).matrix = [m] ∧ m.started = false ∧ m.since ≤ (matSt m).cycle ∧ (matSt m).matrixBusy m = false ∧ (matSt m).mayWork 0 512 = true := by
  decide +kernel

theorem test_matrix_clauses : (matOf 4 6 [0x0080_8080]).kind = 6 ∧ (matOf 4 1 [0x0001_0101]).kind = 1 ∧
    (matOf 4 6 [0x0080_8080]).rowsM = 128 ∧ (matOf 4 6 [0x0080_8080]).colsN = 128 ∧ (matOf 4 1 [0x0001_0101]).rowsM = 1 ∧
    (matOf 4 1 [0x0001_0101]).colsN = 1 ∧ (matOf 4 1 [0x0001_0101]).depth = 1 ∧
    (let m := matOf 5 6 [0x0001_0101, 0, 0, 1]; m.step < m.steps ∧ m.stepReady ((matSt m).wg 1) = true) := by decide +kernel

/-- Floating kinds: an E4M3 MMA and a binary16 MLOOP step of one element, zeros; an MCVT to binary32 of a zero accumulator. -/
def fpMat (op kind : Nat) : Matrix := { matOf op (BitVec.ofNat 10 kind) [0x0001_0101, 0, 0, 1] with a := if op = 4 then 2 else 0x100 }
theorem test_finite_operands (op kind : Nat) (h : (op = 4 ∧ kind = 2) ∨ (op = 5 ∧ kind = 7)) :
    FiniteOperands ((matSt (fpMat op kind)).wg 1) (fpMat op kind) := by
  rcases h with ⟨rfl, rfl⟩ | ⟨rfl, rfl⟩
  · refine ⟨by decide +kernel, by decide +kernel, ?_, ?_⟩ <;> intro m k h i <;>
      obtain rfl := Nat.lt_one_iff.1 (show m < 1 from h) <;> obtain rfl := Nat.lt_one_iff.1 (show k < 1 from i) <;>
      exact show (0 : Nat) % 128 ≠ 127 by decide
  · refine ⟨by decide +kernel, by decide +kernel, ?_, ?_⟩ <;> intro m k h i <;>
      obtain rfl := Nat.lt_one_iff.1 (show m < 1 from h) <;> obtain rfl := Nat.lt_one_iff.1 (show k < 1 from i) <;>
      exact show ¬ (0 : Nat) = 31 by decide

theorem test_float_running : ∀ e ∈ [(4, 2), (5, 7)], let m := fpMat e.1 e.2
    ((matSt m).core 0).matrix = [m] ∧ m.started = true ∧ (matSt m).mayWork 0 512 = true ∧ m.snap = [] ∧ m.pass = 0 ∧ m.depth = 1 ∧
    m.rowsM = 1 ∧ m.colsN = 1 ∧ (m.op = 5 → m.step < m.steps ∧ m.stepReady ((matSt m).wg 1) = true) := by decide +kernel

theorem test_mcvt_premises : let m : Matrix := { matOf 8 0x100 with b := 0x3F80_0000 }
    Running (matSt m) 0 m [] ∧ m.row = 0 ∧ m.mod.toNat / 32 = 8 ∧ m.a % 128 = 0 ∧ finite 8 (m.b.toNat % 2 ^ 32) ∧
    ∀ i j, i < 128 → j < 128 → finite 8 (((matSt m).wg m.wg).acc m.d i j).toNat :=
  ⟨⟨by decide +kernel, by decide +kernel, by decide +kernel⟩, by decide +kernel, by decide +kernel, by decide +kernel,
    show ¬ _ = _ by decide +kernel, fun i j _ _ => by
      have e : ((matSt { matOf 8 0x100 with b := 0x3F80_0000 }).wg 1).acc 1 i j = 0 := rfl
      exact e ▸ (show ¬ _ = _ by decide)⟩

/-- Near-memory commands (R238 to R244): NMDOT of one vector of 32 bytes into v6, its query in v8; NMLUT; NMRED and NMFILL. -/
def nmSt (a n : DWord) (c : List (Nat × DWord)) : State := banked (st (fun x => { x with g := [(4, a), (6, n)] ++ c }))
def nmdotX : Ext := ext (ty 0) (dv 6) (g 4) (g 8) 0x008
def nmlutX : Ext := ext (8) (dg 6) (g 4) (g 8) 0x008
def nmredX : Ext := ext (ty 2) (dg 6) (g 4) (g 6) 0x008
def nmfillX : Ext := ext 0 (dg 6) (g 4) (g 6) 0x008

/-- NMRED and NMFILL of the least region; NMRED of a misaligned one. -/
theorem test_region_premises :
    (Meets (.nmred nmredX) (nmSt 0x20100004 4 []) (Enc.ofExt 0x343 nmredX) ∧ Meets (.nmfill nmfillX) (nmSt 0x20100000 32 []) (Enc.ofExt 0x344 nmfillX) ∧
      Meets (.nmred nmredX) (nmSt 0x20100001 4 []) (Enc.ofExt 0x343 nmredX)) ∧
    (nmSt 0x20100004 4 []).permitted 0 = true ∧ ((nmSt 0x20100004 4 []).core 0).near.length < 64 ∧
    regionCheck nmredX 4 0 ((nmSt 0x20100004 4 []).calmed 0) { run0 with g := (nmSt 0x20100004 4 []).calm 0 } = .ok ∧
    regionCheck nmfillX 32 1 ((nmSt 0x20100000 32 []).calmed 0) { run0 with g := (nmSt 0x20100000 32 []).calm 0 } = .ok :=
  ⟨⟨meets rfl (by decide +kernel) (by decide +kernel), meets rfl (by decide +kernel) (by decide +kernel),
    meets rfl (by decide +kernel) (by decide +kernel)⟩, by decide +kernel⟩

theorem test_nmdot_premises : let s := nmSt 0x20100000 0 []
    (Meets (.nmdot nmdotX) s (Enc.ofExt 0x340 nmdotX) ∧ Meets (.nmdist nmdotX) s (Enc.ofExt 0x341 nmdotX)) ∧
    nmdotCheck nmdotX (s.calmed 0) { run0 with g := s.calm 0 } = .ok :=
  ⟨⟨meets rfl (by decide +kernel) (by decide +kernel), meets rfl (by decide +kernel) (by decide +kernel)⟩, by decide +kernel⟩

theorem test_nmlut_premises : let s := nmSt 0x20100000 0 [(8, 0x100000), (9, 0x100C00), (10, 1)]
    Meets (.nmlut nmlutX) s (Enc.ofExt 0x342 nmlutX) ∧ nmlutCheck nmlutX (s.calmed 0) { run0 with g := s.calm 0 } = .ok :=
  ⟨meets rfl (by decide +kernel) (by decide +kernel), by decide +kernel⟩

/-- The checks look at nothing of a run but its group, literal, registers and active lanes. -/
theorem test_near_checks (x : Ext) (s : State) (r q : Run) (h : r.gid = q.gid) (hg : r.g = q.g) (hl : r.lit = q.lit)
    (ha : r.active = q.active) : nmdotCheck x s r = nmdotCheck x s q ∧ nmlutCheck x s r = nmlutCheck x s q ∧
      regionCheck x 4 0 s r = regionCheck x 4 0 s q ∧ regionCheck x 32 1 s r = regionCheck x 32 1 s q := by
  cases r; cases q; cases h; cases hg; cases hl; cases ha; exact ⟨rfl, rfl, rfl, rfl⟩

/-- An NMFILL of one sector in flight: to be forwarded, to write its sector, and finished. -/
def fill : Near := {
  id := 1, gid := 0, wg := 1, ctx := 0, super := false, stream := 0, scope := 0, op := 4, mod := 0, addr := 0x20100000, len := 32,
  ctl := [0x1122], lanes := 1, actives := 1 }
def fillSt (n : Near) : State := { banked st with cores := [(0, { near := [n] })], turns := [.near 0 0] }

theorem test_near_premises : let n := { fill with forwarded := true, step := 0 }
    ((fillSt fill).core 0).near[0]? = some fill ∧ fill.forwarded = false ∧ (fillSt fill).allDone 0 fill.after = true ∧
    (fillSt fill).mayWork 0 768 = true ∧ ((fillSt n).core 0).near[0]? = some n ∧ n.finished = false ∧
    ({ n with step := 1 } : Near).finished = true ∧
    (match (fillSt n).bankPlace 0 false 1 0 0x20100000 with | .at pa => pa | _ => 0) = blBase + 0x100000 := by decide +kernel

/-- The next result of NMDOT and NMDIST of INT8 and binary16 vectors of 64 bytes for lane 0, of a row of an NMLUT of 16
activations and two rows for memory, and the next sector of an NMRED of each type. -/
def dotCmd (op mod : Nat) : Near := { fill with
  op := op, mod := BitVec.ofNat 10 mod, len := 0, ctl := [64, 0, 0, 0], target := .v 6 6 0, lanes := 1, forwarded := true, held := 1,
  query := List.replicate 64 (0, false) }
def lutHeader : List Byte := toBytes 8 0 ++ toBytes 4 2 ++ toBytes 4 1 ++ toBytes 8 64 ++ toBytes 40 64
def lutCmd : Near := { fill with
  op := 2, len := 0, ctl := [0, 0x100000], target := .none, forwarded := true, held := 1, header := lutHeader,
  query := List.replicate 32 (0, false) }
def redCmd (ty op : Nat) : Near := { fill with
  op := 3, mod := BitVec.ofNat 10 (32 * ty + op), len := 32, target := .g 6, forwarded := true }

theorem test_near_turns : ∀ n ∈ [dotCmd 0 0, dotCmd 1 2, dotCmd 1 (9 * 32), lutCmd, redCmd 8 0, redCmd 2 1, redCmd 6 2], let s := fillSt n
    s.turns = [.near 0 0] ∧ s.booted = true ∧ s.power.state = .run ∧ (s.core 0).near[0]? = some n ∧ n.forwarded = true ∧
    n.finished = false ∧ s.mayWork n.ctx (768 + n.stack) = true ∧ n.entries ≤ n.held ∧ n.bad = none := by decide +kernel

/-- What they read is there, without poison, of the length that they need. -/
def bankOk (s : State) (a len : Nat) : Bool := match (turned s).bank 0 false 0 a len with
  | (_, .ok bs none) => decide (bs.length = len) && bs.all (fun y => !y.2)
  | _ => false
theorem test_near_reads : bankOk (fillSt (dotCmd 0 0)) 0x20100000 64 = true ∧
    bankOk (fillSt lutCmd) (0x20100000 + leAt lutHeader 16 8) (8 * leAt lutHeader 12 2) = true ∧
    bankOk (fillSt (redCmd 8 0)) 0x20100000 32 = true ∧ lutHeader.length = 64 ∧ leAt lutHeader 12 2 = 1 ∧ (0 : Nat) + 1 < lutCmd.total ∧
    (dotCmd 0 0).mod.getLsbD 2 = false ∧ Mask.has (dotCmd 0 0).lanes 0 = true := by decide +kernel

/-- A finished NMRED for g6: with its value, stopped, and with a failing sector. -/
theorem test_nmred_end_premises : ∀ n ∈ [{ redCmd 8 0 with step := 1, acc := some 1 }, { redCmd 8 0 with step := 1, stop := some 64 },
      { redCmd 8 0 with step := 1, bad := some (1, 64, true, 0) }], let s := fillSt n
    (s.core 0).near[0]? = some n ∧ n.finished = true ∧ n.op = 3 ∧ n.target = .g 6 ∧ n.early = false ∧ n.readBad = none ∧
    s.mayWork n.ctx (768 + n.stack) = true ∧ (s.group 0).replies = [] := by decide +kernel
/-! ### Searches and walkers (R245 to R252) -/

/-- A descriptor at 0x90000: K, BEAM, HOPS, entry node 2, result at 0x92000, muster at 0x94000, walker code at 0x80000. -/
def descOf (k beam hops : Nat) : List Byte :=
  toBytes 64 (0x91000 + 0x91800 * 2 ^ 64 + 0x92000 * 2 ^ 128 + 0x94000 * 2 ^ 192 + 3 * 2 ^ 256 + 2 * 2 ^ 288 + k * 2 ^ 320 +
    beam * 2 ^ 336 + hops * 2 ^ 352 + 0x80000 * 2 ^ 384 + 7 * 2 ^ 448)
/-- An index on stacks 0 and 1: 4 INT8 elements, version 5, one visited slot, nodes at 0x20200000, bits at 0x20300000. -/
def indexOf : List Byte :=
  toBytes 64 (5 + 3 * 2 ^ 32 + 4 * 2 ^ 48 + 2048 * 2 ^ 96 + 0x20200000 * 2 ^ 128 + 0x20300000 * 2 ^ 192)
def queryOf : List Byte := [1, 2, 3, 4]
def qs : Search := { id := 1, addr := 0x90000, target := .g 6, lanes := 1, desc := descOf 2 4 8 }
/-- Read, given its handle, and admitted with walkers. -/
def qa (h : List (Word × Word)) (hops walkers : Nat) : Search :=
  { qs with
    read := true, handle := 9, index := indexOf, query := queryOf, ipa := 0x91000, admitted := true, heap := h, hops := hops,
    walkers := walkers, slots := [(0, 0), (1, 0)] }
def searchSt (q : Search) : State := { banked (st (fun x => { x with g := [(4, 0x90000), (6, 9)] })) with searches := [(1, q)], ids := 6 }

def searchX : Ext := ext 0 (dg 8) (g 4)
def scancelX (n : Nat) : Ext := ext 0 (b := im n)

theorem test_search_premises : let s := { searchSt (qa [] 0 0) with searches := [] }
    Meets (.search searchX) s (Enc.ofExt 0x345 searchX) ∧ s.permitted 0 = true ∧ (s.calmed 0).rangesChk run0 0 [(0, 0x90000, 64)] = .ok :=
  ⟨meets rfl (by decide +kernel) (by decide +kernel), by decide +kernel⟩

/-- SCANCEL of handle 0, of a name that no search has, and of a search. -/
theorem test_scancel_premises (n : Nat) (h : n = 0 ∨ n = 8 ∨ n = 9) :
    Meets (.scancel (scancelX n)) (searchSt (qa [] 0 1)) (Enc.ofExt 0x346 (scancelX n)) ∧
    ((searchSt (qa [] 0 1)).searches.filter (fun x => x.2.ctx = 0 && x.2.handle = BitVec.ofNat 32 n)).length =
      (if n = 9 then 1 else 0) ∧ (searchSt (qa [] 0 1)).permitted 0 = true ∧ (searchSt (qa [] 0 1)).search 1 = qa [] 0 1 ∧ (searchSt (qa [] 0 1)).stops = [] := by
  rcases h with rfl | rfl | rfl <;> exact ⟨meets rfl (by decide +kernel) (by decide +kernel), by decide +kernel⟩

/-- Descriptors that R247 refuses: K 0 and 129, BEAM 0 and 65, HOPS 0. Those it does not: the limits. -/
theorem test_refused_descriptors : (∀ d ∈ [descOf 0 4 8, descOf 129 4 8, descOf 2 0 8, descOf 2 65 8, descOf 2 4 0], refusedDescriptor d) ∧
    ∀ d ∈ [descOf 1 1 1, descOf 128 64 8], ¬ refusedDescriptor d := by decide +kernel

/-- A search just issued whose descriptor lies in memory and is refused. -/
def refusedSt : State := (searchSt { qs with desc := [] }).homeBytes 0x90000 (descOf 0 4 8)
theorem test_admission_premises : refusedSt.searches.look 1 = some { qs with desc := [] } ∧ refusedSt.walkersWork 0 = true ∧
    (refusedSt.group 0).accs = [] ∧ ({ qs with desc := [] } : Search).after = [] ∧ ({ qs with desc := [] } : Search).handle = 0 ∧
    (match refusedSt.searchGet { qs with desc := [] } 0x90000 64 with
     | (_, .ok d, none) => decide (d.map (·.1) = descOf 0 4 8)
     | _ => false) = true := by decide +kernel

/-- A search read, with everything it waits for free. -/
def admQ : Search := { qa [] 0 0 with admitted := false, slots := [], walkers := 0 }
def admSt : State := { searchSt admQ with cacheWait := [1] }
theorem test_admitted_premises : let q := admQ
    let s := admSt
    s.searches.look 1 = some q ∧ q.read = true ∧ s.walkersWork q.ctx = true ∧
    (match s.searchFits q with
     | some (_, slots) => s.slotsStill q slots && q.stacks.all (fun st => s.cacheFree q.id st 1)
     | none => false) = true := by decide +kernel

/-- An admitted search whose walkers have ended, with a full and with an empty heap. -/
theorem test_search_end_premises : ∀ h ∈ [[], [((1 : Word), (2 : Word)), (3, 4)]], let q := qa h 3 0
    let s := searchSt q
    s.searches.look 1 = some q ∧ (s.ctx q.ctx).halted = false ∧ q.walkers = 0 ∧ q.result % 8 = 0 ∧ q.muster ≠ 0 ∧ q.muster % 32 = 0 ∧
    (match s.putBytes (sectorsOf q.result (resultRecord q).length) { core := q.core, ctx := q.ctx, super := q.super, wg := 0 }
        ⟨0, q.result⟩ ((resultRecord q).map (fun b => (b, false))) with
     | (u, .ok []) => u.ctxs.all (fun c => (List.range 64).all (fun j => (c.2.mirror j).1 = 0))
     | _ => false) = true := by decide +kernel

/-- Walker 5 on stack 0 with node ids in w1 (2), w2 (no node), w3 (one of stack 1), w4 to w6 addresses. -/
def wk : Walker := { search := 1, w := [(1, 2), (2, 0xFFFF_FFFF), (3, 0x2000_0001), (4, 0x20100000), (5, 0x20100002), (6, 0x201007FE)] }
def walkSt (q : Search) (k : Walker := wk) : State := { searchSt q with who := .walker 5, walkers := [(5, k)] }

theorem strides {s : State} {e : Enc} (h : s.who = .walker 5 ∧ e.wok = true ∧ e.x.gp = 0 ∧ e.x.gn = false) : Strides s 5 e :=
  ⟨h.1, h.2.1, by rw [h.2.2.1, h.2.2.2]; simp⟩

/-- WNODE, WNBR, WDIST, WHEAP, WKTH, WVISIT, WHOP, WSPAWN and WEND are walker code. -/
def wnodeX (a : Nat) : Ext := ext 0 (dv 8) (v a)
def wnbrX (a : Nat) : Ext := ext 0 (dv 8) (v a) (im 1)
def wheapX : Ext := ext 3 (dv 8) (v 1) (v 2)
def wvisitX (a : Nat) : Ext := ext 0 (dp 2) (v a)
def whopX (a : Nat) : Ext := ext 0 Dst.zero (v a)
def wspawnX (a : Nat) : Ext := ext 2 Dst.zero (v a) (im 4) 0x002

theorem test_walker_premises (i : Instr) (xop : Nat) (x : Ext) (h : (i, xop, x) ∈ [(Instr.wnode (wnodeX 1), 0x380, wnodeX 1),
      (.wnode (wnodeX 2), 0x380, wnodeX 2), (.wnode (wnodeX 3), 0x380, wnodeX 3), (.wnbr (wnbrX 4), 0x381, wnbrX 4),
      (.wnbr (wnbrX 5), 0x381, wnbrX 5), (.wdist (wnodeX 4), 0x382, wnodeX 4), (.wdist (wnodeX 6), 0x382, wnodeX 6),
      (.wheap wheapX, 0x383, wheapX), (.wkth (ext 0 (dv 8)), 0x384, ext 0 (dv 8)), (.wvisit (wvisitX 1), 0x385, wvisitX 1),
      (.wvisit (wvisitX 3), 0x385, wvisitX 3), (.whop (whopX 1), 0x386, whopX 1), (.whop (whopX 3), 0x386, whopX 3),
      (.whop (whopX 2), 0x386, whopX 2), (.wspawn (wspawnX 1), 0x387, wspawnX 1), (.wspawn (wspawnX 3), 0x387, wspawnX 3), (.wspawn (wspawnX 2), 0x387, wspawnX 2),
      (.wend nopX, 0x388, nopX)]) :
    encOf i = some (Enc.ofExt xop x) ∧ Strides (walkSt (qa [] 0 1)) 5 (Enc.ofExt xop x) := by
  simp only [List.mem_cons, Prod.mk.injEq, List.not_mem_nil, or_false] at h
  repeat (obtain ⟨rfl, rfl, rfl⟩ | h := h; · exact ⟨rfl, strides (by decide +kernel)⟩)
  obtain ⟨rfl, rfl, rfl⟩ := h
  exact ⟨rfl, strides (by decide +kernel)⟩

/-- The operands of each clause: a node of the stack, none, of another stack; the records' places in DRAM; vectors at the
end of a row. -/
theorem test_walker_reads : let s := walkSt (qa [] 0 1)
    let q := s.search 1
    let read := fun n => walkerRead s 5 (Enc.ofExt 0x380 (wnodeX n)) (v n)
    (read 1 / 2 ^ 29 = 0 ∧ read 2 % 2 ^ 32 = 0xFFFF_FFFF ∧ read 3 / 2 ^ 29 = 1 ∧ read 4 % 64 = 0 ∧ read 5 % 4 ≠ 0 ∧ read 6 % 64 ≠ 0) ∧
    q.nbase % 64 = 0 ∧ q.vecBytes = 4 ∧ q.query.length = q.vecBytes ∧
    (match s.bankPlace 0 false 0 0 (q.nbase + 64 * 2), s.bankPlace 0 false 0 0 (0x20100000 + 4), s.bankPlace 0 false 0 0 0x20100000 with
     | .at a, .at b, .at c => decide (a % 64 = 0 ∧ b % 4 = 0 ∧ c % 64 = 0)
     | _, _, _ => false) = true ∧ s.ecc = [] ∧ s.poison = [] := by decide +kernel

/-- Heaps in order: none, one entry, K entries of two (R252); home stack and another. -/
theorem test_heap_premises : ∀ h ∈ [[], [((1 : Word), (2 : Word))], [((1 : Word), (2 : Word)), (1, 3)]],
    (qa h 0 1).heap.Pairwise (fun a b => ranks a b = true ∨ a = b) ∧ (qa h 0 1).heap.length ≤ (qa h 0 1).k ∧ 1 ≤ (qa h 0 1).k ∧
    (qa h 0 1).home = wk.stack ∧ ({ qa h 0 1 with core := 64 } : Search).home ≠ wk.stack := by decide +kernel

theorem at_place {p : Place} {n : Nat} (h : (match p with | .at pa => some pa | _ => none) = some n) : p = .at n := by
  cases p <;> first | (cases h; rfl) | cases h

/-- The visited bit of node 2, and of one of the other stack. -/
theorem test_visited_premises : VisitedAt (walkSt (qa [] 0 1)) (qa [] 0 1) 2 (blBase + 0x300000) :=
  ⟨by decide +kernel, ⟨0, by decide +kernel, at_place (by decide +kernel)⟩, by decide +kernel⟩

theorem test_other_stack : let q := qa [] 0 1
    0x2000_0001 / 2 ^ 29 ∈ q.stacks ∧ 0x2000_0001 % 2 ^ 29 / 8 < q.vbytes ∧ 7 ∉ q.stacks := by decide +kernel

/-- Messages waiting, and the walker's search at work. -/
theorem test_message_premises : ∀ m ∈ [Msg.heap 5 (some (1, 2)) 8 1, .heap 5 none 8 0, .visited 5 2 2, .reply 5 (some (8, 1)) (some (2, true)),
      .hop 5 1, .spawn 5 1], let s := { walkSt (qa [] 0 1) { wk with travel := true } with msgs := [m] }
    s.msgs[0]? = some m ∧ (s.walker 5).travel = true ∧ s.walkersWork 0 = true ∧ s.stops = [] := by decide +kernel

/-- Below the hop limit and at it; below BEAM walkers and at it; a stack with a free context and one without. -/
theorem test_travel_premises : let q := qa [] 0 1
    (q.hops < field q.desc 383 352 ∧ field q.desc 383 352 ≤ (qa [] 8 1).hops) ∧ q.walkers < field q.desc 343 336 ∧
    field q.desc 343 336 ≤ (qa [] 0 4).walkers ∧ (walkSt q).contexts 1 0 = 0 ∧ (walkSt q).contexts 0 1 = 0 ∧
    (walkSt q).walkers.look (walkSt q).ids = none ∧ (walkSt q).ids ≠ 5 ∧
    (∀ j, j < 4 → 64 ≤ { walkSt q with walkers := (List.range 256).map (fun i => (10 + i, { wk with stack := 1, engine := i % 4 })) }.contexts 1 j) := by
  decide +kernel

/-! ### Traps, the return, special registers, sleep and XCHG (R60, R128, R229 to R232, R301, R369 to R373) -/

/-- A context with a vector; under debug where DBGEN is set. -/
def trapSt (dbg : DWord := 0) (f : Group → Group := id) : State := { st f with
  ctxs := [(0, { placeContext with trapvec := 0x90000, debug := dbg })] }

theorem deliverable {s : State} {c : BitVec 8}
    (h : (s.group 0).handler = none ∧ (s.group 0).traps = [] ∧ (s.group 0).masks c = false ∧
      (s.ctx (s.group 0).ctx).halted = false ∧ (s.ctx (s.group 0).ctx).trapvec ≠ 0 ∧
      ((s.group 0).split 0).live = true ∧ ((s.group 0).split 0).parked = false ∧ ((s.group 0).split 0).wait = .none ∧
      s.waiters = [] ∧ (s.slot (slotOf 0)).claims = []) : Deliverable s 0 0 c :=
  ⟨h.1, h.2.1, h.2.2.1, ⟨h.2.2.2.1, h.2.2.2.2.1⟩, ⟨h.2.2.2.2.2.1, h.2.2.2.2.2.2.1, h.2.2.2.2.2.2.2.1⟩,
    ⟨h.2.2.2.2.2.2.2.2.1, h.2.2.2.2.2.2.2.2.2⟩⟩

/-- Every cause of these statements is delivered there. -/
theorem test_deliverable (c : BitVec 8) (h : c = 0x01 ∨ c = 0x02 ∨ c = 0x40 ∨ c = 0x80 ∨ c = 0xBF) :
    Deliverable (trapSt) 0 0 c ∧ Quiet trapSt 0 0 := by
  rcases h with rfl | rfl | rfl | rfl | rfl <;> exact ⟨deliverable (by decide +kernel), quiet (by decide +kernel)⟩

def trapX (n : Nat) : Ext := ext n
/-- SWR of g4 to a register; IADD with a MOD that no rule defines (sub-code 2). -/
def swrX (n : Nat) : Ext := ext n Dst.zero (g 4)
def badX : Ext := ext (ty 2 + 1) (dv 6) (v 4) (v 5)

theorem test_trap_premises : (Meets (.trap (trapX 0)) trapSt (Enc.ofExt 0x3C0 (trapX 0)) ∧ Meets (.trap (trapX 63)) trapSt (Enc.ofExt 0x3C0 (trapX 63)) ∧
      Meets (.bkpt (trapX 255)) trapSt (Enc.ofExt 0x3C6 (trapX 255)) ∧ Meets (.bkpt (trapX 0)) (trapSt 1) (Enc.ofExt 0x3C6 (trapX 0)) ∧
      Meets (.swr (swrX 0x20)) trapSt (Enc.ofExt 0x3C5 (swrX 0x20))) ∧
    encOf (.iadd badX) = some (Enc.ofExt 0x000 badX) ∧ (Enc.ofExt 0x000 badX).sub = 2 ∧
    readOnly false 0x20 ∧ readOnly false 0x26 ∧ ¬ readOnly true 0x26 ∧ ¬ readOnly false 0x10 ∧
    (trapSt 0).ctxs.length = 1 ∧ BitVec.getLsbD ((trapSt 1).ctx 0).debug 0 = true :=
  ⟨⟨meets rfl (by decide +kernel) (by decide +kernel), meets rfl (by decide +kernel) (by decide +kernel),
    meets rfl (by decide +kernel) (by decide +kernel), meets rfl (by decide +kernel) (by decide +kernel),
    meets rfl (by decide +kernel) (by decide +kernel)⟩, rfl, by decide +kernel⟩

/-- Base words with the unassigned BOPs 34 and 125, alone and with a literal; a walker meets one. -/
theorem test_unassigned_premises :
    (BitVec.getLsbD (0x88 : Word) 0 = false ∧ ¬ assigned (0x88 / 4 % 128)) ∧
    (BitVec.getLsbD (0xFFFF_FDF6 : Word) 0 = false ∧ ¬ assigned (0xFFFF_FDF6 / 4 % 128)) ∧
    BitVec.getLsbD (0x88 : Word) 1 = false ∧ BitVec.getLsbD (0xFFFF_FDF6 : Word) 1 = true ∧ 8 ≤ (bytesOfWord 0 ++ bytesOfWord 0).length ∧
    State.who { trapSt with who := .walker 1 } = .walker 1 := by decide +kernel

/-- A state whose TRAPMASK masks the causes of TRAP and BKPT. -/
theorem test_masked_premises : let s := trapSt 0 (fun x => { x with trapMask := 0xF })
    (s.group 0).masks 0x80 = true ∧ (s.group 0).masks 0x40 = true ∧ (s.group 0).traps = [] := by decide +kernel

/-- R229 and R373: TRAP 5 enters the handler with its cause; TRAPPC is its own address. -/
theorem test_trap_entry : let t := after (.trap (trapX 5)) trapSt
    ((t.group 0).split 0).pc = 0x90000 ∧ (t.group 0).trapPc = 0x80000 ∧ (t.group 0).trapMask = 0xF ∧
    (t.group 0).handler.map (·.cause) = some 0x85 := by decide +kernel

/-- In a handler: RTT and RTT.next; RTT outside one; TMASK and TUNMASK. -/
def hand : Handler := { split := 0, pc := 0x80000, mask := 0xFF, trapmask := 0, parked := false, wait := .none, super := false, cause := 0x85 }
def handSt : State := mapped (trapSt 0 (fun x => { x with handler := some hand, trapPc := 0x80000, trapMask := 0xF }))

theorem test_rtt_premises : (Meets (.rtt (ext 0)) handSt (Enc.ofExt 0x3C1 (ext 0)) ∧ Meets (.rtt (ext 1)) handSt (Enc.ofExt 0x3C1 (ext 1)) ∧
      Meets (.rtt (ext 0)) trapSt (Enc.ofExt 0x3C1 (ext 0))) ∧
    (handSt.group 0).handler = some hand ∧ (handSt.group 0).traps = [] ∧ ((handSt.group 0).split 0).live = true ∧
    hand.due = none ∧ (∀ k ∈ List.range 4, ((handSt.group 0).split k).due = none) ∧
    hand.mask &&& ~~~(handSt.group 0).exited ≠ 0 ∧ (handSt.group 0).trapPc % 4 = 0 ∧
    handSt.translate 0 false false 2 0x80000 = .ok 0x80000 0xF 0x40000 ∧ (trapSt.group 0).handler = none :=
  ⟨⟨meets rfl (by decide +kernel) (by decide +kernel), meets rfl (by decide +kernel) (by decide +kernel),
    meets rfl (by decide +kernel) (by decide +kernel)⟩, by decide +kernel⟩

/-- RTT with a pending trap that TRAPMASK covers and one after it that it does not; RTT after trap 0x30 (R225). -/
def pend1 : Trap := { cause := 0x80, split := 0, pc := 0x80000, lanes := 1, addr := 0, info := 0, src := 0x80000 }
def pend2 : Trap := { pend1 with cause := 0x10 }
def handSt2 (h : Handler) (l : List Trap) : State :=
  mapped (trapSt 0 (fun x => { x with handler := some h, trapPc := 0x80000, trapMask := 0xF, traps := l }))

theorem test_rtt_pending_premises : let h := { hand with trapmask := 8 }
    let s := handSt2 h [pend1, pend2]
    Meets (.rtt (ext 0)) s (Enc.ofExt 0x3C1 (ext 0)) ∧ (s.group 0).traps = [pend1] ++ pend2 :: [] ∧
    covered h.trapmask pend1.cause = true ∧ covered h.trapmask pend2.cause = false ∧ h.wait = .none ∧
    (s.ctx 0).halted = false ∧ (s.ctx 0).trapvec ≠ 0 ∧ s.waiters = [] ∧ (s.slot 0).claims = [] :=
  ⟨meets rfl (by decide +kernel) (by decide +kernel), by decide +kernel⟩

theorem test_rtt_relay_premises : let h := { hand with cause := 0x30 }
    Meets (.rtt (ext 0)) (handSt2 h []) (Enc.ofExt 0x3C1 (ext 0)) ∧ ((handSt2 h []).group 0).handler = some h ∧
    ((handSt2 h []).group 0).trapPc % 4 = 0 :=
  ⟨meets rfl (by decide +kernel) (by decide +kernel), by decide +kernel⟩

/-- TUNMASK 8 lets the waiting TRAP through. -/
def maskX : Ext := ext 0 (b := im 8)
def waitTrap : Trap := { cause := 0x80, split := 0, pc := 0x80000, lanes := 1, addr := 0, info := 0, src := 0x80000 }
def unmaskSt (l : List Trap) : State := trapSt 0 (fun x => { x with trapMask := 0xF, traps := l })

theorem test_unmask_premises : (Meets (.tmask maskX) (unmaskSt []) (Enc.ofExt 0x3C2 maskX) ∧ Meets (.tunmask maskX) (unmaskSt []) (Enc.ofExt 0x3C3 maskX) ∧
      Meets (.tunmask maskX) (unmaskSt [waitTrap]) (Enc.ofExt 0x3C3 maskX)) ∧
    ∃ k, maskBit waitTrap.cause = some k ∧ ((unmaskSt [waitTrap]).group 0).trapMask.getLsbD k = true ∧ k < 4 ∧
      (BitVec.ofNat 4 (1 <<< k)).getLsbD k = true :=
  ⟨⟨meets rfl (by decide +kernel) (by decide +kernel), meets rfl (by decide +kernel) (by decide +kernel),
    meets rfl (by decide +kernel) (by decide +kernel)⟩, ((maskBit 0x80).getD 0), by decide +kernel⟩

/-- SRD of a 32-bit and of a 64-bit register, SWR of each kind, TIME, PFRD of a group's, of a core's and of a base die's
selector, SLEEP of no time and of some. -/
def srdX (n : Nat) (d : Dst) : Ext := ext n d
def pfrdX : Ext := ext 0 (dg 8) (b := g 4)
def sleepX (n : Nat) : Ext := ext 0 (b := im n)
def sysSt (n : DWord) (sup : Bool) : State := trapSt 0 (fun x => { x with g := [(4, n)], super := sup })

theorem test_special_premises : (Meets (.srd (srdX 0 (dv 6))) trapSt (Enc.ofExt 0x3C4 (srdX 0 (dv 6))) ∧
      Meets (.srd (srdX 0x28 (dg 8))) trapSt (Enc.ofExt 0x3C4 (srdX 0x28 (dg 8))) ∧ Meets (.time (ext 0 (dg 8))) trapSt (Enc.ofExt 0x3C8 (ext 0 (dg 8)))) ∧
    (Meets (.swr (swrX 0x10)) (sysSt 7 false) (Enc.ofExt 0x3C5 (swrX 0x10)) ∧ Meets (.swr (swrX 0x26)) (sysSt 7 true) (Enc.ofExt 0x3C5 (swrX 0x26))) :=
  ⟨⟨meets rfl (by decide +kernel) (by decide +kernel), meets rfl (by decide +kernel) (by decide +kernel),
    meets rfl (by decide +kernel) (by decide +kernel)⟩, meets rfl (by decide +kernel) (by decide +kernel),
    meets rfl (by decide +kernel) (by decide +kernel)⟩

theorem test_counter_selectors (n : DWord) (b : Bool) (h : (n = 0 ∧ b = false) ∨ (n = 0x2A ∧ b = false) ∨ (n = 0x40 ∧ b = true) ∨ (n = 0x47 ∧ b = false)) :
    Meets (.pfrd pfrdX) (sysSt n b) (Enc.ofExt 0x3C7 pfrdX) ∧ ((sysSt n b).group 0).super = b ∧
    (sysSt n b).source 0 (Enc.ofExt 0x3C7 pfrdX) .int true (g 4) 0 = n.toNat := by
  rcases h with ⟨rfl, rfl⟩ | ⟨rfl, rfl⟩ | ⟨rfl, rfl⟩ | ⟨rfl, rfl⟩ <;> exact ⟨meets rfl (by decide +kernel) (by decide +kernel), by decide +kernel⟩

theorem test_sleep_premises : (Meets (.sleep (sleepX 0)) trapSt (Enc.ofExt 0x3C9 (sleepX 0)) ∧ Meets (.sleep (sleepX 9)) trapSt (Enc.ofExt 0x3C9 (sleepX 9)) ∧
      Meets (.sleep (sleepX 9)) (trapSt 0 (fun x => { x with sleeps := [(0, 0)] })) (Enc.ofExt 0x3C9 (sleepX 9))) ∧
    (trapSt.group 0).sleeps.look 0 = none :=
  ⟨⟨meets rfl (by decide +kernel) (by decide +kernel), meets rfl (by decide +kernel) (by decide +kernel),
    meets rfl (by decide +kernel) (by decide +kernel)⟩, by decide +kernel⟩

/-- A sleeper whose time has come exactly. -/
theorem test_sleep_end_premises : let s := { st (fun x => { x with
      sleeps := [(0, 50)], splits := [(0, { live := true, pc := 0x80000, mask := 1, wait := .sleep, pend := some parkPend })] }) with time := 50 }
    ((s.group 0).split 0).pend = some parkPend ∧ (s.group 0).sleeps.look 0 = some 50 ∧ ((s.group 0).split 0).wait = .sleep ∧
    (s.group 0).stepping = false ∧ parkPend.eff ≠ 0 ∧ s.mayStart 0 = true := by decide +kernel

/-- XCHG; its request first, and second, at the slice. -/
def xchgX : Ext := ext (ty 6) (dv 6) (v 4) (im 9)
theorem test_xchg_premises : Meets (.xchg xchgX) st (Enc.ofExt 0x0C4 xchgX) ∧ Ready st 0 0 (Enc.ofExt 0x0C4 xchgX) ∧ st.xchgs = [] :=
  ⟨meets rfl (by decide +kernel) (by decide +kernel), ready (legal (by decide +kernel)) (by decide +kernel), rfl⟩

/-- The same with D the port s0o1: an access of the group from its issue (R292). -/
def xchgOut : Ext := ext (ty 6) { cls := .port, idx := 3, sat := false } (v 4) (im 9)
theorem test_xchg_port_premises : let s := st (fun x => { x with ports := [(3, { bound := true })] })
    Ready s 0 0 (Enc.ofExt 0x0C4 xchgOut) ∧ resultOf s 0 (Enc.ofExt 0x0C4 xchgOut) false = .port 3 :=
  ⟨ready (legal (by decide +kernel)) (by decide +kernel), by decide +kernel⟩

def xq (gid reply stage : Nat) : Xchg := { gid := gid, ctx := 0, tag := 9, wide := false, mask := 3, vals := [(0, 1), (1, 2)], reply := reply, stage := stage }
theorem test_xchg_arrival_premises : let s := { st with xchgs := [xq 0 1 0] }
    let u := { st with xchgs := [xq 16 2 1, xq 0 1 0] }
    s.xchgs[0]? = some (xq 0 1 0) ∧ s.onTheWay 1 = false ∧ u.onTheWay 1 = false ∧ (∀ o ∈ u.xchgs.take 1, o.stage ≠ 0) ∧ (∀ o ∈ s.xchgs, o.stage = 1 → meetSlice o.tag ≠ meetSlice 9) ∧
    u.xchgs[1]? = some (xq 0 1 0) ∧ u.xchgs.eraseIdx 1 = [xq 16 2 1] := by decide +kernel

/-! ### The fabric, the throttle and the spill engine (R259, R260, R266, R273, R296 to R300) -/

def pk (input chan lost : Nat) (pro : Option Nat := none) : Packet := { input := input, chan := chan, flits := 4, lost := lost, promoted := pro }
def portFab (l : List Packet) : State := { st with ports := [(3, { packets := l })] }

/-- One packet to be promoted; one promoted; one of the channel being served and one of the next; none. -/
theorem test_promotion_premises : pk 1 0 64 ∈ ((portFab [pk 1 0 64]).fabric 3).packets ∧ 64 ≤ (pk 1 0 64).lost ∧ (pk 1 0 64).promoted = none := by
  decide +kernel

/-- Of the only packet of a port. -/
theorem eligible_one (p : Packet) (h : p.flits ≤ 16) : EligibleAt (portFab [p]) 3 0 p :=
  ⟨rfl, fun k hk q hq _ _ => by
    have e : k = 3 := List.mem_singleton.1 hk
    subst e
    exact List.mem_singleton.1 hq ▸ Nat.le_refl _, h⟩

theorem test_grant_premises : EligibleAt (portFab [pk 1 0 63]) 3 0 (pk 1 0 63) ∧
    EligibleAt (portFab [pk 1 0 64 (some 2)]) 3 0 (pk 1 0 64 (some 2)) ∧
    EligibleAt (portFab [pk 1 1 0]) 3 0 (pk 1 1 0) ∧
    0 < weightOf ((portFab []).fabric 3) 0 ∧ 0 < weightOf ((portFab []).fabric 3) 1 ∧ ((portFab []).fabric 3).chan = 0 ∧
    ((portFab []).fabric 3).granted < weightOf ((portFab []).fabric 3) 0 :=
  ⟨eligible_one _ (by decide), eligible_one _ (by decide), eligible_one _ (by decide), by decide +kernel⟩

/-- The only eligible packet is of channel 1, and channel 0 has none; it stops at this port, or goes on to another. -/
theorem test_grant_channel (i : Nat) (p : Packet) (h : EligibleAt (portFab [pk 1 1 0]) 3 i p) :
    p.promoted = none ∧ p.chan < 4 ∧ p.chan ≠ 0 := by
  have w := h.waits
  match i with
  | 0 => cases w; decide
  | _ + 1 => cases w

theorem test_goes_on_premises : (pk 1 0 0).route = [] ∧ (pk 1 0 0).cargo.answer = none ∧ (pk 1 0 0).input < 1000 ∧
    ({ pk 1 0 0 with route := [4] } : Packet).input ≠ 4 := by decide

/-- A request at the end of its path whose answer has 5 flits; and a request that waits with its agents for a full injection port. -/
theorem test_answer_premises : let p : Packet := { pk 1 0 0 with cargo := .readRequest 64, cluster := 2, slice := 5 }
    p.route = [] ∧ (p.cargo.answer.map (fun x => decide (x.flits ≤ 5))) = some true ∧ (pathDown 2 5).head?.map (fun n => decide (32 ≤ n ∧ p.input ≠ n)) = some true := by
  decide +kernel
theorem test_admit_premises : let s : State := { st with ports := [(3, { packets := [{ pk 1 0 0 with flits := 16 }], backlog := [pk 1 0 0] })] }
    (s.fabric 3).backlog ≠ [] ∧ 16 < flitsOn (s.fabric 3).packets 0 + (pk 1 0 0).flits := by decide +kernel

theorem test_no_grant (i : Nat) (p : Packet) : ¬ EligibleAt (portFab []) 3 i p := fun h => by cases h.waits

/-- 256 samples; a group that has held permission for 64 cycles. -/
theorem test_throttle_premises : let s := { st with
      clusters := [(0, { level := 2, sum := 8000, samples := 256 })], cycle := 64, slots := [(0, { rotation := [(0, 1), (1, 0)] })] }
    256 ≤ (s.cluster 0).samples ∧ (s.slot (slotOf 0)).rotation.find? (fun e => e.1 = 0) = some (0, 1) ∧ 1 + 64 ≤ s.cycle + 1 := by
  decide +kernel

/-- R300: 24.9%, 25% and 90% of the greatest sum. -/
theorem test_levels : levelOf 2047 = 0 ∧ levelOf 2048 = 1 ∧ levelOf 7372 = 3 ∧ levelOf 7373 = 4 := by decide

/-- A spilled token, and a spilled return entry, with its place mapped. -/
def spillSt (tok ret : Nat) : State := { mapped (st (fun x => { x with tokSpill := tok, retSpill := ret })) with
  wgs := [(1, { placeWorkgroup with spillBase := 0xA0000 })] }
theorem test_spill_premises : (let s := spillSt 1 0;
      (s.group 0).tokens.length < 32 ∧ (s.group 0).tokSpill ≠ 0 ∧ (s.group 0).retFill = false ∧
      (match s.translate 0 false false 0 (s.tokAt 0 0) with
       | .ok pa .. => decide (s.slice.length < 16 ∧ s.ecc = [] ∧ s.poison = [] ∧ s.slice.look (pa / 32) = none)
       | _ => false) = true) ∧
    (let s := spillSt 0 1;
      (s.group 0).tokFill = false ∧ (s.group 0).rets.length < 32 ∧ (s.group 0).retSpill ≠ 0 ∧
      (match s.translate 0 false false 0 (s.retAt 0 0) with
       | .ok pa .. => decide (s.slice.length < 16 ∧ s.ecc = [] ∧ s.poison = [] ∧ s.slice.look (pa / 32) = none)
       | _ => false) = true) := by decide +kernel

/-! ### Launches (R275, R276, R313 to R326) -/

/-- A descriptor (R75): entry 0x80000, one group of 8 rows, one granule; and its manifest (R313): one workgroup, LCID 3. -/
def descN : Nat := 0x80000 + 8 * 2 ^ 96 + 2 ^ 112 + 2 ^ 120 + 2 ^ 152
def manN (ver relay : Nat) : Nat :=
  0xA0000 * 2 ^ 256 + 0x5555 * 2 ^ 320 + 0x94000 * 2 ^ 448 + 2 ^ 512 + 2 ^ 544 + 2 ^ 576 + 3 * 2 ^ 736 + relay * 2 ^ 964 + ver * 2 ^ 992
/-- The supervisor's queue of context 0 with one manifest in it, and the partition of cluster 0. -/
def launchCtx : Context := { placeContext with tables := [(0x200, 0x100000)], trapvec := 0x90000 }
def distSt (ver : Nat) : State :=
  let s := (mapped st).qWrite 0x100000 { q4 with esz := 1, blk := true, lq := true, tail := 1, free := 3 }
  let s := (s.homeBytes 0x200000 (toBytes 128 (manN ver 0))).homeBytes 0xA0000 (toBytes 64 descN)
  { s with ctxs := [(0, launchCtx)], launches := [], groups := [], wgs := [], clusters := [(0, { owner := 0x80 })] }

/-- What the visit finds: the code and what the statement asks of the manifest. -/
def found (v : State × Visit) : List Nat :=
  match v with
  | (u, .take k pa live) =>
    [k.code, k.launch.ctx, pa, if live then 1 else 0, k.launch.lcid.toNat, k.launch.muster.toNat, k.launch.mlevel, k.launch.status,
      if u.slice.length < 16 ∧ (u.qRead pa).owner < 8 ∧ (u.qRead pa).free < 2 ^ 31 then 0 else 1, (u.ctx 0).counters.length]
  | _ => []

/-- A manifest that passes, and one of a wrong version; room at its queue (`room`) and no counter yet. -/
theorem test_intake_premises : (((distSt 1).ctx 0).halted = false ∧ ((distSt 1).ctx 0).intake = 0 ∧ ((distSt 1).ctx 0).counters = []) ∧
    found ((distSt 1).visit 0 0) = [0, 0, 0x100000, 0, 3, 0x94000, 0, 0, 0, 0] ∧
    found ((distSt 0).visit 0 0) = [5, 0, 0x100000, 0, 3, 0x94000, 0, 0, 0, 0] := by decide +kernel

/-- A launch with one workgroup to place, alone. -/
def oneLaunch : Launch := { grid := 1, descBytes := toBytes 64 descN }
def placeSt : State := { distSt 1 with launches := [(1, oneLaunch)], ids := 5 }

theorem test_placement_premises : placeSt.launches.look 1 = some oneLaunch ∧
    placeSt.candidates.find? (fun e => placeSt.fitsNow e.1 e.2) = some (1, oneLaunch) ∧ placeSt.savedOf 1 = [] ∧
    (∃ c ∈ List.range 4, ∃ b ∈ List.range 4, placeSt.whereTo c 1 oneLaunch = some [(c, b)] ∧
      (State.startAll 1 [(c, b)] (placeSt.passOver 1 oneLaunch)).isSome = true) := by decide +kernel

/-- A group that retires as the last of its workgroup, cancelled and not. -/
def retireSt (c : Word) : State := { st (fun x => { x with retiring := true, splits := [], cancelled := c }) with
  ctxs := [(0, { placeContext with counters := [{ level := 0, id := 3, ctx := 0, expect := 1, launches := [1] }] })] }

theorem test_retire_premises (c : Word) (h : c = 0 ∨ c = 1) : let s := retireSt c
    (s.group 0).live = true ∧ (s.group 0).retiring = true ∧ (s.group 0).accs = [] ∧ s.engineWork 0 = false ∧ s.mayWork 0 0 = true ∧
    s.wgLive 1 = [0] ∧ (s.wg 1).barred = [] ∧ s.xchgs = [] ∧ (s.slot 0).claims = [] := by
  rcases h with rfl | rfl <;> decide +kernel

/-- A launch whose workgroups are all counted, one without workgroups, each with a counter. -/
theorem test_completion_premises : ∀ n ∈ [0, 1], let s := { retireSt 0 with
      launches := [(1, { grid := n, done := n, lcid := 3 }), (2, { grid := 1, deps := [3] })] }
    s.launches.look 1 = some { grid := n, done := n, lcid := 3 } ∧ s.mayWork 0 808 = true ∧
    (s.ctx 0).counters.map (·.launches) = [[1]] := by decide +kernel

/-- A cancelled level whose grace period ends now. -/
theorem test_grace_premises : let k : Counter := { level := 0, id := 3, ctx := 0, expect := 1, launches := [1], cancelled := true, graceEnd := some 7 }
    let s := { st with time := 7, ctxs := [(0, { placeContext with counters := [k] })] }
    (s.ctx 0).counters.find? (fun c => c.level = 0 && c.id = 3) = some k ∧ k.graceEnd = some 7 ∧ 7 ≤ s.time := by decide +kernel

/-- A workgroup of one group at its RELAY, to a manifest that passes, to one of a wrong version and to one without a RELAY bit
(R325). -/
def relaySt (bit : Nat) (ver : Nat := 1) : State :=
  let s := (distSt 1).homeBytes 0x200000 (toBytes 128 (manN ver bit))
  { s with
    groups := [(0, { placeGroup with
      phys := List.range 8, winSize := 8, rtop := 8, relay := some (0x200000, 0),
      splits := [(0, { live := true, pc := 0x80000, mask := 0xFFFF_FFFF, wait := .relay })] })],
    wgs := [(1, { placeWorkgroup with rowsPer := 8, sgran := 1, accm := 0, tilem := 0 })], launches := [(1, placeLaunch)], ids := 5 }

theorem test_relay_bit_premises : let s := relaySt 0
    (match s.distRead 0 false 0x200000 128 with
     | (u, .ok bs) => decide (field bs 964 964 ≠ 1 ∧ (u.group 0).handler = none ∧ (u.group 0).traps = [] ∧
        (u.group 0).liveSplits = [0] ∧ ((u.group 0).split 0).parked = false ∧ ((u.group 0).split 0).wait = .relay ∧
        u.waiters = [] ∧ (u.slot 0).claims = [] ∧ (u.ctx 0).halted = false ∧ (u.ctx 0).trapvec ≠ 0)
     | _ => false) = true := by decide +kernel

theorem test_relay_commit_premises : ∀ n ∈ [1, 0], let s := relaySt 1 n
    (s.relayReady 1 = true ∧ s.mayWork 0 808 = true ∧ (s.wg 1).preempt = none ∧ (s.wg 1).cancelled = false ∧ s.wgLive 1 = [0] ∧
      (s.wg 1).groups = [0] ∧ (s.wg 1).ngrp = 1 ∧ (s.group 0).relay = some (0x200000, 0) ∧ (s.group 0).cancelled = 0 ∧
      (s.group 0).relayTrap = none) ∧
    (match s.distRead 0 false 0x200000 128 with
     | (u, .ok bs) =>
       (match u.checkManifest 0 false bs with
        | (v, .ok k) => decide (field bs 964 964 = 1 ∧ field bs 970 968 = 0 ∧ field bs 975 972 = 0 ∧
            (v.relaySub 1 bs k = 0 ↔ n = 1) ∧ (v.commitRelay 1 k.launch).isSome = true ∧
            v.successor k.launch = none ∧ (v.ctx 0).counters.length + (v.ctx 0).newCounters k.launch ≤ 4096 ∧ v.waiters = [] ∧ (v.slot 0).claims = [] ∧ (v.ctx 0).halted = false ∧ (v.ctx 0).trapvec ≠ 0)
        | _ => false)
     | _ => false) = true ∧
    (s.group 0).handler = none ∧ (s.group 0).traps = [] ∧ (s.group 0).liveSplits = [0] ∧ ((s.group 0).split 0).parked = false ∧
    ((s.group 0).split 0).wait = .relay := by decide +kernel

/-! ### Pre-emption (R312, R327 to R330) -/

/-- A context with one resident workgroup: nothing known of its launch's mean time (a save), and a mean of 1,000 ns, where
it is drained, or flushed when it is restartable and younger than the mean. -/
def preSt (mean : Nat) (now : Nat) (allres : Bool) (p : Option (Nat × Nat) := none) : State := { st with
  time := now, wgs := [(1, { placeWorkgroup with idem := true, preempt := p })],
  launches := [(1, { placeLaunch with meanSum := mean, meanN := if mean = 0 then 0 else 1, allres := allres })] }

theorem test_request_premises : ((preSt 0 5 true).ctx 0).halted = false ∧ (preSt 0 5 true).power.entering = false ∧
    Method (preSt 0 5 true) 1 3 ∧ savesOne (preSt 0 5 true) 0 1 ∧ Method (preSt 1000 1000 false) 1 1 ∧
    Method (preSt (10 ^ 9) 5 false) 1 2 :=
  ⟨by decide +kernel, by decide +kernel, by decide +kernel, by decide +kernel, by decide +kernel, by decide +kernel⟩

/-- A drain that ends now, alone and in an all-resident launch; a deadline that ends now. -/
theorem test_expiry_premises : ∀ b ∈ [false, true], let s := preSt 1000 9 b (some (1, 9))
    (s.wg 1).preempt = some (1, 9) ∧ 9 ≤ s.time ∧ s.mayWork 0 808 = true ∧ (s.launch 1).allres = b := by decide +kernel

theorem test_deadline_premises : let s := { st with time := 9, ctxs := [(0, { placeContext with preemptEnd := some 9 })] }
    (s.ctx 0).preemptEnd = some 9 ∧ (s.ctx 0).halted = false ∧ s.power.entering = false := by decide +kernel

/-- A workgroup to be flushed, and one to be saved. -/
theorem test_flush_premises : let s := preSt 1000 9 false (some (2, 9))
    (s.wg 1).preempt = some (2, 9) ∧ s.mayWork 0 808 = true ∧ (∀ i ∈ (s.wg 1).groups, s.engineWork i = false ∧ (s.group i).accs = []) ∧
    s.waiters = [] ∧ s.xchgs = [] ∧ s.slots = [] ∧ (s.ctx 0).counters = [] := by decide +kernel

theorem test_save_premises : let s := { preSt 1000 9 false (some (3, 9)) with cores := [(0, { l1 := [(0x8000, { data := 7, dirty := true })] })] }
    (s.wg 1).preempt = some (3, 9) ∧ (s.waiters = [] ∧ s.xchgs = [] ∧ s.slots = []) ∧ (s.core 0).l1.keys ++ s.slice.keys = [0x8000] ∧
    s.mayWork 0 808 = true ∧ s.saveReady 1 s.power.entering = true ∧ s.wgLive 1 ≠ [] := by decide +kernel

/-- A saved workgroup with room for it. -/
def savedToken : Token := { kind := .loop, maskA := 0xFF }
def savedWg : Saved := {
  tokens := [(0, [savedToken.pack])],
  wg := { placeWorkgroup with rowsPer := 8, sgran := 1, accm := 0, tilem := 0, groups := [] },
  groups := [(0, { placeGroup with phys := List.range 8, winSize := 8, rtop := 8 })], copies := [], matrix := [], near := [], xchg := [], power := false }
def restoreSt : State := { distSt 1 with launches := [(1, { oneLaunch with next := 1 })], saved := [savedWg], ids := 5 }

theorem test_restore_premises : restoreSt.candidates.find? (fun e => restoreSt.fitsNow e.1 e.2) = some (1, { oneLaunch with next := 1 }) ∧
    restoreSt.savedOf 1 = [savedWg] ∧ (savedWg.groups.map (·.1)).Nodup ∧ (∀ e ∈ savedWg.groups, e.1 < savedWg.wg.ngrp ∧ e.2.traps = []) ∧
    (∃ c ∈ List.range 4, ∃ b ∈ List.range 4, restoreSt.whereTo c 1 { oneLaunch with next := 1 } = some [(c, b)] ∧
      (State.resumeAll 1 [(c, b)] (restoreSt.passOver 1 { oneLaunch with next := 1 })).isSome = true) := by decide +kernel

/-! ### Halts, stop records and debugging (R262, R375 to R379) -/

/-- A context in a halt: its group's slot has still to stop, or everything has. -/
def haltSt (dbg : Bool) (stopping : List Nat) (debug : DWord := 0) : State := { st with ctxs := [(0, { placeContext with
  halted := true, debugHalt := dbg, cause := if dbg then 0 else 0xC2, haltTime := 0, stopping := stopping, origin := 0, held := stopping,
  records := some dbg, debug := debug, faddrs := [(0, 0x80000)] })] }

/-- Contexts that run, stand in a debug halt, and in a fatal halt. -/
theorem test_halt_line_premises : (st.ctx 0).halted = false ∧ ((haltSt true [0]).ctx 0).debugHalt = true ∧
    (((haltSt false [0]).ctx 0).halted = true ∧ ((haltSt false [0]).ctx 0).debugHalt = false) ∧
    (0xC0 : BitVec 8) ≤ 0xC0 ∧ (0xC4 : BitVec 8) ≤ 0xC4 := by decide +kernel

/-- Engine 0 of a fatal halt and of a debug halt; engine 808 of a halt that it raised. -/
theorem test_engine_stop_premises : ∀ b ∈ [false, true], ∀ e ∈ [0, 808], let s := haltSt b [0, 808]
    (s.ctx 0).halted = true ∧ s.groups.keys.Nodup ∧ e ∈ (s.ctx 0).stopping ∧ e ≤ 808 ∧ (s.ctx 0).records = some (s.ctx 0).debugHalt ∧
    ((s.ctx 0).debugHalt = true → s.atDebugStop 0 e = true) ∧ s.waiters = [] ∧
    (s.groups.look 0).any (fun g => g.live && g.ctx = 0 && slotOf 0 = 0) = true := by decide +kernel

theorem test_release_premises : let s := haltSt false []
    (s.ctx 0).halted = true ∧ (s.ctx 0).debugHalt = false ∧ (s.ctx 0).stopping = [] ∧ s.xchgs = [] ∧ s.searches = [] ∧ s.groups ≠ [] := by
  decide +kernel

/-- The focused split may step; a split that is not there may not. -/
theorem test_step_premises : ∀ b ∈ [true, false], let s := { haltSt true [] with
      groups := [(0, { placeGroup with dbgfocus := if b then 0 else 1 })] }
    let x := (s.group 0).split (s.group 0).dbgfocus.toNat
    (s.ctx 0).debugHalt = true ∧ (s.ctx 0).stopping = [] ∧ (s.group 0).live = true ∧ (s.group 0).ctx = 0 ∧
    (s.group 0).dbgfocus.toNat < 4 ∧ x.live = b ∧ x.parked = false ∧ x.wait = .none := by decide +kernel

/-- A split beside a handler's steps nothing; a trap that waits for its delivery at RESUME, and one that stays masked. -/
theorem test_step_beside_handler : let s := { haltSt true [] with groups := [(0, { placeGroup with handler := some { hand with split := 1 } })] }
    (s.group 0).handler = some { hand with split := 1 } ∧ (1 : Nat) ≠ (s.group 0).dbgfocus.toNat := by decide +kernel

theorem test_resume_premises : ∀ m ∈ ([0, 8] : List (BitVec 4)), let s := { haltSt true [] with
      ctxs := [(0, { placeContext with halted := true, debugHalt := true, trapvec := 0x90000 })],
      groups := [(0, { placeGroup with traps := [pend1], trapMask := m })] }
    (s.ctx 0).debugHalt = true ∧ (s.ctx 0).stopping = [] ∧ (s.group 0).handler = none ∧ (s.group 0).traps = [] ++ pend1 :: [] ∧
    (s.group 0).masks pend1.cause = decide (m = 8) ∧ (s.ctx 0).trapvec ≠ 0 := by decide +kernel

/-- R378: the STEP has DBGFOCUS's split of the group that DBGSLOT and DBGGRP name. -/
theorem test_step_asks : ((after (.debugStep 0) (haltSt true [] 0x0003_0000_0000_0000)).ctx 0).stepReq = some none := by
  decide +kernel

/-- R377: TSTOP of the record. -/
theorem test_record_time : let s := { haltSt false [0] with time := 77 }
    stopWord (after (.engineHaltStop 0 0) s) 0 0 5 = 77 := by decide +kernel

/-! ### Translation, migration and the stacks (R335, R339, R341 to R343, R366 to R368) -/

/-- A context with two shootdowns under way, a pool and a cached translation. -/
def shootSt (pool : Nat) : State := { st with
  time := 5000, ctxs := [(0, { placeContext with
  shootdowns := [0x80000, 0x90000], pool := List.replicate pool 0x200000, window := 9, migration := 0x0040_0010_0000_0001 })],
  cores := [(0, { tlb := [{ ctx := 0, va := 8, large := false, entry := 0xC7, leaf := 0x100000 }] })] }

theorem test_shootdown_premises : ∀ k ∈ [0, 1], ((shootSt 0).ctx 0).shootdowns[k]? = some (if k = 0 then 0x80000 else 0x90000) ∧
    (shootSt 0).shotBusy 0 (if k = 0 then 0x80000 else 0x90000) = false := by decide +kernel

/-- An operation parked on a queue block of the page whose shootdown is under way, and one that has taken its slot there; one
on another page of a 512 MiB entry does too, of a 64 KiB entry not. -/
def shotTlb (large : Bool) : TlbEntry := { ctx := 0, va := 0x80000, large := large, entry := 0x900C7, leaf := 0x100000 }
def shotEnq (va : Nat) : Enq := {
  id := 1, gid := 0, sid := 0, block := 0x90040, va := va, index := 0, size := 64, stream := 0, space := 1, src := 0, target := .none, lanes := 1 }
def shotSt (large : Bool) (va : Nat) (parked : Bool) : State := { shootSt 0 with
  inEffect := [shotTlb large],
  waiters := if parked then [{ gid := 0, sid := 0, block := 0x90040, va := va, enq := true }] else [],
  enqs := if parked then [] else [shotEnq va] }
theorem test_shot_busy_premises : ∀ parked ∈ [true, false], ∀ large ∈ [true, false], ∀ va ∈ [0x80040, 0x90040],
    (shotSt large va parked).leafFor 0 0x80000 = some (0x900C7, 0x100000, large) ∧
    (shotSt large va parked).shotBusy 0 0x80000 = decide (large = true ∨ va = 0x80040) := by decide +kernel

/-- A frame of the first and of the last 64 KiB of HBM, and of the bank-linear window; a full pool; a window that has ended. -/
theorem test_pool_premises : (∀ pa ∈ [0, 2 ^ 35 - 65536], (shootSt 0).window pa = some 0 ∧ pa % 65536 = 0) ∧ (shootSt 0).window blBase = some 1 ∧
    (∀ n, ((shootSt n).ctx 0).pool.length = n) ∧ ((shootSt 0).ctx 0).promoted = [] ∧ (shootSt 0).moves = [] ∧
    ((shootSt 0).ctx 0).window ≠ (shootSt 0).time / ((((shootSt 0).ctx 0).migration.extractLsb 47 36).toNat * 1000) :=
  ⟨by decide +kernel, by decide +kernel, fun n => List.length_replicate (n := n) (a := 0x200000), by decide +kernel, by decide +kernel, by decide +kernel⟩

/-- A page of the capacity tier at the head of a slice's queue, its entry at 0x100008 with these low bits. -/
def pageSt (low : Nat) (c : Context) (busy : List Nat) : State := State.homeBytes { st with
  promote := [(3, 1, 0, 0x100008)], busy := busy, ctxs := [(0, c)], pageCount := [(1, 64)] } 0x100000
  (toBytes 32 ((capBase + 65536 + low) * 2 ^ 64))
def pageCtx (pool : List Nat) : Context := { placeContext with migration := 0x0040_0640_0000_0001, pool := pool }
/-- A promoted page, whose entry stands at 0x100010. -/
def heldCtx : Context := { pageCtx [] with promoted := [(2, 0x300000, 0x100010, false)] }

/-- A page that may be promoted, with a frame in the pool and with none. -/
theorem test_page_promotion_premises : ∀ c ∈ [pageCtx [0x200000], heldCtx], let s := pageSt 0xC7 c []
    s.promote.find? (fun e => e.1 = 3) = some (3, 1, 0, 0x100008) ∧ s.moves = [] ∧ s.slice.length < 16 ∧
    (s.ctx 0).migration.getLsbD 0 = true ∧ s.promotable 1 0x100008 = true ∧
    ((s.ctx 0).pool ≠ [] ∨ ((s.ctx 0).promoted[(s.ctx 0).hand]? = some (2, 0x300000, 0x100010, false) ∧
      ∀ x ∈ (s.ctx 0).promoted, x.2.2.1 ∉ s.busy)) := by decide +kernel

/-- Pages that are not promoted: MS set (bit 4), a large entry (bit 3), T clear. -/
theorem test_no_promotion_premises : ∀ low ∈ [0xD7, 0xCF, 0x47], let e := (pageSt low (pageCtx []) []).peek64 0x100008
    e.getLsbD 4 = true ∨ e.getLsbD 3 = true ∨ e.getLsbD 7 = false := by decide +kernel

/-- The move of a page to HBM and back, under way; nothing of its frames is cached. -/
theorem test_page_move_premises : ∀ d ∈ [false, true], let m : Move := ⟨3, 1, 0, 0x100008, 0x200000, d⟩
    let s := { pageSt 0x1C7 (pageCtx []) [0x100008] with moves := [m] }
    (s.moves.find? (fun x => x.slice = 3) = some m ∧ s.retired = [] ∧ s.slice.length < 16) ∧
    0x200000 % 65536 = 0 ∧ 0x200000 < 2 ^ 39 ∧ 1 < 2 ^ 25 ∧ 0x100008 / 65536 ≠ 0x200000 / 65536 ∧ 0x100008 < 2 ^ 39 ∧
    (∀ k ∈ s.slice.keys, k = 0x100000 / 32) ∧ s.cores = [] := by decide +kernel

/-- So both frames are at rest. -/
theorem test_frame_at_rest (s : State) (pa : Nat) (h : ∀ k ∈ s.slice.keys, k = 0x100000 / 32) (c : s.cores = [])
    (p : pa / 65536 ≠ 0x100000 / 65536) (a : pa % 65536 = 0) : FrameAtRest s pa := by
  refine fun i hi => ⟨?_, fun n => by simp [State.core, c, Tab.get, Tab.look]⟩
  refine Option.eq_none_iff_forall_ne_some.2 fun x hx => ?_
  have := h _ (Tab.mem_keys_of_look s.slice hx)
  omega

/-- A sector of a stack with a transient and with a lasting failure, and poisoned. -/
def eccSt (l : Bool) : State := { st with ecc := [(blBase / 32 + 5, l)] }
theorem test_scrub_premises : ∀ l ∈ [false, true], blBase ≤ (blBase / 32 + 5) * 32 ∧ (blBase / 32 + 5) * 32 < capBase ∧
    blBase / 32 + 5 ∉ (eccSt l).poison ∧ (eccSt l).ecc.find? (fun e => e.1 = blBase / 32 + 5) = some (blBase / 32 + 5, l) ∧
    blBase / 32 + 5 ∈ { eccSt l with poison := [blBase / 32 + 5] }.poison := by decide +kernel

/-- A bank with every spare row in use. -/
theorem test_repair_premises : ((List.replicate Config.spareRows (0, 0, 0, 9)).filter
    (fun e : Nat × Nat × Nat × Nat => e.1 = 0 && e.2.1 = 0 && e.2.2.1 = 0)).length = Config.spareRows := by
  simp

/-- R368: the register of a sector that fails lastingly: UV, PSN, one failure. -/
theorem test_scrub_record : let t := after (.scrub (blBase / 32 + 5)) (eccSt true)
    bankReg t (blBase / 32 + 5) &&& 0x80FF_0000_0008_0000 = 0x8001_0000_0008_0000 := by decide +kernel

/-! ### Control space and power (R31, R384, R385, R387 to R391, R393, R395) -/

/-- The first and the last cluster: its entry may be written by the owner context while no workgroup is on it. -/
theorem test_partition_premises : (∀ n ∈ [0, 31], n < 32 ∧ ∀ e ∈ { st with wgs := [] }.wgs, e.2.core / 4 ≠ n) ∧
    (∃ e ∈ st.wgs, e.2.core / 4 = 0) ∧ (st.cluster 0).owner ≠ (0x81 : BitVec 8) &&& 0x87 ∧ st.owner ≠ st.owner + 1 := by
  decide +kernel

/-- The words of a block where the clauses on it meet. -/
theorem test_block_premises : ∀ k ∈ [0, 8, 11, 14, 0x200, 0x210, 0x400, 0x47F, 0x600, 0x607, 0x2000, 0x3FFF, 0x4000, 0x7FFF, 0x8000,
    0x83FF, 0xC000, 0xFFFF, 0x1FFFFF], k < 0x200000 ∧ blockAddr 7 k < 0x0440_0000_0000 := by decide +kernel

/-- The first and the last bank error register: not among the blocks of the contexts. -/
theorem test_bank_word_premises : ∀ e ∈ [(0, 0, 0), (7, 63, 31)], e.1 < 8 ∧ e.2.1 < 64 ∧ e.2.2 < 32 ∧
    blockAddr 7 0x1FFFFF < 0x0440_0000_0000 + e.1 * 2 ^ 20 + e.2.1 * 256 + e.2.2 * 8 := by decide

/-- R341 and R393: what the words written keep. -/
theorem test_partition_write : ((after (.partitionTableWrite st.owner 31 0xFF) st).cluster 31).owner = 0x87 := by decide +kernel
theorem test_migration_write : ((after (.migrationControlWrite 0 0x0001_0010_0000_0001) st).ctx 0).migration = 0x0001_0010_0000_0001 := by
  decide +kernel

/-- R31: 1,960 W does not exceed the limit, 1,960.001 W does. -/
theorem test_clock : (after (.powerMeasurement 1960000) st).power.clock = 4000 - 125 ∧
    (after (.powerMeasurement 1960001) st).power.clock = 4000 - 250 := by decide +kernel

/-- A device in Camp since its warning, which fell 100 ms ago and one nanosecond less. -/
def campSt (late : Nat) : State := { st with
  time := 100_000_007 - late, groups := [], wgs := [],
  power := { state := .camp, campByWarning := true, warnFell := some 7, campStart := 5 } }

theorem test_camp_premises : ((st.power.entering = false ∧ st.power.state ≠ .camp) ∧
      { st with power := { entering := true } }.power.entering = true ∧ (campSt 0).power.state = .camp) ∧
    (∀ d ∈ [0, 1], (campSt d).power.campByWarning = true ∧ (campSt d).power.warning = false ∧ (campSt d).power.warnFell = some 7) ∧
    (st.power.state ≠ .camp ∧ { campSt 0 with power := { (campSt 0).power with warnFell := none } }.power.warnFell = none) ∧
    7 + 100_000_000 ≤ (campSt 0).time ∧ (campSt 1).time < 7 + 100_000_000 := by decide +kernel

/-- A dirty sector of the first and of the last bytes of a tier of two channels. -/
theorem test_camp_lines : ∀ a ∈ [capBase, capBase + 2 ^ 38 - 32],
    let s := { campSt 0 with populated := 2, slice := [(a / 32, { dirty := true, data := 5 })] }
    (∀ k ∈ s.slice.keys, capBase ≤ k * 32 → s.window (k * 32) = some 2) ∧ a / 32 * 32 = a ∧
    (s.slice.look (a / 32)).isSome = true := by decide +kernel

/-- A device at rest with one group that sleeps, and with no workgroup, at each bound of LTOL. -/
def restSt (ltol : Nat) (some' : Bool) : State := { st with
  groups := if some' then [(0, { placeGroup with splits := [(0, { live := true, pc := 0x80000, mask := 1, wait := .sleep })], sleeps := [(0, 50)] })] else [],
  wgs := if some' then [(1, placeWorkgroup)] else [],
  launches := [(1, { placeLaunch with grid := 1, next := 1 })],
  power := { ltol := BitVec.ofNat 20 ltol } }

theorem atRest {s : State}
    (h : (∀ e ∈ s.groups, e.2.accs = [] ∧ e.2.replies = [] ∧ e.2.retiring = false ∧
        ∀ x ∈ e.2.splits, x.2.live = true → x.2.parked = true ∨ (x.2.wait ≠ .none ∧ x.2.wait = .sleep)) ∧
      (∀ e ∈ s.cores, e.2.copies = [] ∧ e.2.matrix = [] ∧ e.2.near = []) ∧
      (s.searches = [] ∧ s.walkers = [] ∧ s.msgs = [] ∧ s.enqs = [] ∧ s.arrivals = []) ∧ (s.promote = [] ∧ s.busy = [] ∧ s.moves = []) ∧
      (∀ e ∈ s.net, e.2.unacked = [] ∧ e.2.held = [] ∧ e.2.ackDue = none) ∧
      (∀ e ∈ s.candidates, s.fitsNow e.1 e.2 = false) ∧ ∀ e ∈ s.ctxs, e.2.preemptEnd = none) : AtRest s :=
  ⟨fun e he => ⟨(h.1 e he).1, (h.1 e he).2.1, (h.1 e he).2.2.1, fun x hx hl =>
    ((h.1 e he).2.2.2 x hx hl).imp_right fun k => ⟨k.1, fun c hc => by simp [k.2] at hc⟩⟩, h.2.1, h.2.2.1, h.2.2.2.1,
    h.2.2.2.2.1, h.2.2.2.2.2⟩

theorem test_rest_premises (l : Nat) (h : l = 0 ∨ l = 1 ∨ l = 2 ∨ l = 79 ∨ l = 80 ∨ l = 2999 ∨ l = 3000) :
    AtRest (restSt l true) ∧ AtRest (restSt l false) ∧ (restSt l true).power.state = .run ∧ (restSt l true).power.ltol.toNat = l := by
  rcases h with rfl | rfl | rfl | rfl | rfl | rfl | rfl <;>
    exact ⟨atRest (by decide +kernel), atRest (by decide +kernel), by decide +kernel, by decide +kernel⟩

theorem test_save_at_idle_premises : let s := restSt 3000 true
    s.wgs = [(1, placeWorkgroup)] ∧ (s.ctx placeWorkgroup.ctx).halted = false ∧ s.saveReady 1 true = true := by decide +kernel

/-- A SLEEP that ends now; a port that is down. -/
theorem test_idle_exit_premises : let s := { restSt 80 true with time := 50, power := { state := .idle2 } }
    s.power.state = .idle2 ∧ (∃ e ∈ s.groups, e.2.live = true ∧ ∃ k ∈ e.2.sleeps, k.2 ≤ s.time) ∧
    (∀ port ∈ [0, 1], { st with links := [] }.links.get false port = false) := by decide +kernel

/-! ### Ethernet (R188, R352 to R364) -/

/-- The queue of four slots, in scope sys; a region and a reduction binding of the context's, and queue pair 0 bound to it. -/
def qSys : QBlock := { q4 with scope := 2 }
def netSt (q : QBlock) : State := { qSt q with
  ctxs := [(0, { placeContext with tables := [(0x8000, 1), (0x8001, 0x0000_0005_0000_0040), (0x8002, 0x100000), (0x8003, 0x200000),
    (0xC000, 0x1F), (0xC001, 0x0000_0077_0000_0000), (0xC002, 0x200000), (0xC003, 0x1000), (0x10000, 1), (0x10001, 0x100000)] })] }

/-- A waybill from device 5 for context 0: the stream's first. -/
def wb (typ : Nat) (payload : List Byte) (seq : Nat := 1) : Waybill := {
  src := 5, dst := 0, ctx := 0, typ := BitVec.ofNat 8 typ, ver := 1, seq := BitVec.ofNat 64 seq, ack := 0, sack := 0, ao := false,
  rsvd := false, payload := payload }

theorem isNext {s : State} {w : Waybill} {n : Nat}
    (h : w.typ.toNat = n ∧ 1 ≤ n ∧ n ≤ 9 ∧ w.ao = false ∧ w.rsvd = false ∧ w.ver = 1 ∧ w.dst = s.device ∧ w.payload.length ≤ 8192 ∧
      w.seq.toNat = (s.stream (waybillKey w)).rxAck + 1 ∧ (s.stream (waybillKey w)).held = []) : Next s w n :=
  ⟨⟨h.1, h.2.1, h.2.2.1, h.2.2.2.1, h.2.2.2.2.1⟩, ⟨h.2.2.2.2.2.1, h.2.2.2.2.2.2.1, h.2.2.2.2.2.2.2.1⟩, h.2.2.2.2.2.2.2.2.1,
    by simp [h.2.2.2.2.2.2.2.2.2]⟩

/-- The streams of R360: a duplicate, an early number at each bound, one out of range; acknowledgements that fall due now. -/
def streamSt : State := { st with
  time := 10, links := [(0, true)], net := [(40, {
    peer := 5, ctx := 0, rxAck := 3, replies := [(3, wb 2 [])], ackDue := some 10,
    unacked := [(wb 5 [], 7, 10), (wb 5 [] 2, 0, 11)] })] }
theorem test_stream_premises : let x := streamSt.stream 40
    streamSt.links.get false 0 = true ∧ (∀ j ∈ [0, 1], st.links.get false j = false) ∧ (wb 5 [] 2).rsvd = false ∧
    (∀ n ∈ [3, 5, 35, 36], (wb 1 [] n).dst = streamSt.device ∧ waybillKey (wb 1 [] n) = 40) ∧
    x.replies.find? (fun e => e.1 = 3) = some (3, wb 2 []) ∧ (∀ v ∈ x.held, v.seq ≠ (wb 1 [] 5).seq) ∧
    x.rxAck + 1 < 5 ∧ 35 ≤ x.rxAck + 32 ∧ x.rxAck + 32 < 36 ∧ streamSt.power.state ≠ .camp ∧ x.ackDue = some 10 ∧
    (∃ u ∈ x.unacked, u.2.2 ≤ streamSt.time) ∧ (∀ u ∈ x.unacked, u.2.2 ≤ streamSt.time → u.2.1 < (streamSt.ctx 0).rlim) ∧
    { wb 7 [] with rsvd := true }.rsvd = true ∧ (wb 10 []).typ.toNat = 10 ∧ { wb 1 [] with ao := true }.ao = true := by decide +kernel

/-- One retransmission more, and the limit is reached. -/
theorem test_unreachable_premises : let s := { streamSt with net := [(40, { peer := 5, ctx := 0, unacked := [(wb 5 [], 8, 10)] })] }
    s.links.get false 0 = true ∧ ∃ u ∈ (s.stream 40).unacked, u.2.2 ≤ s.time ∧ (s.ctx 0).rlim ≤ u.2.1 := by decide +kernel

/-- An ENQ of 64 bytes to the queue at 0x100000. -/
def enqWb (n : Nat := 64) : Waybill := wb 1 (toBytes 8 0x100000 ++ List.replicate n 7)

theorem takable {u : State} {ctx va pa : Nat} {l : List Byte}
    (h : (va ≠ 0 ∧ va % 64 = 0 ∧ pa % 64 = 0 ∧ u.translate ctx true false 1 va = .ok pa 0xF 0x40000) ∧
      queueFails (u.peekBytes pa 64) ctx none false false = none ∧ l.length ≤ (u.qRead pa).elem ∧ (u.qRead pa).penq = 0 ∧
      u.enqs = [] ∧ u.waiters = []) : Takable u ctx va pa l :=
  ⟨⟨h.1.1, h.1.2.1, h.1.2.2.1, _, _, h.1.2.2.2⟩, h.2.1, h.2.2.1, ⟨h.2.2.2.1, by simp [h.2.2.2.2.1]⟩, h.2.2.2.2.2⟩

theorem test_enq_premises (q : QBlock) (h : q = qSys ∨ q = { qSys with tail := 4, free := 0 }) :
    Next (netSt q) (enqWb) 1 ∧ (let u := received (netSt q) enqWb
      Takable u 0 (u.enqTarget 0 (ofBytes ((enqWb).payload.take 8))) 0x100000 ((enqWb).payload.drop 8) ∧ (u.ctx 0).live = true ∧
      u.supervisorBlock 0 0x100000 = false ∧ u.settledPa 0 0 0x100000 = some 0x100000 ∧
      u.qRead 0x100000 = q ∧ (u.ctx 1).live = false ∧ u.translate 0 true false 1 0x100000 = .ok 0x100000 0xF 0x40000 ∧
      (u.qRead 0x100000).elem < ((enqWb 65).payload.drop 8).length) := by
  rcases h with rfl | rfl <;> exact ⟨isNext (by decide +kernel), takable (by decide +kernel), by decide +kernel⟩

/-- The same block as that of the context's supervisor queue; a payload too short for an address. -/
theorem test_enq_refused_premises : let s := { netSt qSys with ctxs := [(0, { placeContext with tables := [(0x210, 0x100000)] })] }
    let u := received s enqWb
    Next s enqWb 1 ∧ Next s (wb 1 [1, 2, 3]) 1 ∧ u.settledPa 0 0 0x100000 = some 0x100000 ∧ u.supervisorBlock 0 0x100000 = true ∧
    u.translate 0 true false 1 0x100000 = .ok 0x100000 0xF 0x40000 ∧ (u.ctx 0).live = true ∧ (wb 1 [1, 2, 3]).payload.length < 8 :=
  ⟨isNext (by decide +kernel), isNext (by decide +kernel), by decide +kernel⟩

/-- The element can be written into its slot; whatever bytes move, they are read and written. -/
def putOk (r : State × Got) : Bool := match r.2 with | .ok l => l.isEmpty | _ => false
def gotOk (r : State × Got × Option (Nat × Bool)) : Bool := match r.2.1 with | .ok l => l.all (fun b => !b.2) | _ => false
theorem test_enq_writes : let u := received (netSt qSys) enqWb
    let r := u.putBytes ((u.qRead 0x100000).elem / 32) (remote 0 true) ⟨0, (u.qRead 0x100000).slot (u.qRead 0x100000).tail⟩
      (padded ((enqWb).payload.drop 8) (u.qRead 0x100000).elem)
    putOk r = true ∧ r.1.slice.length < 16 := by decide +kernel

/-- GET and PUT of 64 bytes in the region, at its last byte and past it. -/
def getWb (va : Nat) : Waybill := wb 3 (toBytes 4 1 ++ toBytes 4 64 ++ toBytes 8 va ++ toBytes 8 0)
def putWb (va : Nat) : Waybill := wb 5 (toBytes 4 1 ++ toBytes 4 0 ++ toBytes 8 va ++ List.replicate 64 9)

theorem test_get_premises : let u := received (netSt qSys) (getWb 0x200FC0)
    Next (netSt qSys) (getWb 0x200FC0) 3 ∧ Next (netSt qSys) (putWb 0x200FC0) 5 ∧
    (u.ctx 0).region (fun e => decide (field e 4 3 = 3)) 0x200FC0 64 = true ∧
    (u.ctx 0).region (fun e => decide (field e 4 4 = 1) && decide (field e 2 2 = 1)) 0x200FC0 64 = true ∧
    u.pages 0 0x200FC0 64 0 = .ok ∧ u.pages 0 0x200FC0 64 1 = .ok ∧
    gotOk (u.getBytes (sectorsOf 0x200FC0 64) (remote 0 false) ⟨0, 0x200FC0⟩ 64) = true ∧
    putOk (u.putBytes (sectorsOf 0x200FC0 64) (remote 0 false) ⟨0, 0x200FC0⟩
      ((((putWb 0x200FC0).payload.drop 16)).map (fun b => (b, false)))) = true :=
  ⟨isNext (by decide +kernel), isNext (by decide +kernel), by decide +kernel⟩

/-- No region of a context without entries admits anything. -/
theorem test_get_refused_premises (ok : List Byte → Bool) (va n : Nat) : (st.ctx 0).region ok va n = false := by
  have h : ∀ j, (st.ctx 0).entry32 0xC000 j = List.replicate 32 0 := fun j =>
    show (List.range 4).flatMap (fun k => toBytes 8 ((Tab.get 0 ([] : Tab DWord) (0xC000 + 4 * j + k)).toNat)) = _ from by
      simp only [show ∀ k, Tab.get (0 : DWord) [] k = 0 from fun _ => rfl]; decide
  simp only [Context.region, List.any_map, List.any_eq_false]
  intro j _
  have : field (List.replicate 32 0) 0 0 = 0 := by decide
  simp only [Function.comp, h, this]; simp

/-- A CPYR get of 64 bytes that waits for its data, and a put all of whose bytes have been sent. -/
def getCopy (units : List CUnit) : Copy := { feCopy with kind := 3, mod := 0, dst := ⟨0, 0x200000⟩, src := ⟨0, 0x300000⟩, ctl := [64, 5], units := units, sent := true }
def remoteSt (c : Copy) : State := { netSt qSys with cores := [(0, { copies := [c] })] }
def dataWb (len : Nat) : Waybill := wb 4 (toBytes 4 1 ++ toBytes 4 0 ++ toBytes 4 len ++ List.replicate 4 0 ++ List.replicate 64 3)
def ackWb (n : Nat) : Waybill := wb 6 (toBytes 4 1 ++ List.replicate 4 0 ++ toBytes 8 n)

theorem test_getdata_premises : let c := getCopy [.get 0, .get 32]
    let u := received (remoteSt c) (dataWb 64)
    Next (remoteSt c) (dataWb 64) 4 ∧ Next (remoteSt c) (dataWb 0xFFFFFFFF) 4 ∧ u.findCopy 40 1 = some (0, 0, c) ∧
    u.mayWork 0 640 = true ∧
    (let r := u.putBytes (sectorsOf 0x200000 64) (c.who 0) c.dst (List.replicate 64 (3, false))
     putOk r = true ∧ (r.1.core 0).copies = (u.core 0).copies) :=
  ⟨isNext (by decide +kernel), isNext (by decide +kernel), by decide +kernel⟩

/-- Data that ends within a sector, with a sector still to come: eight bytes wait (R182). -/
theorem test_getdata_tail_premises : let c := getCopy [.get 0, .get 32]
    let u := received (remoteSt c) (dataWb 40)
    Next (remoteSt c) (dataWb 40) 4 ∧ c.gathers = true ∧ c.tail = [] ∧ (0x200000 + 0 + 40) % 32 = 8 ∧
    (let r := u.putBytes (sectorsOf 0x200000 32) (c.who 0) c.dst (List.replicate 32 (3, false))
     putOk r = true ∧ (r.1.core 0).copies = (u.core 0).copies) :=
  ⟨isNext (by decide +kernel), by decide +kernel⟩

theorem test_putack_premises : ∀ n ∈ [64, 2 ^ 64 - 1], let c := getCopy []
    let u := received (remoteSt c) (ackWb n)
    (remoteSt c).device = (ackWb n).dst ∧ (ackWb n).seq.toNat = ((remoteSt c).stream 40).rxAck + 1 ∧
    u.findCopy 40 1 = some (0, 0, c) ∧ u.mayWork 0 640 = true ∧ c.units = [] ∧
    ((c.ctl.getD 0 0).extractLsb 31 0).toNat ≤ n ∧ field (ackWb n).payload 127 64 = n := by decide +kernel

/-- A TOPKSUM of a bound id and of another. -/
theorem test_topksum_premises : ((netSt qSys).ctx 0).binding 6 = none ∧
    (match ((netSt qSys).ctx 0).binding 5 with
     | some e => decide (field e 95 64 = 64 ∧ field e 191 128 = 0x100000 ∧ field e 255 192 = 0x200000)
     | none => false) = true ∧
    putOk ((netSt qSys).putBytes (sectorsOf 0x200000 64) (remote 0 false) ⟨0, 0x200000⟩ (List.replicate 64 (1, false))) = true := by
  decide +kernel

/-- Requests of RoCEv2: key 0x77, up to the region's last byte; SEND to the bound queue, to a full one and to an unbound pair. -/
def rq (psn : Nat) (n : Nat := 64) : Rdma :=
  { qp := 0, psn := BitVec.ofNat 24 psn, ctx := 0, key := 0x77, va := 0x200FC0, len := n, data := List.replicate n 5 }
theorem test_psn_premises : let s := { netSt qSys with psns := [(0, 7)] }
    Taken s (rq 7) ∧ (let a := fun n => ((rq n).psn - s.psns.get 0 0).toNat; a 8 ≠ 0 ∧ a 8 < 2 ^ 23 ∧ 2 ^ 23 ≤ a 6) :=
  ⟨⟨by decide, by decide⟩, by decide⟩

theorem test_rdma_premises : let s := netSt qSys
    { s with busy := [0x40000] }.pages 0 0x200FC0 64 1 = .busy ∧ (s.qRead 0x100000).elem < (rq 0 65).data.length ∧ (rq 0).psn = s.psns.get 0 0 ∧
    (∀ b ∈ [2, 3], (s.ctx 0).region (fun e => decide (field e 1 1 = 1) && decide (field e b b = 1) && decide (field e 127 96 = 0x77))
      0x200FC0 64 = true) ∧ s.qpError = [] ∧ s.pages 0 0x200FC0 64 1 = .ok ∧ s.pages 0 0x200FC0 64 0 = .ok ∧
    s.pages 0 0x2_0000_0000 64 1 = .fault ∧ s.bindable 0 0x100000 = true ∧ s.bindable 0 0 = false ∧
    ((s.ctx 0).tables.get 0 0x10000).getLsbD 0 = true ∧ ((s.ctx 0).tables.get 0 0x10002).getLsbD 0 = false := by decide +kernel

theorem test_send_premises (q : QBlock) (h : q = qSys ∨ q = { qSys with tail := 4, free := 0 }) :
    Takable (netSt q) 0 0x100000 0x100000 (List.replicate 64 5) ∧ (netSt q).qRead 0x100000 = q := by
  rcases h with rfl | rfl <;> exact ⟨takable (by decide +kernel), by decide +kernel⟩

/-- R361: status 0 and the element's first byte in its slot. -/
theorem test_enq_done : let t := after (.enqWaybill enqWb) (netSt qSys)
    (t.outbox.map (fun a => a.payload.drop 8)) = [[0]] ∧ (t.qRead 0x100000).free = 3 ∧ t.peekBytes 0x200000 1 = [7] := by decide +kernel

/-! ### Management, the sideband, and the step (R33 to R40, R271, R395 to R399) -/

/-- A MGMT waybill of a command with so many bytes of body, from device 5, which the list names. -/
def mgmtSt : State := { netSt qSys with mgmtList := [5], ctxs := [(0, { placeContext with tables := [(0x210, 0x100000)] })] }
def mgmtWb (code : Nat) (body : List Byte) : Waybill := wb 9 ([BitVec.ofNat 8 code, 0, 1, 2] ++ body)

/-- Every command with a body of the right length: 0x02 of stack 7, the last base unit; 0x06 to a bound inbox. -/
theorem test_mgmt_premises : ∀ e ∈ [(1, List.replicate 32 (0 : Byte)), (2, [7, 63, 1, 0]), (2, [0, 48, 16, 0]), (3, toBytes 4 0xFFFFF), (4, []),
      (6, toBytes 4 0 ++ List.replicate 128 0), (0, []), (5, []), (7, [])],
    let w := mgmtWb e.1 e.2
    (w.typ.toNat = 9 ∧ w.ao = false ∧ w.rsvd = false ∧ w.ver = 1 ∧ w.dst = mgmtSt.device ∧ w.payload.length ≤ 8192 ∧
      w.seq.toNat = (mgmtSt.stream 40).rxAck + 1 ∧ (mgmtSt.stream 40).held = []) ∧ w.src ∈ mgmtSt.mgmtList ∧
    (e.1 = 1 → w.payload.length = 36) ∧ (e.1 = 2 ∨ e.1 = 3 → w.payload.length = 8) ∧ (e.1 = 4 → w.payload.length = 4) ∧
    (e.1 = 6 → w.payload.length = 136 ∧ field w.payload 63 40 = 0) ∧ (e.1 = 3 → field w.payload 63 52 = 0) := by decide +kernel

theorem test_mgmt_enqueue_premises : let u := received mgmtSt (mgmtWb 6 (toBytes 4 0 ++ List.replicate 128 0))
    Takable u 0 0x100000 0x100000 (List.replicate 64 0) ∧ 0 < (u.qRead 0x100000).free ∧
    ((mgmtSt.ctx 0).tables.get 0 0x210).toNat = 0x100000 ∧ ((mgmtSt.ctx 1).tables.get 0 0x210).toNat = 0 ∧
    (5 : BitVec 16) ∉ (netSt qSys).mgmtList ∧ mgmtSt.power.entering = false ∧ mgmtSt.power.state ≠ .camp :=
  ⟨takable (by decide +kernel), by decide +kernel⟩

/-- The sideband's commands are accepted while the device is off, and not while it runs (an image of its own is accepted or
refused as Config.imageValid says: R399, log 21). -/
theorem test_sideband_premises : recoverable State.reset ∧ recoverable (campSt 0) ∧ ¬ recoverable st ∧ st.booted = true ∧
    (∀ n ∈ [(1 : BitVec 8), 3], 1 ≤ n ∧ n ≤ 3) ∧ (2 ^ 24 - 28) + (List.replicate 28 (0 : Byte)).length ≤ 2 ^ 24 ∧
    { State.reset with mgmt := { selected := 1 } }.mgmt.selected ≠ 0 := by decide +kernel

/-- R399: a second SELECT_IMAGE empties the staging buffer. -/
theorem test_select_image : let t := after (.sidebandSelectImage 3) { State.reset with mgmt := { staging := [(0, [1])] } }
    t.mgmt.selected = 3 ∧ t.mgmt.staging = [] ∧ t.mgmt.recovery = 1 := by decide +kernel

/-! #### The step -/

/-- A placed program of one word: the split's own turn, its slot's turn, and no turn listed. -/
theorem test_turn_premises : ∀ l ∈ [[Turn.split 0 0], [.issue 0 0], []], let s := { State.reset.withFetchWord 32 0x0810D600 with turns := l }
    let u := { s with turns := [] }
    s.booted = true ∧ s.power.state = .run ∧ u.mayIssue false 0 0 = true ∧ u.chosen 0 = some (0, 0) ∧ s.campReady = false ∧
    s.stepping = none ∧ s.accessStep = none ∧ s.slotsInTurn.findSome? s.nextReply = none ∧ s.anyChosen = some (0, 0) ∧
    ((0, s.group 0) ∈ s.slotGroups 0 ∧ 0 ∈ (s.group 0).liveSplits ∧ s.mayIssue false 0 0 = true) ∧
    (match u.fetch 0 (u.group 0).ctx (u.group 0).super ((u.group 0).split 0).pc.toNat with
     | (_, .ok ws) => decide (decode false (ws.flatMap bytesOfWord) = .ok (.iaddI32Reg ⟨2, 1, 3, 2, 3, none⟩) 4)
     | _ => false) = true := by decide +kernel

/-- Whether a fetch of core 0 at va translates to a word outside its instruction cache, or inside it. -/
def fetchesAt (s : State) (va : Nat) (cached : Bool) : Bool :=
  match s.coreTranslate 0 0 false false 2 va with
  | (u, .ok pa _ _) => decide (pa = va ∧ u.window pa ≠ some 3 ∧ ((u.core 0).icache.look (pa / 32)).isSome = cached ∧ u.slice.length < 16)
  | _ => false

/-- A word at 0x80004 and its translation; a sector with poison. -/
theorem test_fetch_premises : let s := State.reset.withFetchWord 64 0
    fetchesAt s 0x80004 false = true ∧
    fetchesAt (s.setCore 0 { s.core 0 with icache := [(0x4000, { data := 0x1FC })] }) 0x80000 true = true ∧
    ((s.homePut 0x4000 0 true).slice.look 0x4000).map (·.poison) = some true := by decide +kernel

/-- A walker with its turn: NOP at U's code. -/
def wanderSt : State := mapped { st with
  mem := [(st.dram 0x80000, 0xFC), (st.dram 0x80000 + 1, 0x01)],
  searches := [(1, { (default : Search) with admitted := true, walkers := 1, super := true })],
  walkers := [(2, { search := 1, stack := 0, engine := 0, p := 1, pc := 0x80000 })], turns := [.walker 2] }
theorem test_walker_turn_premises : let s := wanderSt
    s.booted = true ∧ s.power.state = .run ∧ s.hasWalker 2 = true ∧ (s.walker 2).waiting = false ∧ (s.walker 2).travel = false ∧
    s.power.entering = false ∧ s.mayWork (s.search 1).ctx 776 = true ∧
    (s.turns = [.walker 2] ∧ s.nextWalker 0 = some 2 ∧ s.walkerReady 2 = true ∧
      s.translate 0 false false 2 0x80000 ≠ .busy) ∧
    (match { s with lastWalker := s.lastWalker.set 0 0 3 }.walkerWord 0 0x80000 with
     | (t, some (w, _)) => lengthWords w = 1 &&
       (match State.walkerWords 0 (lengthWords w) 0x80000 t with
        | (_, some ws) => ws.all (fun y => !y.2) && decide (decode true ((ws.map (·.1)).flatMap bytesOfWord) = .ok (.nopBase ⟨0, 0, 0, 0, 0, none⟩) 4)
        | _ => false)
     | _ => false) = true := by decide +kernel

/-- Reset runs the cold initialisation first (R395; log 1). -/
theorem test_first_step : State.reset.booted = false ∧ State.reset.mem.wf = true := by decide +kernel

/-! ### Encodings (R33 to R61, R79 to R83)

Words written out field by field: word 0 MOD, GN, GP, S, XOP, L; word 1 A's class, index, kind, parameter and negation, D's class,
index and saturation; word 2 the C field, B's five fields (R38, R40, R52, R53); a base word B, A, D, G, S, BOP, L (R35). -/

/-- Fields of an instruction without guard, its destination and sources. -/
def flds (stall mod : Nat) (d : Dst) (a b : Src) (c : BitVec 12) (lit : Option (BitVec 64) := none) : Ext :=
  { ext mod d a b c lit with stall := BitVec.ofNat 4 stall }

/-- One word of every class of R79, in core code. -/
def classWords : List (List Word × Instr) := [
  ([0b0001000000_0_00000_0101_0000000010_01, 0b001_00000001_000_00000_1_000_00001001_1, 0b000_00000000_0_110_11111101_000_00000_0],
    .isub (flds 5 0x040 { dv 9 with sat := true } { v 1 with cls := .o, neg := true } (im 0xFD) 0)),
  ([0b0011100000_0_00000_0000_0001000101_01, 0b011_00000110_000_00000_0_000_00000100_0, 0b000_00000000_0_000_00000011_010_00101_0],
    .shl (flds 0 0x0E0 (dv 4) (g 6) { v 3 with pat := .bcast, param := 5 } 0)),
  ([0b0001000011_1_00010_0001_0010000000_01, 0b000_00000111_011_10000_0_100_00011111_0, 0b000_00000000_0_010_00000001_000_00000_0],
    .icmp { flds 1 0x043 (dp 31) { v 7 with pat := .bfly, param := 16 } { v 1 with cls := .l } 0 with gn := true, gp := 2 }),
  ([0b0011000001_0_00000_0010_0011000001_01, 0b000_00000101_100_00000_0_000_00000110_0, 0b000_00000000_0_110_00000100_000_00000_0],
    .shfl (flds 2 0x0C1 (dv 6) { v 5 with pat := .mir } (im 4) 0)),
  ([0b0000000000_0_00000_0000_0100000000_11, 0, 0b000_00000000_0_111_00000000_000_00000_0, 0xFFFF_FFF0, 0xFFFF_FFFF],
    .bra (flds 0 0 Dst.zero Src.zero lt 0 (some 0xFFFF_FFFF_FFFF_FFF0))),
  ([0b01000_01_1_00_0_00000_0011_0101000010_01, 0b000_00001010_001_00111_0_001_00000010_0, 0b000_00000000_0_000_00001011_101_00100_1],
    .fmul (flds 3 0x10C { dv 2 with cls := .o } { v 10 with pat := .rot, param := 7 } { v 11 with pat := .fold, param := 4, neg := true } 0)),
  ([0b00010_10_0_00_0_00000_0000_0110001000_01, 0b000_00010000_000_00000_0_000_00010001_0, 0b01000_0000000_110_00000000_000_00000_0],
    .cvt (flds 0 0x050 (dv 17) (v 16) (im 0) 0x400)),
  ([0b01011_00_0_00_0_00000_0100_0111000100_01, 0b000_00000001_000_00000_0_000_00000011_0, 0b000_00000111_1_000_00000010_000_00000_0],
    .qdot4 (flds 4 0x160 (dv 3) (v 1) (v 2) 0x00F)),
  ([0b00110_01_000_0_00000_0000_1000000000_01, 0b000_00000100_000_00000_0_000_00000110_0, 0b0011_01_11_00_00_110_00001000_000_00000_0],
    .ld (flds 0 0x0C8 (dv 6) (v 4) (im 8) 0x370)),
  ([0b00110_11_010_0_00000_0000_1001000000_01, 0b000_00000010_000_00000_0_000_00000000_0, 0b0000_10_00_00_00_000_00000001_000_00000_0],
    .atom (flds 0 0x0DA (dv 0) (v 2) (v 1) 0x080)),
  ([0b01_0_1_000000_0_00000_0000_1010000000_01, 0b011_00000100_000_00000_0_011_00001000_0, 0b0101_00_00_01_00_011_00000110_000_00000_0],
    .cpy (flds 0 0x140 (dg 8) (g 4) (g 6) 0x504)),
  ([0b00_000_00101_0_00000_0000_1011000100_01, 0b000_00000011_000_00000_0_000_00000010_0, 0b011_00000100_0_011_00001010_000_00000_0],
    .mma (flds 0 0x005 (dv 2) (v 3) (g 10) 0x608)),
  ([0b0000000000_0_00000_0000_1100010000_01, 0, 0], .bar (flds 0 0 Dst.zero Src.zero Src.zero 0)),
  ([0b0000000000_0_00000_0000_1101000100_01, 0b011_00000100_000_00000_0_011_00000101_0, 0b0000_01_00_10_00_011_00000110_000_00000_0],
    .nmfill (flds 0 0 (dg 5) (g 4) (g 6) 0x048)),
  ([0b0000010011_0_00000_1111_1111000100_01, 0b000_00000000_000_00000_0_000_00000001_0, 0], .srd (flds 15 0x013 (dv 1) Src.zero Src.zero 0)),
  ([0b111111_000010_000001_111_01_0000001_00], .iaddI32Imm ⟨0x3F, 2, 1, 7, 1, none⟩),
  ([0b000000_000100_000110_000_00_0010111_00], .notN32Base ⟨0, 4, 6, 0, 0, none⟩),
  ([0b000011_000010_000001_000_11_0110101_00], .ffmaF32Base ⟨3, 2, 1, 0, 3, none⟩),
  ([0b000000_000000_000000_101_00_1111110_00], .exitBase ⟨0, 0, 0, 5, 0, none⟩),
  ([0b000000_000010_000100_000_00_0100001_00], .movN64Base ⟨0, 2, 4, 0, 0, none⟩)]

theorem test_class_words : ∀ e ∈ classWords,
    decode false (e.1.flatMap bytesOfWord) = .ok e.2 (4 * e.1.length) ∧ encode e.2 = e.1 := by decide +kernel

/-- A word of class E, in walker code: WNBR w5, w1, 2. -/
theorem test_walker_word :
    decode true ([0b0000000000_0_00000_0000_1110000001_01, 0b000_00000001_000_00000_0_000_00000101_0,
      0b000_00000000_0_110_00000010_000_00000_0].flatMap bytesOfWord) = .ok (.wnbr (flds 0 0 (dv 5) (v 1) (im 2) 0)) 12 := by
  decide +kernel

/-- Terms that one check of an encoding refuses, with the sub-code of R60 it answers. -/
def illFormed : List (Bool × Instr × Nat) := [
  -- MOD, the guard, memory control
  (false, .iadd (ext 0x041 (dv 1) (v 1) (v 2)), 2), (false, .iadd { ext 0x040 (dv 1) (v 1) (v 2) with gn := true }, 2),
  (false, .join { ext 0 with gp := 3 }, 2), (false, .ld (ext 0x0C0 (dv 6) (v 4) (im 8) 0x0C0), 2),
  (false, .ld (ext 0x0C0 (dv 6) (v 4) (im 8) 0x00C), 2), (false, .cpy (ext 0x300 (dg 8) (g 4) (g 6)), 2),
  (false, .bfence (ext 0 (dg 8) Src.zero Src.zero 0x040), 2), (false, .ld (ext 0x0C0 (dv 6) (v 4) (im 8) 0x044), 2),
  -- classes
  (false, .movl (ext 0x040 (dv 1) (g 2)), 3), (false, .iadd (ext 0x040 (dv 1) (v 1) lt), 3),
  (false, .iadd (ext 0x060 (dv 2) (v 2) (p 1)), 3), (false, .iadd (ext 0x040 (dv 1) (v 1) { v 2 with cls := .port }), 3),
  (false, .iadd (ext 0x040 { dv 1 with cls := .port } (v 1) (v 2)), 3), (false, .iadd (ext 0x040 (dg 1) (v 1) (g 2)), 3),
  -- indices
  (false, .pand (ext 0 (dp 32) (p 1) (p 2)), 4), (false, .iadd (ext 0x040 (dv 1) (v 1) (g 64)), 4), (false, .iadd (ext 0x060 (dv 1) (v 2) (v 4)), 4),
  (false, .tld (ext 0 (dv 8) (g 1)), 4), (false, .cpyt (ext 0 (dg 9) (g 4) (g 6)), 4), (false, .cvt (ext 0x050 (dv 1) (v 1) (im 1) 0x400), 4),
  (false, .mloop (ext 5 (dv 4) (g 1) (g 2) 0x608), 4), (false, .sbind (ext 0 { dv 4 with cls := .port } (g 1) (g 2)), 4),
  -- patterns
  (false, .iadd (ext 0x040 (dv 1) { v 1 with pat := .res6 } (v 2)), 5), (false, .iadd (ext 0x040 (dv 1) { v 1 with pat := .mir, param := 1 } (v 2)), 5),
  (false, .iadd (ext 0x040 (dv 1) { g 1 with pat := .bcast } (v 2)), 5), (false, .iadd (ext 0x040 (dv 1) { v 1 with pat := .fold, param := 5 } (v 2)), 5),
  -- fields that are zero
  (false, .iabs (ext 0x040 (dv 1) (v 1) (v 2)), 6), (false, .nop (ext 0 (dv 1)), 6), (false, .imul (ext 0x040 { dv 1 with sat := true } (v 1) (v 2)), 6),
  (false, .iadd (ext 0x040 (dv 1) (v 1) (v 2) 1), 6), (false, .ld (ext 0x0C0 (dv 6) (v 4) (im 8) 1), 6),
  (false, .iadd (ext 0x040 (dv 1) (v 1) { lt with idx := 1 } 0 (some 5)), 6), (false, .cvt (ext 0x050 (dv 1) (v 1) (im 0) 0x401), 6),
  -- negation, a literal nothing reads
  (false, .iadd (ext 0x040 (dv 1) (v 1) { im 2 with neg := true }), 8), (false, .ld (ext 0x0C0 (dv 6) { v 4 with neg := true } (im 8)), 8),
  (false, .iadd (ext 0x040 (dv 1) (v 1) (v 2) 0 (some 5)), 8),
  -- the special-register form of MOV
  (false, .mov (ext 0x0C1 (dv 1) (v 0x1A)), 2), (false, .mov (ext 0x0C1 (dv 1) (g 0)), 3), (false, .mov (ext 0x0C1 (dv 1) { v 0 with pat := .mir }), 5),
  (false, .mov (ext 0x0C1 (dv 1) { v 0 with neg := true }), 8),
  -- walker code
  (true, .iadd { ext 0x040 (dv 1) (v 1) (v 2) with gp := 8 }, 4), (true, .iadd (ext 0x040 (dv 1) (v 1) (g 2)), 3), (true, .iadd (ext 0x040 (dv 16) (v 1) (v 2)), 4),
  (true, .iadd (ext 0x040 (dv 1) { v 1 with pat := .bcast } (v 2)), 5), (true, .wnode (ext 0 (dv 14) (v 1)), 4), (true, .mov (ext 0x0C1 (dv 1) (v 0)), 2),
  -- base words
  (false, .notN32Base ⟨0, 1, 2, 0, 0, some 7⟩, 3), (false, .notN32Base ⟨1, 1, 2, 0, 0, none⟩, 6), (false, .iaddI32Reg ⟨1, 1, 2, 0, 0, some 7⟩, 6),
  (false, .exitBase ⟨0, 1, 0, 0, 0, none⟩, 6), (false, .nopBase ⟨0, 0, 1, 0, 0, none⟩, 6), (false, .movN64Base ⟨0, 2, 3, 0, 0, none⟩, 4)]

theorem test_ill_formed : ∀ e ∈ illFormed, e.2.1.sub e.1 = e.2.2 ∧
    decode e.1 (encodeBytes e.2.1) = .illegal e.2.2 e.2.1 (encodeBytes e.2.1).length := by decide +kernel

/-- A short read: two words of three are no instruction (R33). -/
theorem test_cut_short : decode false ([0x10296001, 0x00E46190].flatMap bytesOfWord) = .truncated := by decide +kernel

/-- The table's numbering: the first word is the least significant. -/
theorem test_table_word : decodeTableWord 96 0x00060A01_00E46190_10296001 = some
    (.iadd ⟨6, 9, true, 0x040, ⟨.v, 7, .rot, 3, false⟩, ⟨.v, 200, false⟩, ⟨.g, 5, .ident, 0, true⟩, 0, none⟩) := by decide +kernel

/-! ### What the chapters work out -/

/-- The words that R155, and the chapters on copies, matrices, near-memory commands and the grid barrier give. -/
def exampleWords : List (List Word × Instr) := [
  ([0x5840_0621, 0x0120_000B, 0x400C_0400], .cvt { ext 0x161 { dv 5 with sat := true } (v 9) (im 2) 0x400 with stall := 0 }),
  ([0x4003_0901, 0x0140_0028, 0x1400_2A00], .atom { ext 0x100 (dv 20) (v 10) (v 21) 0x140 with stall := 0, gp := 3 }),
  ([0xA080_1B11, 0x0040_0002, 0x6146_1000], .mma { ext 0x282 (dv 1) (v 2) (g 8) 0x614 with stall := 1 }),
  ([0x4A00_0D01, 0x60C0_0050, 0x1486_1800], .nmdot { ext 0x128 (dv 40) (g 6) (g 12) 0x148 with stall := 0 }),
  ([0x3605_0901, 0x60A0_000A, 0x040C_0200], .atom { ext 0x0D8 (dv 5) (g 5) (im 1) 0x040 with stall := 0, gp := 5 }),
  ([0x3200_0801, 0x60C0_061E, 0x070C_0000], .ld { ext 0x0C8 (dg 15) (g 6) (im 0) 0x070 with stall := 0 })]

theorem test_example_words : ∀ e ∈ exampleWords,
    decode false (e.1.flatMap bytesOfWord) = .ok e.2 (4 * e.1.length) ∧ encode e.2 = e.1 := by decide +kernel

/-- R155's example: byte 2 of v5 takes the e4m3 of 500.0, saturated or not. -/
def cvtSt : State := st (fun x => { x with rows := [(5 * 32, 0x1122_3344), (9 * 32, 0x43FA_0000)] })
theorem test_cvt_example :
    vOf (after (.cvt (ext 0x161 { dv 5 with sat := true } (v 9) (im 2) 0x400)) cvtSt) 5 0 = 0x117E_3344 ∧
    vOf (after (.cvt (ext 0x161 (dv 5) (v 9) (im 2) 0x400)) cvtSt) 5 0 = 0x117F_3344 := by decide +kernel

/-- R159's example: 2^24 + 2 in one rounding, with no flag. -/
theorem test_qdot4_example :
    let t := after (.qdot4 (ext 0x160 (dv 2) (v 0) (v 1) 0x006))
      (st (fun x => { x with rows := [(0, 0x3838_3838), (32, 0x0000_3838), (96, 0x4B80_0000)] }))
    vOf t 2 0 = 0x4B80_0001 ∧ (t.group 0).fresh.map (·.flags) = [0] := by decide +kernel

/-- R17 and R333's example: address 0x1500 lies in stack 5, pseudo-channel 2, and its home is slice 20. -/
theorem test_home_example : st.home 0x1500 = 20 ∧ (st.dram 0x1500 - blBase) / 2 ^ 36 = 5 ∧
    (st.dram 0x1500 - blBase) / 2 ^ 29 % 128 = 2 := by decide +kernel


/-! ### What `InstructionsComplete` and `EventsComplete` ask beside the premises above -/

def exitX : Ext := { ext 0 with gp := 1 }

/-- EXIT of some lanes of the only split; BAR of the only group. -/
theorem test_exit_completes_premises : let s := st (fun x => { x with p := [(1, 0xF)] })
    Meets (.exit exitX) s (Enc.ofExt 0x108 exitX) ∧
    (filled s 0 ∧ ((s.group 0).split 0).mask &&& ~~~(s.lanes 0 0 (Enc.ofExt 0x108 exitX)) ≠ 0 ∧
      ∀ k, k < 4 → k ≠ 0 → ((s.group 0).split k).live = false) :=
  ⟨meets rfl (by decide +kernel) (by decide +kernel), by decide +kernel⟩

theorem test_bar_completes_premises : let s := barSt [0]
    (s.group 0).live = true ∧ (s.group 0).retiring = false ∧ (s.wgOf 0).groups = [0] ∧ (s.group 0).handler = none ∧
    (∀ j, j < 4 → ((s.group 0).split j).due = none) ∧ (s.group 0).ops = [] := by decide +kernel

/-- A relay with room for its successor. -/
theorem test_service_completes_premises : let s := relaySt 1
    (match s.distRead 0 false 0x200000 128 with
     | (u, .ok bs) =>
       (match u.checkManifest 0 false bs with
        | (v, .ok k) => decide (v.groups = s.groups ∧ v.slots = s.slots ∧ v.wgs = s.wgs ∧
            (v.room 0 (some 1)).fitsAt (dNeed k.launch.descBytes) 0 = true ∧ (v.relayRows 0 (dRows k.launch.descBytes) 0).isSome = true)
        | _ => false)
     | _ => false) = true ∧ enqRec.space = 1 ∧ parkPend.space = 1 ∧ feCopy.kind = 0 := by decide +kernel

/-- A promoted packet at the end of its path; an arrival that releases nothing; a sector that fails lastingly. -/
theorem test_event_completes_premises :
    (let p := pk 1 0 64 (some 2)
     ((portFab [p]).fabric 3).packets = [p] ∧ p.promoted ≠ none ∧ ((portFab [p]).fabric 3).backlog = [] ∧ p.flits ≤ 16 ∧
       p.route = [] ∧ p.cargo.answer = none) ∧
    ({ addr := 0x100000, ctx := 0, count := 1, status := 0 } : Arrival).after = [] ∧
    ((blBase / 32 + 5, true) ∈ (eccSt true).ecc ∧ ∀ b, (blBase / 32 + 5, b) ∈ (eccSt true).ecc → b = true) := by
  refine ⟨by decide +kernel, by decide, by decide +kernel, fun b h => ?_⟩
  simpa [eccSt] using h

theorem test_grant_completes : EligibleAt (portFab [pk 1 0 64 (some 2)]) 3 0 (pk 1 0 64 (some 2)) := eligible_one _ (by decide)

/-- A walker's stack other than its search's home, and none held at a stop. -/
theorem test_stride_completes_premises : (walkSt (qa [] 0 1)).stops = [] ∧ (5 : Nat) ≠ (walkSt (qa [] 0 1)).ids := by
  decide +kernel

end Sys2Proof.Tests
end

/-! ### Base words with an unassigned BOP (R80, R84) -/

namespace Sys2Proof

/-- A word read back from its bytes (R10). -/
theorem wordOfBytes_bytesOfWord (w : Word) : wordOfBytes (w.extractLsb 7 0) (w.extractLsb 15 8) (w.extractLsb 23 16)
    (w.extractLsb 31 24) = w := by
  have join := @BitVec.extractLsb'_append_extractLsb'_eq_extractLsb'
  calc w.extractLsb' 24 8 ++ w.extractLsb' 16 8 ++ w.extractLsb' 8 8 ++ w.extractLsb' 0 8
      = w.extractLsb' 0 32 := by rw [join (by rfl), join (by rfl), join (by rfl)]
    _ = w := BitVec.extractLsb'_eq_self

theorem wordsOfBytes_bytesOfWord_append (w : Word) (rest : List Byte) :
    wordsOfBytes (bytesOfWord w ++ rest) = w :: wordsOfBytes rest :=
  congrArg (· :: wordsOfBytes rest) (wordOfBytes_bytesOfWord w)

/-- Eight bytes hold the two words of a literal (R34). -/
theorem wordsOfBytes_of_eight_le : ∀ {bs : List Byte}, 8 ≤ bs.length → ∃ l0 l1 ws, wordsOfBytes bs = l0 :: l1 :: ws
  | _ :: _ :: _ :: _ :: _ :: _ :: _ :: _ :: rest, _ => ⟨_, _, wordsOfBytes rest, rfl⟩

/-- R84: the base opcodes that no row of R82 has. -/
theorem baseCtor_eq_none {bop : Nat} (h : (33 < bop ∧ bop < 48) ∨ (60 < bop ∧ bop < 64) ∨ (67 < bop ∧ bop < 126)) :
    baseCtor bop = none := by
  have table : ∀ n < 126, (33 < n ∧ n < 48) ∨ (60 < n ∧ n < 64) ∨ 67 < n → (baseCtor n).isNone = true := by decide
  exact Option.isNone_iff_eq_none.mp (table bop (by omega) (by omega))

/-- The base opcode is bits 8:2 of the word (R35). -/
theorem bopOf_eq (w : Word) : bopOf w = w.toNat / 4 % 128 := by
  simp [bopOf, Nat.shiftRight_eq_div_pow]

/-- An even length code is that of a base word, by bit 1 without or with a literal (R33). -/
theorem lengthCode_of_even {w : Word} (h : w.getLsbD 0 = false) : bits 1 0 w = if w.getLsbD 1 then 2 else 0 := by
  have hbits : bits 1 0 w = w.toNat % 4 := by simp
  have heven : w.toNat % 2 = 0 := Nat.mod_two_eq_zero_iff_testBit_zero.mpr h
  rw [hbits, ← BitVec.testBit_toNat, Nat.testBit_eq_decide_div_mod_eq]
  simp only [decide_eq_true_eq]
  split <;> omega

/-- R80: an unassigned opcode reads as the instruction that says so, with the length its length code gives. -/
theorem decodeRaw_of_baseCtor_none {w : Word} {ws : List Word} (h0 : w.getLsbD 0 = false) (hb : baseCtor (bopOf w) = none)
    (hl : w.getLsbD 1 = true → ∃ l0 l1 rest, ws = l0 :: l1 :: rest) :
    decodeRaw (w :: ws) = some (.unassignedOpcode w, if w.getLsbD 1 = true then 12 else 4) := by
  have hc := lengthCode_of_even h0
  cases h1 : w.getLsbD 1 with
  | false =>
    rw [h1] at hc
    simp [decodeRaw, hc, hb]
  | true =>
    obtain ⟨l0, l1, rest, rfl⟩ := hl h1
    rw [h1] at hc
    simp [decodeRaw, hc, hb]

/-- R84: an unassigned opcode has sub-code 1, in core and in walker code. -/
theorem decode_of_decodeRaw_unassigned {walker : Bool} {bs : List Byte} {w : Word} {n : Nat}
    (h : decodeRaw (wordsOfBytes bs) = some (.unassignedOpcode w, n)) :
    decode walker bs = .illegal 1 (.unassignedOpcode w) n := by
  have hs : (Instr.unassignedOpcode w).sub walker = 1 := rfl
  simp [decode, h, hs]

end Sys2Proof

namespace Sys2Proof.Machine

/-! ### The issue of an instruction that breaks a condition of R60 -/

/-- R380: the issue's look at the breakpoints, skipped at this address or without a match. -/
theorem Quiet.noMatch {s : State} {gid sid : Nat} (q : Quiet s gid sid) :
    (if (((s.calm gid).split sid).skips.contains ((s.calm gid).split sid).pc ||
        (s.ctx (s.calm gid).ctx).stepReq.isSome) = true then none
      else (s.ctx (s.calm gid).ctx).matchBp ((s.calm gid).split sid).pc) = none := by
  rcases q.noBreak with h | h
  · exact if_pos (by rw [State.calm_split, h]; rfl)
  · split
    · rfl
    · exact h

/-- R60, R370: an instruction that breaks a condition of R60 where it stands raises trap 0x01 with its sub-code, at itself
and before any effect. -/
theorem State.issueSplit_illegal (s : State) (op : Op) (gid sid : Nat) (q : Quiet s gid sid)
    (h : (s.calmed gid).subOf op gid sid ≠ 0) :
    s.issueSplit op gid sid = (s.calmed gid).raise gid ⟨0x01, sid, ((s.group gid).split sid).pc,
      ((s.group gid).split sid).mask, 0, BitVec.ofNat 64 ((s.calmed gid).subOf op gid sid), ((s.group gid).split sid).pc⟩ := by
  have hgrp : (s.calmed gid).group gid = s.calm gid := State.group_setGroup_same ..
  have hctx : (s.calmed gid).ctx = s.ctx := rfl
  unfold State.issueSplit
  simp only [show s.setGroup gid ((s.group gid).settle s.cycle) = s.calmed gid from rfl, hgrp, hctx]
  rw [q.noMatch]
  exact if_pos h

theorem lowestSub_one_cons (l : List Nat) : lowestSub (1 :: l) = 1 := by
  simp only [lowestSub]
  split
  · contradiction
  · split <;> omega

theorem State.subOf_of_sub_one (s : State) {op : Op} (gid sid : Nat) (h : op.sub = 1) : s.subOf op gid sid = 1 := by
  unfold State.subOf
  rw [h]
  exact lowestSub_one_cons _

/-! ### A fault of a walker (R250) -/

/-- A held message that takes the freed context moves its walker only (R252). -/
@[simp] theorem State.serveStop_searches (s : State) (stack : Nat) : (s.serveStop stack).searches = s.searches := by
  unfold State.serveStop
  split <;> rfl

/-- The contexts that ended walkers leave are given out one by one (R252). -/
theorem State.foldl_serveStop_searches (gone : List (Nat × Walker)) (s : State) :
    (gone.foldl (fun s e => if e.2.travel then s else s.serveStop e.2.stack) s).searches = s.searches := by
  induction gone generalizing s with
  | nil => rfl
  | cons e gone ih =>
    rw [List.foldl_cons, ih]
    split
    · rfl
    · exact State.serveStop_searches ..

@[simp] theorem State.search_setSearch_same (s : State) (k : Nat) (q : Search) : (s.setSearch k q).search k = q :=
  Tab.get_put_same _ _ _ _

theorem State.search_dropWalkers_same (s : State) (k : Nat) :
    (s.dropWalkers k).search k = { s.search k with walkers := 0 } := by
  unfold State.dropWalkers State.search
  rw [State.foldl_serveStop_searches]
  exact State.search_setSearch_same ..

/-- What a walker's fault leaves of its search (R250). -/
theorem State.search_walkerFault (s : State) (id : Nat) : (s.walkerFault id).search (s.walker id).search =
    { s.search (s.walker id).search with fault := true, walkers := 0 } := by
  unfold State.walkerFault
  rw [State.search_dropWalkers_same, State.search_setSearch_same]

/-! ### The two agents that meet an unassigned opcode (R60, R80, R84) -/

/-- R60: no other condition that the instruction breaks goes before sub-code 1. -/
theorem State.run_of_sub_one {s : State} {gid sid : Nat} {op : Op} (q : Quiet s gid sid) (h : op.sub = 1) (walk : WalkOp) :
    s.run op walk = .next ((s.calmed gid).raise gid ⟨0x01, sid, ((s.group gid).split sid).pc,
      ((s.group gid).split sid).mask, 0, 1, ((s.group gid).split sid).pc⟩) := by
  have hsub := State.subOf_of_sub_one (s.calmed gid) gid sid h
  have hissue := State.issueSplit_illegal s op gid sid q (by rw [hsub]; decide)
  rw [State.run, State.issue, q.who]
  simp only [hissue, hsub]
  rfl

/-- An instruction that walker code may not use is a walker's fault (R81, R250). -/
theorem State.run_noWalk {s : State} {id : Nat} (h : s.who = .walker id) (op : Op) :
    s.run op noWalk = .next (s.walkerFault id) := by
  rw [State.run, State.issue, h]
  rfl

theorem exec_unassignedOpcode (w : Word) (s : State) : exec (.unassignedOpcode w) s =
    s.run { sub := 1, size := sizeOfWord w, stall := 0, act := fun s _ => s } noWalk := rfl

/-- Settles O36: what a base word without a row decodes to, and the two meanings of that, a core's trap and a walker's
fault. -/
theorem unassignedWordsTrap : Obligations.UnassignedWordsTrap := by
  unfold Obligations.UnassignedWordsTrap
  refine ⟨fun walker w rest h0 hbop hlen => ?_, fun s w gid sid q => ?_, fun s w id h => ?_⟩
  · have hraw := decodeRaw_of_baseCtor_none h0 (baseCtor_eq_none (bopOf_eq w ▸ hbop))
      (fun h1 => wordsOfBytes_of_eight_le (hlen h1))
    exact decode_of_decodeRaw_unassigned (by rw [wordsOfBytes_bytesOfWord_append, hraw])
  · exact (exec_unassignedOpcode w s).trans (State.run_of_sub_one q rfl noWalk)
  · refine ⟨s.walkerFault id, (exec_unassignedOpcode w s).trans (State.run_noWalk h _), ?_, ?_⟩
    · rw [State.search_walkerFault]; rfl
    · rw [State.search_walkerFault]

end Sys2Proof.Machine

/-! ### What a legal instruction's destination field holds (R45, R60) -/

namespace Sys2Proof

theorem lowestSub_eq_zero_iff {l : List Nat} : lowestSub l = 0 ↔ ∀ c ∈ l, c = 0 := by
  refine ⟨fun h => ?_, Machine.lowestSub_zero l⟩
  induction l with
  | nil => exact fun _ hc => absurd hc List.not_mem_nil
  | cons c l ih =>
    have hboth : c = 0 ∧ lowestSub l = 0 := by
      simp only [lowestSub] at h
      split at h
      · next hc => exact ⟨hc, h⟩
      · split at h <;> omega
    intro d hd
    rcases List.mem_cons.mp hd with rfl | hd
    · exact hboth.1
    · exact ih hboth.2 d hd

/-- A legal encoding keeps its entry's rule for D. -/
theorem Ext.dstSub_of_sub_eq_zero {walker : Bool} {xop : Nat} {x : Ext} {sh : Shape} (h : x.sub walker xop = 0)
    (hsh : shape xop x = some sh) : dstSub walker xop sh.d x.d = 0 := by
  unfold Ext.sub at h
  rw [hsh] at h
  exact lowestSub_eq_zero_iff.mp h _ (.tail _ (.tail _ (.head _)))

/-- A destination of the entries that write any class (R41) has a class that can be written, and .sat only where the entry
permits it (R45). -/
theorem of_dstSub_dst_eq_zero {xop : Nat} {wide sat : Bool} {d : Dst} (h : dstSub false xop (dst wide sat) d = 0) :
    (d.cls = .v ∨ d.cls = .o ∨ d.cls = .g ∨ d.cls = .p ∨ d.cls = .port) ∧ (d.sat = true → sat = true) := by
  have hfields : ¬ ((dst wide sat).cls.isEmpty || ((dst wide sat).orZero && d = Dst.zero)) = true := Bool.false_ne_true
  unfold dstSub at h
  rw [if_neg hfields] at h
  dsimp only at h
  split at h
  · cases h
  · next hcls =>
    split at h
    · cases h
    · split at h
      · cases h
      · next hsat =>
        have hmem : d.cls ∈ anyDst := Decidable.byContradiction fun hn => hcls (by
          have hcontains : (dst wide sat).cls.contains d.cls = false :=
            Bool.eq_false_iff.mpr fun hc => hn (List.contains_iff_mem.mp hc)
          simp only [hcontains, Bool.not_false, Bool.true_or])
        have hperm : d.sat = true → sat = true := fun hd => Decidable.byContradiction fun hn => hsat (by
          have hforbid : (dst wide sat).sat = false := Bool.eq_false_iff.mpr hn
          simp only [hd, hforbid, Bool.not_false, Bool.and_true])
        simp only [anyDst, List.mem_cons, List.not_mem_nil, or_false] at hmem
        exact ⟨hmem, hperm⟩

/-- A per-lane source is an operand of its entry (R79). -/
@[simp] theorem isEmpty_laneSrc_cls (x : Ext) (wide : Bool) : (laneSrc x wide).cls.isEmpty = false := by
  unfold laneSrc
  dsimp only
  split <;> rfl

@[simp] theorem laneSrc_wide (x : Ext) (wide : Bool) : (laneSrc x wide).wide = wide := rfl

end Sys2Proof

namespace Sys2Proof.Machine

/-! ### A per-lane instruction without a base form, from its encoding to `Done` -/

/-- The extended opcode n, which has no base form, is the computation u of every lane on the sources of its entry (R79); its
entry writes any class, with .sat or without. -/
structure ComputesPerLane (n : Nat) (sat : Bool) (u : Ext → Alu) : Prop where
  noBase : hasBase n = false
  meaning : ∀ x s, (Enc.ofExt n x).exec s = some ((Enc.ofExt n x).alu (u x) s)
  entry : ∀ x, ∃ sh, shape n x = some sh ∧ sh.d = dst (u x).wd sat
  sources : ∀ x, (Enc.ofExt n x).sources = (u x).srcs x

section
variable {n : Nat} {sat : Bool} {u : Ext → Alu} {i : Instr} {s : State} {gid sid : Nat} {e : Enc}

theorem ComputesPerLane.eq_ofExt (c : ComputesPerLane n sat u) (h : encOf i = some e) (hx : e.xop = n) :
    e = Enc.ofExt n e.x := by
  subst hx
  exact ofExt_of_enc h c.noBase

/-- R60: where the instruction is legal, its destination keeps the entry's rule. -/
theorem ComputesPerLane.dstSub_eq_zero (c : ComputesPerLane n sat u) {x : Ext} (r : Legal s gid sid (Enc.ofExt n x)) :
    dstSub false n (dst (u x).wd sat) x.d = 0 := by
  obtain ⟨sh, hsh, hd⟩ := c.entry x
  have hsub : x.sub false n = 0 := lowestSub_eq_zero_iff.mp r.legal _ (List.mem_cons_self ..)
  exact hd ▸ Ext.dstSub_of_sub_eq_zero hsub hsh

/-- R45: where the entry does not permit .sat, a legal instruction has none. -/
theorem ComputesPerLane.sat_eq_false (c : ComputesPerLane n false u) (h : encOf i = some e) (hx : e.xop = n)
    (r : Legal s gid sid e) : e.x.d.sat = false := by
  rw [c.eq_ofExt h hx] at r
  exact Bool.eq_false_iff.mpr fun hs => Bool.false_ne_true ((of_dstSub_dst_eq_zero (c.dstSub_eq_zero r)).2 hs)

/-- The instruction completes with its lanes' values. -/
theorem ComputesPerLane.exec_done (c : ComputesPerLane n sat u) (h : encOf i = some e) (hx : e.xop = n)
    (q : Quiet s gid sid) (r : Ready s gid sid e) :
    ∃ t, exec i s = .next t ∧ Done s t gid sid e (u e.x).wd (u e.x).latency ((u e.x).value s gid e) 0 := by
  obtain ⟨x, rfl⟩ : ∃ x, e = Enc.ofExt n x := ⟨e.x, c.eq_ofExt h hx⟩
  have hexec : exec i s = (Enc.ofExt n x).alu (u x) s := Option.some.inj ((exec_of_enc s h).symm.trans (c.meaning x s))
  rw [hexec]
  exact (Enc.ofExt n x).alu_done (u x) s gid sid q r (congrArg inPorts (c.sources x).symm)
    (of_dstSub_dst_eq_zero (c.dstSub_eq_zero r.toLegal)).1

end

/-! ### Numbers and results at the width of a type (R50, R113, R115) -/

section Width
open Rules

/-- The number of w bits is that of the bit vector they are. -/
theorem numOf_eq_num (isSigned : Bool) (w a : Nat) : numOf isSigned w a = num isSigned w a := by
  cases isSigned with
  | false => simp [numOf, num]
  | true =>
    have hmod : (BitVec.ofNat w a).toNat = a % 2 ^ w := BitVec.toNat_ofNat a w
    have hlt := (BitVec.ofNat w a).isLt
    cases w with
    | zero => simp [numOf, num, Nat.mod_one, BitVec.toInt_eq_toNat_cond]
    | succ w =>
      simp only [numOf, num, if_true, BitVec.toInt_eq_toNat_cond, hmod, Bool.true_and, decide_eq_true_eq,
        Nat.add_sub_cancel, Nat.pow_succ]
      split <;> split <;> omega

/-- wrap of R115. -/
theorem ofNat_wrapTo (w : Nat) (r : Int) : BitVec.ofNat w (wrapTo w r) = BitVec.ofInt w r := by
  rw [wrapTo, ← BitVec.toNat_ofInt, BitVec.ofNat_toNat, BitVec.setWidth_eq]

/-- A number of a type, wrapped at its width, is its bits. -/
theorem ofInt_num (isSigned : Bool) (w a : Nat) : BitVec.ofInt w (num isSigned w a) = BitVec.ofNat w a := by
  cases isSigned with
  | false => exact (BitVec.ofInt_natCast ..).trans (by rw [BitVec.ofNat_toNat, BitVec.setWidth_eq])
  | true => exact BitVec.ofInt_toInt

/-- R113: a 32-bit result stands in the low half of its register. -/
theorem setWidth_extend32 (isSigned : Bool) (v : Nat) : (extend32 isSigned v).setWidth 32 = BitVec.ofNat 32 v := by
  cases isSigned with
  | false => exact BitVec.setWidth_setWidth_of_le _ (by decide) |>.trans (BitVec.setWidth_eq _)
  | true =>
    apply BitVec.eq_of_getLsbD_eq
    intro j hj
    have h64 : j < 64 := Nat.lt_trans hj (by decide)
    change ((BitVec.signExtend 64 (BitVec.ofNat 32 v)).setWidth 32).getLsbD j = _
    rw [BitVec.getLsbD_setWidth, BitVec.getLsbD_signExtend]
    simp [hj, h64]

/-- Of a register with a result of the type, the bits of the type's width are the result. -/
theorem Alu.setWidth_result (u : Alu) (e : Enc) (hu : u.wd = isWideTy e.x.ty) (v : Nat) :
    (u.result (isSignedTy e.x.ty) v).setWidth (Rules.wd e) = BitVec.ofNat (Rules.wd e) v := by
  unfold Alu.result Rules.wd
  rw [hu]
  cases isWideTy e.x.ty with
  | true => exact BitVec.setWidth_eq _
  | false => exact setWidth_extend32 _ v

theorem getLsbD_ofNat_of_lt {w j : Nat} (v : Nat) (hj : j < w) : (BitVec.ofNat w v).getLsbD j = v.testBit j := by
  rw [BitVec.getLsbD_ofNat, decide_eq_true hj, Bool.true_and]

theorem Alu.getLsbD_result (u : Alu) (e : Enc) (hu : u.wd = isWideTy e.x.ty) (v : Nat) {j : Nat} (hj : j < Rules.wd e) :
    (u.result (isSignedTy e.x.ty) v).getLsbD j = v.testBit j := by
  rw [← getLsbD_ofNat_of_lt v hj, ← u.setWidth_result e hu v, BitVec.getLsbD_setWidth, decide_eq_true hj, Bool.true_and]

end Width

end Sys2Proof.Machine

namespace Sys2Proof.Machine
open Rules

/-! ### IDIV and IREM (R116, R118) -/

/-- The computation of IDIV, or of IREM with its remainder. -/
def divisionAlu (x : Ext) (f : Int → Int → Int) : Alu := { arith2 x f with latency := 16 }

/-- IDIV and IREM permit no .sat, so a lane's result is the exact one, wrapped (R115). -/
theorem divisionAlu_value (s : State) (gid : Nat) (e : Enc) (f : Int → Int → Int) (hsat : e.x.d.sat = false) (lane : Nat) :
    ((divisionAlu e.x f).value s gid e lane).setWidth (wd e) = BitVec.ofInt (wd e)
      (f (num (sg e) (wd e) (s.operand gid e .int (isWideTy e.x.ty) e.x.a lane))
        (num (sg e) (wd e) (s.operand gid e .int (isWideTy e.x.ty) e.x.b lane))) := by
  refine (Alu.setWidth_result _ e rfl _).trans ?_
  rw [← ofNat_wrapTo, ← numOf_eq_num, ← numOf_eq_num]
  simp only [divisionAlu, arith2, settleInt, hsat]
  rfl

/-- What IDIV or IREM computes on the numbers of its type. -/
def divisionOf (n : Nat) : Int → Int → Int := if n = 0x007 then remZero else divZero

theorem computesPerLane_division {n : Nat} (hn : n = 0x006 ∨ n = 0x007) :
    ComputesPerLane n false (fun x => divisionAlu x (divisionOf n)) := by
  rcases hn with rfl | rfl <;> exact {
    noBase := rfl
    meaning := fun _ _ => rfl
    entry := fun _ => ⟨_, rfl, rfl⟩
    sources := fun x => by simp [Enc.sources, Enc.ofExt, shape, shapeInt, divisionAlu, arith2, Alu.srcs] }

/-- All ones are −1 (R118). -/
theorem ofInt_neg_one_eq_ofNat (w : Nat) : BitVec.ofInt w (-1) = BitVec.ofNat w (2 ^ w - 1) := by
  calc BitVec.ofInt w (-1) = BitVec.allOnes w := by rw [BitVec.ofInt_neg, ← BitVec.neg_one_eq_allOnes]; rfl
    _ = BitVec.ofNat w (2 ^ w - 1) := BitVec.eq_of_toNat_eq (by simp)

/-- R118: the quotient by zero, as the table has it for an i and for an n type. -/
theorem ofInt_divZero_zero (isSigned : Bool) (w : Nat) (a : Int) : BitVec.ofInt w (divZero a 0) =
    if isSigned then BitVec.ofInt w (-1) else BitVec.ofNat w (2 ^ w - 1) := by
  cases isSigned with
  | true => rfl
  | false => exact ofInt_neg_one_eq_ofNat w

/-- R118: −1 divides without a remainder. -/
theorem remZero_neg_one (a : Int) : remZero a (-1) = 0 := by
  simp [remZero, Int.tmod_neg]

/-- R118: type_min divided by −1 wraps to type_min, its own negation. -/
theorem ofInt_divZero_neg_one {w : Nat} {a : BitVec w} (ha : a.toInt = -2 ^ (w - 1)) :
    BitVec.ofInt w (divZero a.toInt (-1)) = a := by
  have hmin : a = BitVec.intMin w := by
    cases w with
    | zero => exact Subsingleton.elim _ _
    | succ w =>
      apply BitVec.eq_of_toInt_eq
      rw [ha, BitVec.toInt_intMin, Nat.mod_eq_of_lt (Nat.pow_lt_pow_right (by decide) (by omega))]
      norm_cast
  calc BitVec.ofInt w (divZero a.toInt (-1)) = BitVec.ofInt w (-a.toInt) := by simp [divZero, Int.tdiv_neg]
    _ = -a := by rw [BitVec.ofInt_neg, BitVec.ofInt_toInt]
    _ = a := by rw [hmin, BitVec.neg_intMin]

/-- Settles O34: a zero divisor and an overflow are two more operands of the division that wraps its exact result. -/
theorem divisionEdgeCases : Obligations.DivisionEdgeCases := by
  unfold Obligations.DivisionEdgeCases
  intro i s gid sid e h hx q r
  have hcomp := computesPerLane_division hx
  have hsat := hcomp.sat_eq_false h rfl r.toLegal
  obtain ⟨t, hexec, hdone⟩ := hcomp.exec_done h rfl q r
  refine ⟨t, _, hexec, hdone, fun lane _ => ?_⟩
  dsimp only
  rw [divisionAlu_value s gid e _ hsat lane, divisionOf]
  refine ⟨fun hb => ?_, fun hsg ha hb => ?_⟩
  · have hzero : num (sg e) (wd e) (s.operand gid e .int (isWideTy e.x.ty) e.x.b lane) = 0 := by
      change BitVec.ofNat _ _ = 0 at hb
      rw [num, hb]
      simp
    rw [hzero]
    split
    · exact ofInt_num (sg e) (wd e) _
    · exact ofInt_divZero_zero (sg e) (wd e) _
  · have hnum : ∀ a, num (sg e) (wd e) a = (BitVec.ofNat (wd e) a).toInt := fun a => if_pos hsg
    rw [hnum, hnum]
    change (BitVec.ofNat _ _).toInt = -1 at hb
    rw [hb]
    split
    · rw [remZero_neg_one]; rfl
    · exact ofInt_divZero_neg_one ha

/-! ### BFX and BFI bit by bit (R120) -/

/-- A field of n bits extended to w by its type: its own bits, and above them the copies of its top bit or zeros. -/
theorem getLsbD_ofInt_num (isSigned : Bool) {n w j : Nat} (x : Nat) (hn : 0 < n) (hj : j < w) :
    (BitVec.ofInt w (num isSigned n x)).getLsbD j =
      if j < n then x.testBit j else isSigned && x.testBit (n - 1) := by
  cases isSigned with
  | false =>
    change (BitVec.ofInt w ((BitVec.ofNat n x).toNat : Int)).getLsbD j = _
    rw [BitVec.ofInt_natCast, getLsbD_ofNat_of_lt _ hj, BitVec.toNat_ofNat, Nat.testBit_mod_two_pow]
    split <;> simp [*]
  | true =>
    change ((BitVec.ofNat n x).signExtend w).getLsbD j = _
    rw [BitVec.getLsbD_signExtend, BitVec.msb_eq_getLsbD_last, decide_eq_true hj, Bool.true_and, Bool.true_and,
      getLsbD_ofNat_of_lt (j := n - 1) x (by omega)]
    split
    · next hjn => exact getLsbD_ofNat_of_lt x hjn
    · rfl

/-- R120: BFX gives the field's bits, and above them its extension. -/
theorem testBit_bitExtract (isSigned : Bool) {w j : Nat} (a c : Nat) (hj : j < w) :
    (bitExtract isSigned w a c).testBit j =
      if j < fieldLen w c then a.testBit (c % 256 + j)
      else isSigned && decide (0 < fieldLen w c) && a.testBit (c % 256 + fieldLen w c - 1) := by
  unfold bitExtract
  generalize fieldLen w c = n
  generalize c % 256 = pos
  dsimp only
  split
  · next hn => simp [hn]
  · next hn =>
    have hpos : 0 < n := Nat.pos_of_ne_zero hn
    rw [← getLsbD_ofNat_of_lt _ hj, ofNat_wrapTo, numOf_eq_num, getLsbD_ofInt_num _ _ hpos hj,
      Nat.testBit_div_two_pow, Nat.testBit_div_two_pow, Nat.add_comm j, ← Nat.sub_add_comm hpos, Nat.add_comm n]
    simp [hpos]

/-- R120: BFI gives A's low bits inside the field and B's bits outside. -/
theorem testBit_bitInsert (w a b c j : Nat) : (bitInsert w a b c).testBit j =
    if c % 256 ≤ j ∧ j < c % 256 + fieldLen w c then a.testBit (j - c % 256) else b.testBit j := by
  unfold bitInsert
  generalize fieldLen w c = n
  generalize c % 256 = pos
  dsimp only
  split
  · next hn => rw [if_neg (by omega)]
  · have hsum : b / 2 ^ (pos + n) * 2 ^ (pos + n) + a % 2 ^ n * 2 ^ pos + b % 2 ^ pos =
        2 ^ pos * (2 ^ n * (b / 2 ^ (pos + n)) + a % 2 ^ n) + b % 2 ^ pos := by
      rw [Nat.mul_add, ← Nat.mul_assoc, ← Nat.pow_add, Nat.mul_comm (b / _), Nat.mul_comm (a % _)]
    rw [hsum, Nat.testBit_two_pow_mul_add _ (Nat.mod_lt _ (Nat.two_pow_pos pos)),
      Nat.testBit_two_pow_mul_add _ (Nat.mod_lt _ (Nat.two_pow_pos n)), Nat.testBit_mod_two_pow, Nat.testBit_mod_two_pow,
      Nat.testBit_div_two_pow]
    by_cases hlow : j < pos
    · rw [if_pos hlow, if_neg (by omega)]
      simp [hlow]
    · by_cases hfield : j < pos + n
      · rw [if_neg hlow, if_pos (by omega), if_pos (by omega)]
        simp [show j - pos < n by omega]
      · rw [if_neg hlow, if_neg (by omega), if_neg (by omega)]
        congr 1; omega

/-- The computation of BFX. -/
def extractAlu (x : Ext) : Alu := shiftOp x (bitExtract (isSignedTy x.ty) (wOf x))
/-- The computation of BFI. -/
def insertAlu (x : Ext) : Alu := { logic2 x (fun a _ => a) with n := 3, f := bitInsert (wOf x) }

theorem computesPerLane_bfx : ComputesPerLane 0x04D false extractAlu where
  noBase := rfl
  meaning _ _ := rfl
  entry _ := ⟨_, rfl, rfl⟩
  sources x := by simp [Enc.sources, Enc.ofExt, shape, shapeLogic, extractAlu, shiftOp, logic2, Alu.srcs]

theorem computesPerLane_bfi : ComputesPerLane 0x04E false insertAlu where
  noBase := rfl
  meaning _ _ := rfl
  entry _ := ⟨_, rfl, rfl⟩
  sources x := by simp [Enc.sources, Enc.ofExt, shape, shapeLogic, insertAlu, logic2, Alu.srcs]

theorem computesPerLane_isel : ComputesPerLane 0x081 false isel where
  noBase := rfl
  meaning _ _ := rfl
  entry _ := ⟨_, rfl, rfl⟩
  sources x := by simp [Enc.sources, Enc.ofExt, shape, shapeMove, isel, logic2, Alu.srcs]

theorem getLsbD_typed {s : State} {gid lane j : Nat} {e : Enc} {how : As} {f : Src} (hj : j < wd e) :
    (Rules.typed s gid e how f lane).getLsbD j = (s.operand gid e how (isWideTy e.x.ty) f lane).testBit j :=
  getLsbD_ofNat_of_lt _ hj

/-- A field that is not empty ends below the width (R120). -/
theorem add_fieldLen_le {w c : Nat} (h : 0 < fieldLen w c) : c % 256 + fieldLen w c ≤ w := by
  unfold fieldLen at *
  dsimp only at *
  split at h
  · next hpos => rw [if_pos hpos]; omega
  · omega

/-- R120: a lane's result of BFX. -/
theorem getLsbD_extractAlu_value {s : State} {gid lane j : Nat} {e : Enc} (hj : j < wd e) :
    let c := s.operand gid e .bits false e.x.b lane
    let n := fieldLen (wd e) c
    ((extractAlu e.x).value s gid e lane).getLsbD j =
      if j < n then (Rules.typed s gid e .bits e.x.a lane).getLsbD (c % 256 + j)
      else sg e && decide (0 < n) && (Rules.typed s gid e .bits e.x.a lane).getLsbD (c % 256 + n - 1) := by
  intro c n
  refine ((Alu.getLsbD_result _ e rfl _ hj).trans (testBit_bitExtract _ _ _ hj)).trans ?_
  change (if j < n then _ else sg e && decide (0 < n) && _) = _
  by_cases hn : 0 < n
  · have hle : c % 256 + n ≤ wd e := add_fieldLen_le hn
    rw [getLsbD_typed (j := c % 256 + n - 1) (by omega)]
    split
    · rw [getLsbD_typed (by omega)]; rfl
    · rfl
  · simp [Nat.eq_zero_of_not_pos hn]

/-- R120: a lane's result of BFI. -/
theorem getLsbD_insertAlu_value {s : State} {gid lane j : Nat} {e : Enc} (hj : j < wd e) :
    let c := s.operand gid e .bits false e.x.cSrc lane
    ((insertAlu e.x).value s gid e lane).getLsbD j =
      if c % 256 ≤ j ∧ j < c % 256 + fieldLen (wd e) c then (Rules.typed s gid e .bits e.x.a lane).getLsbD (j - c % 256)
      else (Rules.typed s gid e .bits e.x.b lane).getLsbD j := by
  intro c
  rw [getLsbD_typed hj, getLsbD_typed (by omega)]
  exact (Alu.getLsbD_result _ e rfl _ hj).trans (testBit_bitInsert ..)

/-- R120, from the bits that BFX and BFI each give a lane. -/
theorem bitFieldsMove : BitFieldsMove := by
  intro i s gid sid e h hx q r
  rcases hx with hx | hx
  · obtain ⟨t, hexec, hdone⟩ := computesPerLane_bfx.exec_done h hx q r
    refine ⟨t, _, hexec, hdone, fun lane _ => ?_⟩
    simp only [hx, if_true]
    exact fun j hj => getLsbD_extractAlu_value hj
  · obtain ⟨t, hexec, hdone⟩ := computesPerLane_bfi.exec_done h hx q r
    refine ⟨t, _, hexec, hdone, fun lane _ => ?_⟩
    simp only [hx, Nat.reduceEqDiff, if_false]
    exact fun j hj => getLsbD_insertAlu_value hj

/-- R122: the choice is made on the bits, whatever the type's width. -/
theorem selectTakesAOrB : SelectTakesAOrB := by
  intro i s gid sid e h hx q r
  obtain ⟨t, hexec, hdone⟩ := computesPerLane_isel.exec_done h hx q r
  refine ⟨t, _, hexec, hdone, fun lane _ => (Alu.setWidth_result _ e rfl _).trans ?_⟩
  by_cases hc : s.operand gid e .bits false e.x.cSrc lane = 0
  · rw [if_pos hc]
    exact congrArg _ (if_neg (not_not_intro hc))
  · rw [if_neg hc]
    exact congrArg _ (if_pos hc)

/-- Settles O35: the three computations' bits, lane by lane. -/
theorem bitFieldsAndSelect : Obligations.BitFieldsAndSelect := by
  unfold Obligations.BitFieldsAndSelect
  exact ⟨bitFieldsMove, selectTakesAOrB⟩

end Sys2Proof.Machine
